-- ==== Sys2Proof/Word.lean ====
section
/-! DEFINITION. The word types (R9: every register is 64 bits wide; R32: bytes) and their plainest reading. -/

namespace Sys2Proof

/-- A 64-bit register value. -/
abbrev Word := BitVec 64

/-- One byte of memory. -/
abbrev Byte := BitVec 8

/-- The 64-bit word of a natural number, modulo 2^64. -/
abbrev word (n : Nat) : Word := BitVec.ofNat 64 n

end Sys2Proof
end

