-- ==== Sys2Proof/Machine/Bits.lean ====
section
/-! DEFINITION. Bit fields, sign extension and byte order (R3, R32). -/

namespace Sys2Proof.Machine

/-- Bits hi down to lo of a word, as a number (R3). -/
def bits (w : Word) (hi lo : Nat) : Nat := w.toNat / 2 ^ lo % 2 ^ (hi + 1 - lo)

/-- Bit n of a word. -/
def bit (w : Word) (n : Nat) : Bool := w.toNat / 2 ^ n % 2 = 1

/-- A bit as a number. -/
def ofBool (b : Bool) : Nat := if b then 1 else 0

/-- The signed reading of the low `w` bits of a number. -/
def signedOf (w n : Nat) : Int :=
  let v := n % 2 ^ w
  if 2 ^ w ≤ 2 * v then (v : Int) - 2 ^ w else v

/-- The low `w` bits of a word, sign-extended. -/
def sext (w : Nat) (v : Word) : Word := BitVec.ofInt 64 (signedOf w v.toNat)

/-- The low `w` bits of a word, zero-extended. -/
def zext (w : Nat) (v : Word) : Word := word (v.toNat % 2 ^ w)

/-- The word of an integer, modulo 2^64. -/
def wordOfInt (i : Int) : Word := BitVec.ofInt 64 i

/-- A byte of a number. -/
def byteOf (n : Nat) : Byte := BitVec.ofNat 8 n

/-- The `n` low bytes of a number, the lowest first (R32). -/
def bytesLe : Nat → Nat → List Byte
  | 0, _ => []
  | n + 1, v => byteOf v :: bytesLe n (v / 256)

/-- The number whose bytes these are, the lowest first (R32). -/
def numLe : List Byte → Nat
  | [] => 0
  | b :: r => b.toNat + 256 * numLe r

/-- The number in `n` bytes at an offset of a record. -/
def fieldLe (l : List Byte) (off n : Nat) : Nat := numLe ((l.drop off).take n)

/-- Counts one bits among the low `n` bits. -/
def popCount : Nat → Nat → Nat
  | 0, _ => 0
  | n + 1, v => v % 2 + popCount n (v / 2)

/-- Number of bits needed to write a number: 0 for 0. -/
def bitLen (v : Nat) : Nat := if v = 0 then 0 else v.log2 + 1

/-- Zero bits below the lowest one bit among `n` bits; `n` where there is none. -/
def trailingZeros : Nat → Nat → Nat
  | 0, _ => 0
  | n + 1, v => if v % 2 = 1 then 0 else 1 + trailingZeros n (v / 2)

/-- Smallest number of groups of `g` that hold `n`. -/
def ceilDiv (n g : Nat) : Nat := (n + g - 1) / g

/-- Sequence numbers of 16 bits (R312). -/
def n16 (n : Nat) : Nat := n % 65536

/-- Difference of 16-bit sequence numbers (R312). -/
def diff16 (a b : Nat) : Nat := (a + 65536 - b % 65536) % 65536

end Sys2Proof.Machine
end

