-- ==== Sys2Proof/Config.lean ====
section
/-! DEFINITION. Figures of R1 that are fixed for the module, and the FREE VALUES: constants with no value that a
proof can see, one for each thing the manual leaves open. A statement about a free value holds for every value. -/

namespace Sys2Proof.Config

/-! ## Free values (no body that a proof can unfold) -/

/-- Which of the steps that the device may take next is taken (notes/assumptions/1.md). -/
opaque schedule : Nat → Nat

/-- The key that the ridge's random-number generator yields (R469). DESIGN CHOICE (notes/assumptions/32.md). -/
opaque randomKey : Nat → BitVec 512

/-- What byte `i` of a DRAM sector decrypts to under another key than it was written under (R226, R418): the key of the write,
the key of the read, the sector's address / 32, its 32 bytes as they were written, and `i`. -/
opaque rekeyed : Nat → Nat → Nat → Nat → Nat → Byte

/-- Where the ridge would put a stack window (R475: which address a window receives is open).
DESIGN CHOICE (notes/assumptions/34.md). -/
opaque stackPick : Nat → Nat

/-- The group masks that the ridge writes into the home-group table of an ASID (R215). DESIGN CHOICE (notes/assumptions/108.md). -/
opaque homeMask : Nat → Nat

/-- The grant ranges that the runtime writes for an ASID (R214). DESIGN CHOICE (notes/assumptions/108.md). -/
opaque grantRange : Nat → Word

/-- A value the manual does not state (what a device register reads as; the cluster of a ridge core, R133). -/
opaque unstated : Nat → Word

/-- The bytes of an SPDM answer where neither the manual nor its standards as this model uses them give them (R468). -/
opaque attested : Nat → List Byte

/-! Functions of published standards, of which no property is used (notes/assumptions/113.md). -/

/-- SHA-384 (R466 to R468). -/
opaque sha384 : List Byte → List Byte
/-- ECDSA on P-384: whether a signature over a digest verifies under a public key (R466). -/
opaque ecdsaVerifies : List Byte → List Byte → List Byte → Bool
/-- ECDSA on P-384: the signature over a digest with a private key (R468). -/
opaque ecdsaSign : List Byte → List Byte → List Byte
/-- The public key of a private key on P-384 (R467). -/
opaque publicKey : List Byte → List Byte
/-- HKDF-SHA-384 of a secret and what it is bound to (R467). -/
opaque hkdf384 : List Byte → List Byte → List Byte

/-! What is fixed at manufacture, different in each module (notes/assumptions/113.md). -/

/-- The seed of a die's physically unclonable function (R467). -/
opaque seed : Nat → List Byte
/-- The hash of the public key that images are signed for (R466). -/
opaque fusedKeyHash : List Byte
/-- The certificate of the device identity key, kept in flash (R467). -/
opaque deviceCertificate : List Byte

/-- A step of power-up fails before its limit (R464). DESIGN CHOICE (notes/assumptions/112.md). -/
opaque stepFails : Nat → Bool

/-- How many modules of an eave port train (R434). DESIGN CHOICE (notes/assumptions/112.md). -/
opaque modulesTrained : Nat → Nat

/-- The soft error of a cycle: its kind, and what it strikes (R472). DESIGN CHOICE (notes/assumptions/88.md). -/
opaque upset : Nat → Nat × Nat

/-- The sector, by address / 32, whose storage fails in a cycle of the run (R399, R472), if one does.
DESIGN CHOICE (notes/assumptions/88.md). -/
opaque sectorFails : Nat → Option Nat

/-! ## Figures (R1) -/

/-- Compute cores (R1, R147). -/
def cores : Nat := 768
/-- Clusters (R1, R147). -/
def clusters : Nat := 96
/-- Slots per core (R1). -/
def slotsPerCore : Nat := 16
/-- First global number of a ridge slot (R411). -/
def firstRidgeSlot : Nat := 12288
/-- One past the last global slot number (R402, R411). -/
def endOfSlots : Nat := 12544
/-- Write-buffer entries of a core (R219). -/
def writeBufferEntries : Nat := 32
/-- Release rounds that may be draining at once (R249). -/
def drainingRounds : Nat := 7
/-- Promotion-log entries of a core (R253). -/
def promotionLogEntries : Nat := 16
/-- Copies in flight of a core (R297). -/
def copiesInFlight : Nat := 1024
/-- Entries of a core's tile-command queue (R297). -/
def commandQueueEntries : Nat := 32
/-- Elements a generator loads ahead (R305). -/
def loadAhead : Nat := 32
/-- Gathers a reference accelerator has in flight (R307). -/
def gathersInFlight : Nat := 64
/-- Entries of a core's L1 TLB and of a cluster's L2 TLB (R227). -/
def l1TlbEntries : Nat := 64
/-- Entries of a cluster's L2 TLB (R227). -/
def l2TlbEntries : Nat := 2048
/-- Lines of 128 bytes that a 64 KiB L1 holds (R211). -/
def l1Lines : Nat := 512
/-- Lines of 128 bytes that a 512 KiB home slice holds (R211). -/
def l2Lines : Nat := 4096
/-- Barrier objects of a die (R1, R194). -/
def barriersPerDie : Nat := 64
/-- Members of a barrier at most (R195). -/
def barrierMembers : Nat := 256
/-- Waiting forked tasks of a launch at most (R199). -/
def waitingTasks : Nat := 65536
/-- Entries of a device submission queue (R201). -/
def deviceQueueEntries : Nat := 256
/-- Existing bytes of each pseudo-channel region (R212). -/
def pseudoChannelBytes : Nat := 1000000000
/-- Cycles of 1.7 GHz in the 8 ns that a message between dies takes at least (R456). -/
def crossing : Nat := 14
/-- capatom, R19 and R24. -/
def capatom : Word := 0x356
/-- capdev, R19 and R25. -/
def capdev : Word := 0x10818301

end Sys2Proof.Config
end

