-- ==== Sys2Proof/Machine/Tab.lean ====
section
/-! DEFINITION. Tables from numbers to data, kept in rising order of their keys, so that equal tables are equal
lists. -/

namespace Sys2Proof.Machine

/-- A table: pairs of a key and its entry, keys strictly rising. -/
abbrev Tab (α : Type) := List (Nat × α)

/-- The entry of a key. -/
def Tab.get? {α : Type} : Tab α → Nat → Option α
  | [], _ => none
  | (k', v) :: r, k => if k = k' then some v else Tab.get? r k

/-- The entry of a key, or a default. -/
def Tab.getD {α : Type} (t : Tab α) (k : Nat) (d : α) : α := (Tab.get? t k).getD d

/-- Writes the entry of a key. -/
def Tab.set {α : Type} : Tab α → Nat → α → Tab α
  | [], k, v => [(k, v)]
  | (k', v') :: r, k, v =>
    if k < k' then (k, v) :: (k', v') :: r
    else if k = k' then (k, v) :: r
    else (k', v') :: Tab.set r k v

/-- Removes what stands under a key. -/
def Tab.del {α : Type} : Tab α → Nat → Tab α
  | [], _ => []
  | (k', v') :: r, k => if k = k' then Tab.del r k else (k', v') :: Tab.del r k

/-- Every key is above `lo`, and the keys rise. -/
def Tab.risesAbove {α : Type} (lo : Nat) : Tab α → Bool
  | [] => true
  | (k, _) :: r => lo < k && Tab.risesAbove k r

/-- The keys rise strictly. -/
def Tab.rises {α : Type} : Tab α → Bool
  | [] => true
  | (k, _) :: r => Tab.risesAbove k r

/-- Applies `f` to the entry of a key, which is `d` where there is none. -/
def Tab.modify {α : Type} (t : Tab α) (k : Nat) (d : α) (f : α → α) : Tab α := Tab.set t k (f (Tab.getD t k d))

/-- Applies `f` to every entry. -/
def Tab.each {α : Type} (t : Tab α) (f : Nat → α → α) : Tab α := List.map (fun e => (e.1, f e.1 e.2)) t

/-- The keys. -/
def Tab.keys {α : Type} (t : Tab α) : List Nat := List.map (fun e => e.1) t

/-- The list without its element at index `i`. -/
def dropAt {α : Type} (l : List α) (i : Nat) : List α := l.eraseIdx i

/-- The list with its element at index `i` replaced. -/
def putAt {α : Type} (l : List α) (i : Nat) (x : α) : List α := l.set i x

end Sys2Proof.Machine
end

