-- ==== Sys2Proof/Syntax.lean ====
section
/-! DEFINITION. The instructions of the opcode pages (R55 to R63) and the events of the opcode table, as data.
Register numbers are 0 to 50 and 56 to 63 (R11); a bank row is 0 to 63 (R50). -/

namespace Sys2Proof

/-! ## Modifier codes (R54) -/

/-- Access size, R54 row "size". -/
inductive Size where
  | i8 | n8 | i16 | n16 | i32 | n32 | i64
  deriving DecidableEq, Repr

/-- Rounding modifier, R54 row "rounding". -/
inductive Rnd where
  | frm | rne | rz | ru | rd
  deriving DecidableEq, Repr

/-- Scalar format, R54 row "scalar format". -/
inductive SFmt where
  | fp32 | fp16 | bf16 | t8 | t6 | e8
  deriving DecidableEq, Repr

/-- Integer type of a conversion, R54 row "integer type". -/
inductive IType where
  | i64 | n64 | i32 | n32 | i16 | n16 | i8 | n8
  deriving DecidableEq, Repr

/-- Scope of a release or acquire, R54 row "scope". -/
inductive Scope where
  | core | clus | dev | sys | fab
  deriving DecidableEq, Repr

/-- Type of an atomic, R54 row "atomic type". -/
inductive AType where
  | i32 | n32 | i64 | n64
  deriving DecidableEq, Repr

/-- Tile format, R54 row "tile format". -/
inductive TFmt where
  | fp16 | bf16 | t8 | t6 | i8 | i4 | b1
  deriving DecidableEq, Repr

/-- Level of the task tree, R54 row "level". -/
inductive Level where
  | launch | graph | phase | job
  deriving DecidableEq, Repr

/-- Condition of a branch (R55, major 0xA). -/
inductive Cond where
  | eq | ne | lt | ge | gt | le | al
  deriving DecidableEq, Repr

/-- Condition of fcmp (R58, k = 10). -/
inductive FCond where
  | eq | ne | lt | le | un
  deriving DecidableEq, Repr

/-- Condition of vcmp (R61, k = 8). -/
inductive VCond where
  | eq | ne | lt | le
  deriving DecidableEq, Repr

/-- What cid reads (R57, k = 33). -/
inductive CidSel where
  | gslot | core | cluster | die | coreInCluster
  deriving DecidableEq, Repr

/-- Direction of a queue port (R60, k = 0). -/
inductive QDir where
  | input | output
  deriving DecidableEq, Repr

/-- Target of a prefetch (R59, k = 25). -/
inductive PfTarget where
  | l1 | l2 | fast | cap | shadow (die : Nat)
  deriving DecidableEq, Repr

/-- Object of dusk (R60, k = 23). -/
inductive DuskScope where
  | die | dev
  deriving DecidableEq, Repr

/-- Bank that a lease asks for (R62, k = 0). -/
inductive BankPick where
  | bank (n : Nat) | any
  deriving DecidableEq, Repr

/-- Accumulation format (R62, k = 2). -/
inductive AccFmt where
  | fp32 | fp16 | bf16 | i32
  deriving DecidableEq, Repr

/-- Target format of qsax (R62, k = 14). -/
inductive QFmt where
  | t8 | t6 | i8 | fp16 | bf16
  deriving DecidableEq, Repr

/-- Distance of tdist (R62, k = 9). -/
inductive Dist where
  | l2 | ip | ham
  deriving DecidableEq, Repr

/-- Reduction of vred (R61, k = 16). -/
inductive RedOp where
  | add | min | max
  deriving DecidableEq, Repr

/-- Size of an appended record (R59, k = 22). -/
inductive RecSize where
  | b8 | b16 | b32 | b64
  deriving DecidableEq, Repr

/-- What slot.ctl does (R63, k = 9). -/
inductive SlotOp where
  | stop | run | kill
  deriving DecidableEq, Repr

/-- Last operand of the page 1 instructions with a register and an immediate form (R57, k = 0 to 15). -/
inductive Src where
  | reg (b : Nat)
  | imm (i : Int)
  deriving DecidableEq, Repr

/-- Position of a bit field: in a register, or as numbers (R57, k = 20 and 21; len is 1 to 64). -/
inductive FieldPos where
  | reg (b : Nat)
  | imm (pos len : Nat)
  deriving DecidableEq, Repr

/-- Count of rpt (R57, k = 32). -/
inductive RptCount where
  | reg (a : Nat)
  | imm (n : Nat)
  | unbounded
  deriving DecidableEq, Repr

/-- Range of cinv and cwb (R59, k = 28 and 29). -/
inductive CacheRange where
  | range (a b : Nat)
  | all
  deriving DecidableEq, Repr

/-- Shape of a remote atomic (R450: add, swap, CAS, min and max of 4 and 8 bytes). -/
inductive FabricAtomicOp where
  | add | swap | cas | min | max
  deriving DecidableEq, Repr

/-- What an incoming fabric access asks for (R451). -/
inductive FabricAccess where
  | read (len : Nat)
  | write (bytes : List Byte)
  | atomic (op : FabricAtomicOp) (width : Nat) (operand compare : Word)
  deriving DecidableEq, Repr

/-- What a firmware image consists of beside its version (R466): boot firmware, runtime, configuration, the public key and the
signature. -/
structure ImageFile where
  boot : List Byte
  runtime : List Byte
  config : List Byte
  key : List Byte
  signature : List Byte
  deriving DecidableEq, Repr

/-- The instruction set, one constructor for each row of the opcode table: first the instructions of pages 0 to 7,
then the events, which have no encoding. An event names its object by number; what each number names is said where
the event has its meaning. -/
inductive Instr where
  -- page 0 (R55)
  | add (d a b : Nat) | sub (d a b : Nat) | and (d a b : Nat) | or (d a b : Nat) | xor (d a b : Nat)
  | shl (d a b : Nat) | addi (d a : Nat) (i : Int) | li (d : Nat) (i : Int) | ld (d a : Nat) (i : Int)
  | st (d a : Nat) (i : Int) | bcc (c : Cond) (a : Nat) (i : Int) | call (i : Int) | fma (d a b : Nat)
  | slt (d a b : Nat) | mov (d a : Nat) | not (d a : Nat) | neg (d a : Nat) | sx32 (d a : Nat) | zx32 (d a : Nat)
  | jr (a : Nat)
  -- page 1 (R57)
  | mul (d a : Nat) (b : Src) | mulh (d a : Nat) (b : Src) | mulhn (d a : Nat) (b : Src) | div (d a : Nat) (b : Src)
  | divn (d a : Nat) (b : Src) | rem (d a : Nat) (b : Src) | remn (d a : Nat) (b : Src) | shr (d a : Nat) (b : Src)
  | sar (d a : Nat) (b : Src) | rol (d a : Nat) (b : Src) | sltn (d a : Nat) (b : Src) | seq (d a : Nat) (b : Src)
  | min (d a : Nat) (b : Src) | max (d a : Nat) (b : Src) | minn (d a : Nat) (b : Src) | maxn (d a : Nat) (b : Src)
  | sel (d a b : Nat) | clz (d a : Nat) | ctz (d a : Nat) | popc (d a : Nat) | bext (d a : Nat) (p : FieldPos)
  | bins (d a : Nat) (p : FieldPos) | bswap (d a : Nat) | lea (d a b s : Nat) | andn (d a b : Nat) | orn (d a b : Nat)
  | abs (d a : Nat) | mac (d a b : Nat) | hdrSet (l a b : Nat) | hdrPack (d a l : Nat) | hdrGet (d a l f : Nat)
  | tsRd (d : Nat) | rpt (len : Nat) (n : RptCount) | cid (d : Nat) (sel : CidSel)
  -- page 2 (R58)
  | fadd (r : Rnd) (d a b : Nat) | fsub (r : Rnd) (d a b : Nat) | fmul (r : Rnd) (d a b : Nat)
  | fdiv (r : Rnd) (d a b : Nat) | fsqrt (r : Rnd) (d a : Nat) | fmin (d a b : Nat) | fmax (d a b : Nat)
  | fabs (d a : Nat) | fneg (d a : Nat) | fmsub (r : Rnd) (d a b : Nat) | fcmp (c : FCond) (d a b : Nat)
  | fclass (d a : Nat) | frnd (r : Rnd) (d a : Nat) | frcp (r : Rnd) (d a : Nat) | frsq (r : Rnd) (d a : Nat)
  | fex2 (r : Rnd) (d a : Nat) | flg2 (r : Rnd) (d a : Nat) | cvtFF (dst src : SFmt) (d a : Nat)
  | cvtFI (r : Rnd) (t : IType) (src : SFmt) (d a : Nat) | cvtIF (r : Rnd) (dst : SFmt) (t : IType) (d a : Nat)
  | cvtPk (dst : SFmt) (d a b : Nat) | fdot2 (src : SFmt) (d a b : Nat)
  -- page 3 (R59)
  | ldS (z : Size) (d a : Nat) (i : Int) | stS (z : Size) (d a : Nat) (i : Int) | ldx (z : Size) (d a b : Nat)
  | stx (z : Size) (d a b : Nat) | ldA (z : Size) (d a : Nat) (i : Int) | ldQ (d a : Nat) (i : Int)
  | stQ (d a : Nat) (i : Int) | ldAcq (z : Size) (sc : Scope) (d a : Nat) | stRel (z : Size) (sc : Scope) (d a : Nat)
  | rel (sc : Scope) | acq (sc : Scope) | fence (sc : Scope) | acqProm (z : Size) (d a b : Nat)
  | amoAdd (t : AType) (nr : Bool) (d a b : Nat) | amoMin (t : AType) (nr : Bool) (d a b : Nat)
  | amoMax (t : AType) (nr : Bool) (d a b : Nat) | amoAnd (t : AType) (nr : Bool) (d a b : Nat)
  | amoOr (t : AType) (nr : Bool) (d a b : Nat) | amoXor (t : AType) (nr : Bool) (d a b : Nat)
  | amoSwp (t : AType) (nr : Bool) (d a b : Nat) | amoCas (t : AType) (d a b : Nat)
  | amoInc (t : AType) (nr : Bool) (d a b : Nat) | append (z : RecSize) (d a b : Nat) | sealPage (d a : Nat)
  | tail (d a : Nat) | pf (t : PfTarget) (a b : Nat) | hint (a b : Nat) | stepCtr (d : Nat) | cinv (r : CacheRange)
  | cwb (r : CacheRange) | home (d a : Nat) | ldO (d a : Nat) (i : Int) | stO (d a : Nat) (i : Int)
  -- page 4 (R60)
  | qbind (dir : QDir) (q a : Nat) | qfree (q : Nat) | qtok (q level : Nat) | qpeek (d q : Nat) | qlen (d q : Nat)
  | tvec (q level a : Nat) | send (a b : Nat) | recv (d a b : Nat) | waitc (ld st cp tb : Nat) | barArv (n : Nat)
  | barWait (n : Nat) | barSync (n : Nat) | barDrop (n : Nat) | barJoin (n : Nat) | fork (i : Int)
  | spawn (d a b : Nat) | lvlCnt (v : Level) (d a : Nat) | lvlWait (v : Level) (a b : Nat) | cancel (v : Level) (a : Nat)
  | lbq (d : Nat) | migr (a : Nat) | dusk (o : DuskScope) (d a : Nat)
  -- page 5 (R61)
  | vadd (d a b : Nat) | vsub (d a b : Nat) | vmul (d a b : Nat) | vfma (d a b : Nat) | vmin (d a b : Nat)
  | vmax (d a b : Nat) | vabs (d a : Nat) | vneg (d a : Nat) | vcmp (c : VCond) (d a b : Nat) | vsel (d a b : Nat)
  | vand (d a b : Nat) | vor (d a b : Nat) | vxor (d a b : Nat) | vshl (d a b : Nat) | vshr (ar : Bool) (d a b : Nat)
  | vcvt (dst : SFmt) (d a : Nat) | vred (op : RedOp) (d a : Nat) | vbcast (d a : Nat) | vgetl (d a b : Nat)
  | vsetl (d a b : Nat) | vld (d a : Nat) | vst (d a : Nat) | vperm (d a b : Nat) | vex2 (d a : Nat) | vrcp (d a : Nat)
  | vrsq (d a : Nat) | vmov (d a : Nat) | vzero (d : Nat) | vscl (d a b : Nat) | vlanes (d : Nat)
  -- page 6 (R62)
  | lease (k : BankPick) (d w : Nat) | tmode (m : AccFmt) | ringCfg (n a b : Nat) | ringPush (n : Nat)
  | ringRoom (d n w : Nat) | sclCfg (isB : Bool) (n a : Nat) | tmma (f : TFmt) (scaled : Bool) (d ra rb : Nat)
  | tdist (f : TFmt) (scaled : Bool) (k : Dist) (d ra rb : Nat) | tcommit (d : Nat) | twaitb (n : Nat)
  | tload (tr : Bool) (a b : Nat) | tstore (dst : SFmt) (a b : Nat) | qsax (f : QFmt) (col blk : Bool) (a b : Nat)
  | qst (d a b : Nat) | rsav (a : Nat) | rlod (a : Nat) | copy (twoD : Bool) (d a b : Nat) | copyMc (d a b : Nat)
  | cstat (d : Nat) | gbind (g a : Nat) | gref (idx64 el8 : Bool) (qd qa b : Nat) | topk (qd qa b : Nat)
  -- page 7 (R63)
  | csrr (d csr : Nat) | csrw (d csr : Nat) | csrs (d csr : Nat) | csrc (d csr : Nat) | trap (code : Nat)
  | tlbGen (a : Nat) | tlbInv (a b : Nat) | keySet (a b : Nat) | slotCtl (op : SlotOp) (a : Nat) | slotSv (a b : Nat)
  | slotLd (a b : Nat) | promAll (a : Nat) | post (a : Nat) | wake (a : Nat)
  -- events of the ridge, the units and the queues
  | unitEnd (g : Nat) | taskStart (launch : Nat) | parentResume (unit : Nat)
  | balancerSample (die : Nat) | replicaIdleEnd (g : Nat) | migrationCheck (core : Nat) | migrationMessage (i : Nat)
  | barrierRequest (i : Nat) | barrierReply (i : Nat) | mailboxMessageArrival (i : Nat) | ringQueueHop (q i : Nat)
  | ringQueueElementArrival (q i : Nat)
  -- events of memory
  | writeBufferTimeout (core i : Nat) | homeWrite (i : Nat) | homeRead (i : Nat) | homeAtomic (i : Nat)
  | appendRequest (i : Nat) | sealRequest (i : Nat) | tailRequest (i : Nat) | loadReply (i : Nat)
  | writeAcceptance (i : Nat) | l1Fill (i : Nat) | gatheredQueryReply (core : Nat) | promoteRequest (i : Nat)
  | promoteReply (i : Nat) | walkComplete (i : Nat) | tlbGenerationComplete (i : Nat) | pageFaultService (i : Nat)
  | wakeArrival (i : Nat) | pageEviction (stack : Nat) | pageMove (i : Nat) | pageMoveComplete (i : Nat)
  | hbmActivate (stack : Nat)
  -- events of the engines
  | queuePushRegisterWrite (i : Nat) | copyComplete (core i : Nat) | generatorElementLoad (core gen : Nat)
  | refAcceleratorPop (core : Nat) | gatherComplete (core i : Nat) | leaseGrant (cluster : Nat)
  | arrayArbitration (cluster : Nat) | tileCommandStart (cluster bank : Nat) | tileCommandRetire (cluster bank : Nat)
  | ringTailAdvance (core ring : Nat) | topkElement (cluster : Nat)
  | postForward (die : Nat) | fabricCommandComplete (die ring seq : Nat)
  -- a slot's own failure to obtain an instruction
  | illegalInstruction (cause detail word : Nat)
  -- events that reach the device from outside it: hosts, other modules, links, management, the environment
  | hbmRegulatorWrite (stack : Nat) (v : Word) | hbmRetrain (stack : Nat) | patrolScrub (pa : Nat) (lost : Bool)
  | submissionQueueTailWrite (port q : Nat) (tail : Nat) | queueCtlClose (port q : Nat) (v : Nat)
  | openJob (port seq : Nat) | bindHostQueue (port seq job queue prio : Nat)
  | bindDeviceQueue (port seq job die index prio : Nat) | mapRange (port seq job va bytes : Nat) (w4 w5 : Word)
  | unmapRange (port seq job va bytes : Nat) | closeJob (port seq job : Nat)
  | preEmpt (port seq job level object deadline : Nat) | resume (port seq job level object : Nat)
  | cancelObject (port seq job level object : Nat) | fabricExport (port seq job va bytes perm : Nat)
  | fabricGroup (port seq job n : Nat) (bus : Word) | fabricRing (port seq job die ring va doorbell : Nat)
  | acceleratorId (port seq id : Nat) | statusWrite (port : Nat) (v : Word) | hostRingHeadWrite (port ring v : Nat)
  | bar0RegisterWrite (port off size : Nat) (v : Word)
  | hostWindowAccess (port off len : Nat) (data : Option (List Byte))
  | hostReadCompletion (i : Nat) (ok : Bool) (data : List Byte) | hostCompletionTimeout (i : Nat)
  | hostPortReset (port : Nat) | configurationRequest (port reg : Nat) (value : Option Nat)
  | fabricDoorbellWrite (die ring tail : Nat) | fabricRead (die ring : Nat) (ok : Bool) (data : List Byte)
  | fabricWrite (die ring : Nat) (ok : Bool) | fabricAtomic (die ring : Nat) (ok : Bool) (old : Word)
  | fabricMessage (die ring : Nat) (ok : Bool) | allReduce (die ring : Nat) (ranks : List (List Byte))
  | allGather (die ring : Nat) (ranks : List (List Byte)) | reduceScatter (die ring : Nat) (ranks : List (List Byte))
  | broadcast (die ring : Nat) (root : List Byte)
  | fabricCommandTimeout (die ring seq : Nat) | incomingFabricAccess (src export_ off : Nat) (x : FabricAccess)
  | incomingFabricMessage (src export_ : Nat) (dest : Word) (body : List Byte) | flitCrcFailure (link : Nat)
  | linkRetrain (link : Nat) (working : Nat) | timeAlignment (die : Nat)
  | firmwareUpdate (complete : Bool) (version : Nat) (file : ImageFile) | negotiateAlgorithms (asym hash : Nat)
  | getCertificate (off len : Nat) | challenge (nonce : List Byte) | getMeasurements (nonce : List Byte)
  | powerSample (dies hbm other : Nat) (dieTemps : List Nat) (hbmTemp : Nat) | pwrlimWrite (v : Word)
  | errorCountClear (uncorrectable : Bool) (v : Word)
  -- instructions without operands
  | ret | nop | halt | sync | yieldTurn | unlease | tzero | tret
  -- events without operands; where several objects may be meant, the schedule picks one
  | placementDecision | cancellationApply | loadRegisterUpdate | moduleReset | powerupStepComplete | powerupStepTimeout
  | getVersion | getCapabilities | getDigests | fetchFault | duskSample1 | duskSample2 | spawnReservation | shadowFill
  | shadowFillComplete | preemptionDeadline | preemptionComplete | migrationReturn
  deriving DecidableEq, Repr

end Sys2Proof
end

