-- ==== Sys2Proof/Machine/State.lean ====
section
/-! DEFINITION. The state of the module as plain data: every piece of state that the manual names, and the messages
in transit that it speaks of. INVENTORY.md lists each field with its rule and its reset value. -/

namespace Sys2Proof.Machine

/-! ## Why a step may stop -/

/-- A step without a next state. -/
inductive Fault where
  /-- An event was called for whose object is not there or is not in the state the event needs. Raised by the
  meanings of events only. Safe: the device never performs such an event. -/
  | eventNotEnabled
  /-- The module is out of service (R438: nothing is served until the module is reset). Safe. -/
  | outOfService
  deriving DecidableEq, Repr

/-- No meaning for what was asked. -/
inductive Refusal where
  /-- No meaning was written. Raised by the arms of exec only. Safe. -/
  | notModelled (mnemonic : String)
  deriving DecidableEq, Repr

/-! ## Memory -/

/-- The bytes of the 46-bit physical space (R212) that are not zero, which is what an unlisted address reads as (R464
step 5). -/
structure Memory where
  cells : List Host.Cell := []
  deriving DecidableEq, Repr

/-! ## A slot -/

/-- Why a slot is parked (R152). -/
inductive Reason where
  | portEmpty (p pos : Nat) | portFull (p : Nat)
  | mailbox (mask : Nat)
  | counters (ld st cp tb : Nat)
  | counterLimit (which : Nat)
  | batches (n : Nat)
  | lead (n : Nat) | phase (n : Nat)
  | writeBuffer
  | level (v : Level) (x : Word) (limit : Nat)
  | children
  | lease
  | ringRoom (ring w : Nat)
  | commandQueue | copySlots
  | tilesDone (bank : Nat)
  /-- The release of a fence (R252). -/
  | release
  | own
  /-- The acceptance of a store of the slot, by its number (R367). -/
  | accepted (id : Nat)
  | target (g : Nat) (op : SlotOp)
  /-- Its instruction has completed, or its page fault has been served: it is eligible from the next cycle on (R152, R392). -/
  | eligible
  deriving DecidableEq, Repr

/-- State of a slot (R149). `woken` is running, with the reason for which its instruction, to be issued again, was
parked (R152). -/
inductive Status where
  | empty | running | parked (r : Reason) | woken (r : Reason) | dropped | stopped
  deriving DecidableEq, Repr

/-- What an atomic does (R278). -/
inductive AmoOp where
  | add | min | max | and | or | xor | swp | inc
  | cas (c : Word)
  deriving DecidableEq, Repr

/-- What an instruction that waits for its own data does when the last reply is there (R151, R152): the register or the
port that takes the value, and what else it captured at issue. -/
inductive Finish where
  /-- A load: extended by its size into x(d). -/
  | load (z : Size) (d : Nat)
  /-- A load into `n` registers from `d` on. -/
  | group (d n : Nat)
  /-- A load followed by an acquire (R251). -/
  | acquire (z : Size) (sc : Scope) (d : Nat)
  /-- acq.prom (R254): while promote replies are missing, the address and the size of its load. -/
  | prom (a : Word) (z : Size) (d : Nat)
  /-- A reply word into x(d): append, seal, tail. -/
  | word (d : Nat)
  /-- A returning atomic (R279). -/
  | atomic (t : AType) (d : Nat)
  /-- A row of a bank (R345). -/
  | row (cluster bank v : Nat)
  /-- A store whose pieces are tested at their ports (R314): its parts with what they write, and what it is counted as. -/
  | store (parts : List (Nat × Nat × List Byte))
  /-- A no-return atomic that is tested at a port. -/
  | amo (op : AmoOp) (t : AType) (pa poa : Nat) (b : Word)
  /-- spawn of the record at an address (R201) to device queue `i` of the die: its bytes are being read; the reply is missing. -/
  | spawn (i d : Nat)
  | spawned (i d op : Nat)
  /-- slot.ld of a slot (R420) and rlod of the leased bank (R367): the record is being read. -/
  | slotLoad (g : Nat)
  | record
  /-- rsav and rlod of the record at an address (R367), while tile commands of the bank have not retired. -/
  | rsav (a : Word)
  | rlod (a : Word)
  /-- A fetch block of a host page (R404), by its virtual address. -/
  | fetch (va : Nat)
  /-- key.set of a slot of the key table (R418): its 64 bytes are being read. -/
  | key (k : Nat)
  /-- A write of a device-wide CSR (R425) that every die has to apply: 0 csrw, 1 csrs, 2 csrc, its number and X(d). -/
  | csr (op csr : Nat) (x : Word)
  /-- Nothing is left but the completion: tlb.gen, tlb.inv, prom.all, slot.ctl, bar.join. -/
  | none
  deriving DecidableEq, Repr

/-- A piece of an access (R33): its offset in the access, its generic and its physical address, its bytes once they are
there. -/
structure Part where
  off : Nat
  a : Word
  pa : Nat
  n : Nat
  bytes : Option (List Byte) := none
  /-- Its reply was a fault: cause, distance of the byte, tinfo. -/
  failed : Option (Nat × Nat × Nat) := none
  deriving DecidableEq, Repr

/-- A queue element (R167), with the segment it lies in as input and the segment it is an output of. -/
structure Elem where
  data : Word
  tag : Nat
  seg : Nat := 0
  oseg : Option (Nat × Nat) := none
  deriving DecidableEq, Repr

/-- An instruction that has issued and waits for its own data or for an operation of its own (R153): the number that its
requests bear, its length, what is left to do, the pieces of its access, the replies missing, the elements it popped, and
the port in which it holds room (R171). -/
structure Pending where
  id : Nat
  len : Nat
  finish : Finish
  parts : List Part := []
  left : Nat := 0
  popped : List (Nat × Elem) := []
  room : Option Nat := none
  deriving DecidableEq, Repr

/-- What a port is bound to (R15). `q` is a queue number, `e` its entry in the kernel's queue table. -/
inductive Port where
  | unbound
  | pop (q e : Nat) | push (q e : Nat)
  | gen (n : Nat)
  /-- Lent to the reference accelerator or to the top-k unit, with what it was bound to. -/
  | lentRef (input : Bool) (q e : Nat) (gen : Option Nat)
  | lentTopk (input : Bool) (q e : Nat) (gen : Option Nat)
  deriving DecidableEq, Repr

/-- One instruction of a repeat body, with its address and its length in bytes. -/
structure BodyItem where
  at_ : Word
  instr : Instr
  len : Nat
  deriving DecidableEq, Repr

/-- The repeat buffer (R131). -/
structure Repeat where
  start : Word
  stop : Word
  len : Nat
  remaining : Word
  unbounded : Bool
  mode : Nat
  body : List BodyItem
  deriving DecidableEq, Repr

/-- A pending asynchronous error (R298), in order of issue of its command. `batch` is a tile command's batch. -/
structure AsyncError where
  cause : Nat
  addr : Word
  seq : Nat
  order : Nat
  batch : Option Nat
  /-- The command is a copy (R369). -/
  copy : Bool := false
  deriving DecidableEq, Repr

/-- What a unit is (R154, R180). -/
inductive UnitKind where
  | stage | replica | forked
  deriving DecidableEq, Repr

/-- The unit that a slot holds. -/
structure UnitInfo where
  launch : Nat
  stage : Nat
  uid : Nat
  root : Nat
  parent : Option Nat
  kind : UnitKind
  /-- Segments that a unit of a replicable stage has taken, in order (R174). -/
  taken : List Nat := []
  /-- Input queue to the number of taken segments whose token it has popped there. -/
  finished : Tab Nat := []
  /-- Cycle from which a replica has waited with its inputs empty (R175). -/
  idleSince : Option Nat := none
  /-- Children forked and not ended (R200). -/
  children : Nat := 0
  /-- Ended by halt, by cancellation or by a trap (R155). -/
  how : Nat := 0
  deriving DecidableEq, Repr

/-- A running or waiting release of a slot (R250, R253). -/
structure Release where
  id : Nat
  scope : Scope
  /-- The round it waits for, once it has closed it. -/
  round : Option Nat
  /-- Asynchronous loads issued before it and not complete. -/
  loads : List Nat
  /-- Stores issued before it and not accepted, and those of them to ports of a cluster peer. -/
  stores : List Nat
  peers : List Nat
  /-- Stores in entries of the write buffer that something held when it issued (R258). -/
  behind : List Nat
  /-- Fabric commands it waits for (R455): die, ring, sequence; none until its round has drained. -/
  fabric : Option (List (Nat × Nat × Nat)) := none
  deriving DecidableEq, Repr

/-- An asynchronous load, `step` or `home` in progress (R274), with its pieces. -/
structure Outstanding where
  id : Nat
  d : Nat
  z : Size
  parts : List Part
  /-- The slot has not written x(d) since. -/
  live : Bool
  deriving DecidableEq, Repr

/-- A store counted in ST: its number, the pieces not accepted, whether it reaches a port of a cluster peer (R253), the generic
and the physical address and the length of its pieces in scratchpads (R314), and sequence and place in order of the tile command
that made it. -/
structure StoreOp where
  id : Nat
  left : Nat
  peer : Bool
  pieces : List (Word × Nat × Nat) := []
  tile : Option (Nat × Nat) := none
  deriving DecidableEq, Repr

/-- A fetch block (R404): its virtual address, its 64 bytes, and which of its two sectors held an uncorrectable error. -/
structure Block where
  va : Nat
  bytes : List Byte
  bad : List Nat := []
  deriving DecidableEq, Repr

/-- The view that a unit holds of a barrier (R196). -/
structure BarrierView where
  member : Bool := false
  p : Nat := 0
  c : Nat := 0
  mark : Bool := false
  deriving DecidableEq, Repr

/-- A slot (R15) and its place in the work hierarchy. -/
structure Slot where
  status : Status := .empty
  /-- x1 to x47, lk, fp, sp. -/
  regs : Vector Word 50 := Vector.replicate 50 0
  pc : Word := 0
  frm : Word := 0
  fflags : Word := 0
  tfrm : Word := 0
  asid : Word := 0
  tcause : Word := 0
  tip : Word := 0
  taddr : Word := 0
  thand : Word := 0
  tinfo : Word := 0
  /-- Selectors of a ridge slot (R425). -/
  rasid : Word := 0
  agsel : Word := 0
  qsel : Word := 0
  rep : Option Repeat := none
  /-- Token vectors: port p, level L at (p - 56) * 3 + L - 1. -/
  tvec : Vector Word 24 := Vector.replicate 24 0
  ld : Nat := 0
  st : Nat := 0
  cp : Nat := 0
  tb : Nat := 0
  ports : Vector Port 8 := Vector.replicate 8 .unbound
  /-- The leased bank and its weight (R308). -/
  lease : Option (Nat × Nat) := none
  /-- Its lease instruction has not written the bank's number yet (R350). -/
  leaseNew : Bool := false
  scaleA : Option Nat := none
  scaleB : Option Nat := none
  batch : Nat := 0
  /-- Closed batches with commands not retired: number and commands left. -/
  batches : List (Nat × Nat) := []
  /-- Commands of the open batch not retired. -/
  openCmds : Nat := 0
  copySeq : Nat := 0
  tileSeq : Nat := 0
  probeSeq : Nat := 0
  unit : Option UnitInfo := none
  /-- Bounds of the kernel header (R166): registers, scratchpad bytes, barriers, rings. -/
  regBound : Nat := 48
  scratchBound : Nat := 262144
  barrierBound : Nat := 64
  ringBound : Nat := 8
  stackBase : Nat := 0
  stackSize : Nat := 0
  pend : List AsyncError := []
  /-- Destination bytes that copies of the slot have written and no covering waitc has acquired (R263): address, length. -/
  copied : List (Nat × Nat) := []
  dropSeq : Nat := 0
  dropFlag : Bool := false
  /-- What the last fault report names (R391): the faulting pieces, and whether it was a fetch. -/
  dropPieces : List Nat := []
  dropFetch : Bool := false
  /-- A rejected access to be raised at the next turn: reason, address, fetch (R392). -/
  reject : Option (Nat × Word × Bool) := none
  /-- The lowest byte and the ring of a store that a scratchpad port has refused after its instruction completed, to be raised at the
  next turn (R314). -/
  late : Option (Word × Nat) := none
  /-- The instruction that waits for its own data (R153). -/
  pending : Option Pending := none
  /-- The fetch block held (R404); several while an instruction or a repeat body is fetched that lies in several. -/
  blocks : List Block := []
  releases : List Release := []
  /-- Fences whose releases have not completed: they hold back loads (R252). -/
  fenced : List Nat := []
  outstanding : List Outstanding := []
  stores : List StoreOp := []
  views : Tab BarrierView := []
  /-- Asked to pass its next own turn to its partner, and the cycle of the yield (R206). -/
  yielded : Option Nat := none
  /-- Asked to stop, to be cancelled or to migrate at the next boundary. -/
  stopAsked : Bool := false
  cancelled : Bool := false
  /-- A pre-emption has stopped it, or saved it (R405). -/
  held : Bool := false
  deriving DecidableEq, Repr

/-! ## A core -/

/-- An element between a producer and a ring queue's home: the producing unit, its hop and its last hop. -/
structure Flight where
  elem : Elem
  by_ : Nat
  die : Nat
  /-- How many eave ports it has passed into, and how many are on its way (R437). -/
  hop : Nat
  last : Nat
  /-- The cycle in which it was sent (R456); none in that cycle itself. -/
  sent : Option Nat := none
  deriving DecidableEq, Repr

/-- A queue of a launch (R168). -/
structure Queue where
  launch : Nat
  entry : Nat
  ring : Bool
  /-- The core that holds a local queue, or the home of a ring queue. -/
  core : Nat
  /-- Which local queue of the core. -/
  slotNo : Nat
  depth : Nat
  elems : List Elem := []
  flights : List Flight := []
  /-- Elements at the home that wait for earlier segments (R176). -/
  backlog : List Elem := []
  pushed : Nat := 0
  popped : Nat := 0
  tokens : Nat := 0
  /-- Units that hold room for a push (R171). -/
  reserved : List Nat := []
  deriving DecidableEq, Repr

/-- A store piece in transit: its slot, its unit, the number of the store and its point of acceptance. -/
structure OpRef where
  slot : Nat
  uid : Nat
  id : Nat
  poa : Nat
  /-- For an acceptance on its way back, the cycle in which it was sent (R456). -/
  sent : Option Nat := none
  deriving DecidableEq, Repr

/-- A message for a mailbox (R191, R192). -/
structure Mail where
  core : Nat
  box : Nat
  body : List Byte
  sender : Nat
  tip : Word
  launch : Nat
  /-- ASID of the job, and the sending module, of a fabric message. -/
  fabric : Option (Nat × Nat)
  /-- The store of the sender that it is counted as: slot, unit, number. -/
  op : Option OpRef
  dieFrom : Nat
  /-- An answer of dusk is not counted in R182. -/
  counted : Bool := true
  /-- The cycle in which it was sent (R456); none in that cycle itself. -/
  sent : Option Nat := none
  deriving DecidableEq, Repr

/-- A message or a post whose body is being read (R191, R423): its number, its slot and unit, the pieces of its body, and the
message; the entry of a post stands in its die's inbound queue already. -/
structure Sending where
  id : Nat
  slot : Nat
  uid : Nat
  parts : List Part
  mail : Option Mail := none
  deriving DecidableEq, Repr

/-- A read at a point of acceptance (R244): who waits for it, its number and the offset of the piece; its bytes; the sectors
that are filled with it (R218), by address / 32; the seal-class page that holds them (R231); and the die and the seal
generation of the shadow frame that serves it (R232). A read of no bytes only fills. -/
structure ReadReq where
  slot : Nat
  uid : Nat
  id : Nat
  off : Nat
  pa : Nat
  n : Nat
  sectors : List Nat
  page : Option Nat
  shadow : Option (Nat × Nat)
  deriving DecidableEq, Repr

/-- A request on its way to a point of acceptance. A returning atomic names the slot, the unit and the number that wait. -/
inductive Body where
  | write (cells : List Host.Cell)
  | atomic (op : AmoOp) (t : AType) (pa : Nat) (operand : Word) (ret : Option (Nat × Nat × Nat))
  | read (r : ReadReq)
  /-- A piece of a store arrives at the scratchpad port of another core, to be tested there (R314). -/
  | test (r : ReadReq)
  /-- An append, a seal and a tail; `at_` is the physical address of A. -/
  | append (page at_ : Nat) (bytes : List Byte) (slot uid id : Nat)
  | sealReq (page at_ : Nat) (slot uid id : Nat)
  | tailReq (page at_ : Nat) (slot uid id : Nat)
  deriving DecidableEq, Repr

/-- What an access was translated from (R227): its ASID, its virtual address and its bytes. -/
structure Span where
  asid : Nat
  va : Nat
  n : Nat
  deriving DecidableEq, Repr

/-- A byte in the write buffer: physical address, value, point of acceptance. -/
structure WbCell where
  pa : Nat
  byte : Byte
  poa : Nat
  deriving DecidableEq, Repr

/-- What holds an entry of the write buffer (R219): a release of a slot, the reading of a message body (R191), a victim stall, a
waiting close. -/
inductive Hold where
  | release (slot id : Nat)
  | body (id : Nat)
  | stall
  | close
  deriving DecidableEq, Repr

/-- A write-buffer entry (R219). `key` names the block by ASID and virtual address. A direct write that something holds back
stands in an entry of its own, whose key is ASID 4096 with the point of acceptance. -/
structure WbEntry where
  key : Nat × Nat
  cells : List WbCell
  opened : Nat
  opener : Nat
  ops : List OpRef
  hold : List Hold
  /-- What its bytes were translated from; none for direct writes to no page. -/
  span : Option Span := none
  /-- A held request other than a write of bytes (a no-return atomic). -/
  direct : Option Body := none
  /-- A read waits behind it, so that no later store joins it (R274). -/
  closed : Bool := false
  deriving DecidableEq, Repr

/-- A promotion that a core serves (R255): the round N once it is fixed, the slots that wait, the number of log entries
appended when it fixed N, whether it serves prom.all (R421), and the releases at core scope, issued before its requests
arrived, that are not logged yet (R258). -/
structure Promotion where
  round : Option Nat
  waiters : List Nat
  appended : Nat
  whole : Bool
  unlogged : List Nat
  deriving DecidableEq, Repr

/-- A line of L1 (R218): 128 bytes in four sectors of 32, each valid or not, the cycle in which each has arrived (R456), and
whether the line is homed at the core. -/
structure Line where
  sectors : List (Option (List Byte)) := List.replicate 4 none
  since : List Nat := [0, 0, 0, 0]
  ownHome : Bool
  /-- The sectors whose copy here holds an uncorrectable error (R472). -/
  bad : List Nat := []
  deriving DecidableEq, Repr

/-- A TLB entry (R227, R232). -/
structure TlbEntry where
  asid : Nat
  gen : Nat
  va : Nat
  size : Nat
  leaf : Word
  sealed : Bool
  sealGen : Nat
  deriving DecidableEq, Repr

/-- Who makes an access: a slot, or an engine that works for it. -/
structure Accessor where
  core : Nat
  asid : Nat
  launch : Nat
  scratchBound : Nat
  stackBase : Nat
  stackSize : Nat
  /-- Its source number, where it is none of its core's (R449). -/
  source : Option Nat := none
  deriving DecidableEq, Repr

/-- A copy in flight (R299): its rows, the cores of a multicast, the releases it waits for (R263), the ranges of its bytes that
it has not read (first byte and number, ascending), and the pieces that it has read and not written (R301). -/
structure Copy where
  id : Nat
  slot : Nat
  uid : Nat
  seq : Nat
  acc : Accessor
  src : Word
  dst : Word
  rows : Nat
  rowBytes : Nat
  dstride : Int
  sstride : Int
  mask : Option Nat
  waits : List Nat
  todo : List (Nat × Nat)
  read : List (Nat × List Byte) := []
  /-- Cause and address of an error that did not stop it (R302). -/
  failed : Option (Nat × Word) := none
  /-- Stopped at its offset by a pre-emption (R405). -/
  recorded : Bool := false
  deriving DecidableEq, Repr

/-- An affine generator (R303) bound by a slot. -/
structure Generator where
  id : Nat
  slot : Nat
  uid : Nat
  port : Nat
  base : Word
  count : List Nat
  stride : List Int
  size : Nat
  signExt : Bool
  mask : Nat
  /-- Index of the next element to load, and the elements loaded ahead (data or fault: cause, address, tinfo). -/
  next : Nat
  ahead : List (Elem × Option (Nat × Word × Nat)) := []
  acc : Accessor
  /-- A rejected read has stopped it (R393, R449). -/
  failed : Bool := false
  deriving DecidableEq, Repr

/-- A gather in flight (R307): the element popped, its number, the bytes that its pieces have given, and its value, or the address
of its failure, when complete. -/
structure Gather where
  elem : Elem
  index : Nat
  got : List Byte := []
  value : Option Word
  failed : Option Word := none
  /-- Its element stands in the input yet: the generator's own read has failed. -/
  held : Bool := false
  deriving DecidableEq, Repr

/-- The reference accelerator of a core (R306). -/
structure RefAcc where
  id : Nat
  slot : Nat
  unit : UnitInfo
  /-- The port numbers qd and qa, the queue that qd pushes, and the queue or generator that qa pops. -/
  qd : Nat
  qa : Nat
  out : Nat
  inQueue : Option Nat
  inGen : Option Nat
  base : Word
  idx64 : Bool
  el8 : Bool
  acc : Accessor
  gathers : List Gather := []
  popped : Nat := 0
  failed : Bool := false
  /-- Its unit has ended: it pops no more (R306). -/
  closing : Bool := false
  deriving DecidableEq, Repr

/-- An operand ring descriptor (R312, R354). `claims` are pushes that wait: slot, the stores they wait for. -/
structure Ring where
  owner : Option Nat := none
  base : Nat := 0
  size : Nat := 0
  count : Nat := 1
  head : Nat := 0
  tail : Nat := 0
  next : Nat := 0
  claims : List (Nat × List Nat) := []
  /-- Reserved sequence numbers released ahead of their turn (R313). -/
  released : List Nat := []
  deriving DecidableEq, Repr

/-- A core. -/
structure Core where
  /-- Layout L: descriptors 0 to 3 and 4 to 7 (R120, R121). -/
  layouts : Tab (Word × Word) := []
  /-- Local queue number to queue. -/
  local_ : Tab Nat := []
  /-- Stored entries of the queue store (R213): 8 q + e. -/
  store : Tab (Word × Nat) := []
  mail : Tab Mail := []
  waitMail : List Mail := []
  wb : List WbEntry := []
  /-- Lines of L1 by address / 128. -/
  l1 : Tab Line := []
  /-- Lines that the home slice holds (R211), by address / 128, the newest first; their bytes are those of the tier. -/
  l2 : List Nat := []
  tlb : List TlbEntry := []
  round : Nat := 0
  /-- Sent counts of the tags (R248). -/
  sent : Tab Nat := []
  /-- Rounds draining, oldest first, with their fixed sent counts (R249). -/
  draining : List (Nat × Nat) := []
  /-- A close waits for a round to complete (R249). -/
  closeWaits : Bool := false
  /-- The cycle in which a gathered query for the oldest draining round found its counts equal (R249). -/
  query : Option Nat := none
  /-- The current round has sent a write outside the cluster (R250). -/
  outside : Bool := false
  log : List (Nat × Nat) := []
  logged : Nat := 0
  promotions : List Promotion := []
  copies : List Copy := []
  gens : Tab Generator := []
  ref : Option RefAcc := none
  rings : Tab Ring := []
  /-- Tile commands in the command queue (R297). -/
  cmdQueue : Nat := 0
  /-- The launch that holds the scratchpad (R165). -/
  scratchOwner : Option Nat := none
  deriving DecidableEq, Repr

/-! ## A cluster -/

/-- A quantising declaration (R321). -/
structure QDecl where
  col : Bool
  fmt : QFmt
  blk : Bool
  tag : Nat
  stride : Word
  deriving DecidableEq, Repr

/-- A residue file (R321): entries as FP32 codes, with its declaration copy. -/
structure Residue where
  entries : List (BitVec 32) := List.replicate 128 0
  decl : Option (Bool × QFmt × Bool) := none
  /-- The declaration field as stores to the file have left it, where it names no declaration (R273, R325). -/
  odd : Option Nat := none
  tag : Nat := 0
  upper : Bool := false
  next : Nat := 0
  deriving DecidableEq, Repr

/-- What a tile command does, with what it captured (R347). -/
inductive TileOp where
  | zero
  | load (tr : Bool) (a : Word) (region : Word)
  | store (dst : SFmt) (a : Word) (region : Word)
  | mma (f : TFmt) (scaled : Bool) (dist : Option Dist) (k : Nat) (aRing aSeq bRing bSeq : Nat)
      (scales : Option (Nat × Nat × Nat × Nat))
  | quant (a region scale : Word) (decl : QDecl)
  deriving DecidableEq, Repr

/-- A tile command (R317). -/
structure TileCmd where
  id : Nat
  slot : Nat
  uid : Nat
  core : Nat
  batch : Nat
  seq : Nat
  op : TileOp
  mode : AccFmt
  tfrm : Nat
  acc : Accessor
  waits : List Nat
  /-- The cycle in which it started (R317, R318). -/
  started : Option Nat := none
  deriving DecidableEq, Repr

/-- An accumulator bank (R308). Its bytes stand in memory (R212). -/
structure Bank where
  holder : Option Nat := none
  weight : Nat := 0
  lastLaunch : Option Nat := none
  mode : AccFmt := .fp32
  decl : Option QDecl := none
  residue : Residue := {}
  /-- The residue file as it will stand after the qst commands issued (R323). -/
  issue : Residue := {}
  order : List TileCmd := []
  deriving DecidableEq, Repr

/-- The top-k unit (R328). -/
structure TopK where
  slot : Nat
  uid : Nat
  qd : Nat
  qa : Nat
  level : Nat
  largest : Bool
  ikey : Bool
  k : Nat
  kept : List Word := []
  /-- Elements and tokens still to be pushed. -/
  out : List Elem := []
  deriving DecidableEq, Repr

/-- A cluster. -/
structure Cluster where
  banks : Vector Bank 4 := Vector.replicate 4 {}
  /-- Waiting lease requests in order of arrival: slot, named bank, weight (R308). -/
  leaseQ : List (Nat × Option Nat × Nat) := []
  /-- Arbiter of the array: pointer, bank served, commands left of its run (R318). -/
  arbiter : Nat := 0
  served : Option (Nat × Nat) := none
  /-- The cycle from which the array is free, and the bank that it served last (R318). -/
  arrayFree : Nat := 0
  arrayBank : Option Nat := none
  topk : Option TopK := none
  loads : Vector Nat 8 := Vector.replicate 8 0
  tlb : List TlbEntry := []
  deriving DecidableEq, Repr

/-! ## A die -/

/-- A barrier object (R195): members are units with their counts, `waits` the parked units. -/
structure Barrier where
  launch : Option Nat := none
  members : Tab Nat := []
  c : Nat := 0
  /-- Cycle and slot of the request applied last (R198). -/
  last : Nat × Nat := (0, 0)
  deriving DecidableEq, Repr

/-- A shadow frame (R232): the physical address of the 64 KiB block that it copies, its seal generation, and the frame of the
die's fast tier that holds the copy. -/
structure Shadow where
  pa : Nat
  gen : Nat
  frame : Nat
  deriving DecidableEq, Repr

/-- A fabric command ring (R452). -/
structure FabRing where
  job : Nat
  va : Nat
  tail : Nat := 0
  /-- Descriptors taken by the engine. -/
  head : Nat := 0
  /-- Commands that have started and whose transfer is not done (R453): the 64 bytes of the descriptor by sequence. -/
  running : Tab (List (BitVec 8)) := []
  /-- Commands whose transfer is done and whose word is not written: sequence, status, the word's VA. -/
  finished : List (Nat × Nat × Nat) := []
  /-- The named buffers of collectives among them (R264): address and bytes by sequence. -/
  buffers : Tab (Nat × Nat) := []
  /-- Commands handed over by a core: sequence bound, core (R455). -/
  handed : List (Nat × Nat) := []
  deriving DecidableEq, Repr

/-- An entry of a ridge inbound queue (R422); it takes its time when it is written. -/
structure Inbound where
  time : Nat := 0
  source : Nat
  kind : Nat
  flags : Nat
  asid : Nat
  body : List Byte
  job : Nat
  op : Option OpRef := none
  /-- The reading of its body that has not ended (R423). -/
  reads : Option Nat := none
  deriving DecidableEq, Repr

/-- A device submission queue (R201): counts, and the entries reserved and not taken: whether the record
is copied, and its bytes. -/
structure DeviceQueue where
  tail : Nat := 0
  head : Nat := 0
  entries : Tab (Bool × List Byte) := []
  deriving DecidableEq, Repr

/-- A die. -/
structure Die where
  /-- How far the time-stamp counter leads (positive) or lags the reference (R456), and the count below which it does not
  read any more. -/
  skew : Int := 0
  floor : Nat := 0
  barriers : Tab Barrier := []
  /-- The shadow pool (R211), the frame used last first (R233). -/
  shadows : List Shadow := []
  rings : Tab FabRing := []
  inbound : List Inbound := []
  inWaiting : List Inbound := []
  rqbase : Word := 0
  rqhead : Word := 0
  rqtail : Nat := 0
  spawnQ : Tab DeviceQueue := []
  deriving DecidableEq, Repr

/-! ## Work -/

/-- A stage record (R80). -/
structure Stage where
  entry : Nat := 0
  scratch : Nat := 0
  regs : Nat := 48
  replicas : Nat := 0
  ordered : Bool := false
  hint : Nat := 0
  tokens : List (Nat × Nat × Nat) := []
  deriving DecidableEq, Repr

/-- A queue table entry (R81). -/
structure QEntry where
  depth : Nat
  ring : Bool
  from_ : Nat
  fromPort : Nat
  to_ : Nat
  toPort : Nat
  deriving DecidableEq, Repr

/-- A kernel header (R79). -/
structure Kernel where
  stages : List Stage := []
  queues : List QEntry := []
  barriers : Nat := 0
  rings : Nat := 0
  handler : Nat := 0
  size : Nat := 64
  deriving DecidableEq, Repr

/-- What a moving, waiting or saved thread carries (R179, R181, R199). -/
structure Thread where
  slot : Slot
  core : Nat
  /-- The release that has to be complete before it may run (R179, R199): slot and number. -/
  after : Option (Nat × Nat) := none
  /-- The slot that a pre-emption took it from. -/
  origin : Nat := 0
  /-- The cycle in which it was sent (R456); none in that cycle itself. -/
  sent : Option Nat := none
  deriving DecidableEq, Repr

/-- A leased bank as a pre-emption saved it: the slot that held it, the cluster, its state and its bytes. -/
structure SavedBank where
  slot : Nat
  cluster : Nat
  bank : Bank
  bytes : List Byte
  deriving DecidableEq, Repr

/-- What a pre-emption saved of a core for a launch, beside its threads (R407). -/
structure SavedCore where
  core : Nat
  mail : List Mail
  scratch : List Byte
  copies : List Copy
  ref : Option RefAcc
  deriving DecidableEq, Repr

/-- Segments of a replicable stage (R174, R176): the next to hand out, and those whose outputs may still come. -/
structure Segments where
  next : Nat := 0
  live : List Nat := []
  deriving DecidableEq, Repr

/-- The copy of the level table that a cluster holds (R203): the cycle in which it was taken, and count and status of every
launch, graph, phase and job. -/
structure LevelCopy where
  taken : Nat
  launches : Tab (Nat × Nat)
  graphs : Tab (Nat × Nat)
  phases : Tab (Nat × Nat)
  jobs : Tab (Nat × Nat)
  deriving DecidableEq, Repr

/-- A launch (R154, R157). -/
structure Launch where
  job : Nat
  asid : Nat
  graph : Nat := 0
  tag : Nat := 0
  phase : Nat := 0
  queue : Nat := 0
  image : Nat := 0
  args : List Word := []
  preds : List Nat := []
  stackBytes : Nat := 65536
  /-- Reasons of R159 that its record or its image gave when it was taken. -/
  faults : List Nat := []
  kernel : Kernel := {}
  placed : Bool := false
  /-- Units that have not ended (R154). -/
  count : Nat := 0
  /-- 0 not complete, 1 done, 2 failed, 3 cancelled (R155). -/
  status : Nat := 0
  failed : Bool := false
  cancelled : Bool := false
  cores : List Nat := []
  queueIds : List Nat := []
  /-- Die and numbers of the barrier objects. -/
  barrierDie : Nat := 0
  barrierIds : List Nat := []
  /-- Waiting forked tasks and yielded units, newest first (R181). -/
  tasks : List Thread := []
  /-- Parents that gave up their slots at sync: unit and thread. -/
  resting : Tab Thread := []
  segs : Tab Segments := []
  /-- Input queues that the last sample of a die's balancer found more than half full (R175): die and entry. -/
  crowded : List (Nat × Nat) := []
  /-- The generation of the ASID when it started (R23). -/
  gen : Nat := 0
  /-- Saved by a pre-emption (R407): its threads, its cores, its banks and its top-k units by cluster. -/
  saved : Option (List Thread) := none
  stored : List SavedCore := []
  banks : List SavedBank := []
  topks : Tab TopK := []
  /-- In-die sent and received, out sent, in received, of each die (R182). -/
  traffic : Tab (Nat × Nat × Nat × Nat) := []
  deriving DecidableEq, Repr

/-- A graph or a phase (R154, R155). -/
structure Group where
  job : Nat
  phase : Nat := 0
  count : Nat := 0
  closed : Bool := false
  failed : Bool := false
  cancelled : Bool := false
  status : Nat := 0
  deriving DecidableEq, Repr

/-- A range that a job has mapped (R447), with its leaf attributes. -/
structure Range where
  va : Nat
  bytes : Nat
  attrs : Word
  deriving DecidableEq, Repr

/-- A job (R448). -/
structure Job where
  asid : Nat
  port : Nat
  closed : Bool := false
  cancelled : Bool := false
  failed : Bool := false
  status : Nat := 0
  count : Nat := 0
  ranges : List Range := []
  deriving DecidableEq, Repr

/-- A submission queue (R158, R161, R426). -/
structure SubQ where
  enabled : Bool := false
  job : Nat := 0
  asid : Nat := 0
  prio : Nat := 0
  passes : Nat := 0
  /-- Records taken and not placed: launches by number. -/
  waiting : List Nat := []
  /-- Records handed over and not taken: their 64 bytes. -/
  records : List (List Byte) := []
  tail : Nat := 0
  head : Nat := 0
  deriving DecidableEq, Repr

/-- An address space (R215, R223, R227, R425). -/
structure Asid where
  root : Word := 0
  gen : Nat := 0
  masks : Tab Nat := []
  grants : Tab Word := []
  /-- When the ridge wrote the group masks and the grant ranges, where it has. -/
  maskTick : Option Nat := none
  grantTick : Option Nat := none
  deriving DecidableEq, Repr

/-- What the home of a seal-class page keeps (R231). -/
structure SealInfo where
  size : Nat
  tail : Nat := 0
  sealed : Bool := false
  gen : Nat := 0
  deriving DecidableEq, Repr

/-- The lifetime record of a page (R235) and where it lies. -/
structure Page where
  asid : Nat
  va : Nat
  size : Nat
  prio : Nat := 0
  nextUse : Nat := 0
  moving : Bool := false
  /-- Why an access to a page that is not resident is rejected (R400): 0 it is not, 2 its host memory is out of reach,
  3 its data was lost during a move. -/
  fate : Nat := 0
  /-- Its contents in host memory (R238): the bytes that are not zero by their offset, and the seal state of a seal-class page. -/
  onHost : Option (List Host.Cell × Option SealInfo) := none
  deriving DecidableEq, Repr

/-! ## Messages in transit -/

/-- A request with its source core, its point of acceptance, its round tag and the store it is counted as. -/
structure Msg where
  core : Nat
  poa : Nat
  tag : Option Nat
  body : Body
  ops : List OpRef := []
  /-- What it was translated from: ASID, virtual address, bytes. -/
  span : Option Span := none
  /-- What keeps it in its core: a pending fence (R252), or what holds back the slot's writes (R250). -/
  gate : List Hold := []
  /-- Its pieces have passed the tests of their ports (R314). -/
  tested : Bool := false
  /-- Its place among requests that arrive in one cycle (R231, R243): the number of the slot that made it. -/
  rank : Nat := 0
  /-- The cycle in which it was sent (R456); none in that cycle itself. -/
  sent : Option Nat := none
  deriving DecidableEq, Repr

/-- A reply to a slot (R152, R274): the number of the request, the offset of the piece, its bytes, and in place of them a fault:
its cause, the distance of the faulting byte in the piece, and its tinfo. -/
structure Reply where
  slot : Nat
  uid : Nat
  id : Nat
  off : Nat := 0
  bytes : List Byte
  failed : Option (Nat × Nat × Nat) := none
  /-- The point of acceptance that sends it; none where it comes from the slot's own die. -/
  poa : Option Nat := none
  /-- The cycle in which it was sent (R456); none in that cycle itself. -/
  sent : Option Nat := none
  deriving DecidableEq, Repr

/-- A prefetch into L1, or into the home slices (R283): the bytes still to be filled. -/
structure Prefetch where
  core : Nat
  asid : Nat
  va : Nat
  left : Nat
  toL2 : Bool
  deriving DecidableEq, Repr

/-- A walk in progress (R228), for `home`. -/
structure Walk where
  core : Nat
  asid : Nat
  gen : Nat
  va : Nat
  slot : Nat
  uid : Nat
  id : Nat
  deriving DecidableEq, Repr

/-- A promote request or reply (R254, R421). -/
structure Promote where
  from_ : Nat
  core : Nat
  /-- The requester's launch; none for prom.all. -/
  launch : Option Nat
  /-- The cycle in which it was sent (R456); none in that cycle itself. -/
  sent : Option Nat := none
  deriving DecidableEq, Repr

/-- A generation change or range invalidation that has not completed (R227): the slot that waits for it, the ASID, the
number that no operation of an older translation reaches, and the range, lowest address and bytes; none for the whole space. -/
structure TlbOp where
  slot : Nat
  asid : Nat
  bound : Nat
  range : Option (Nat × Nat) := none
  deriving DecidableEq, Repr

/-- A fault report (R391): slot, sequence, instruction, pieces, ASID. -/
structure Report where
  slot : Nat
  seq : Nat
  pc : Word
  pieces : List Nat
  asid : Nat
  fetch : Bool
  write : Bool
  deriving DecidableEq, Repr

/-- A wake message (R392). -/
structure Wake where
  slot : Nat
  seq : Nat
  reject : Option (Nat × Word × Bool)
  /-- The slot that sent it; none for the ridge's own service. -/
  by_ : Option Nat := none
  /-- The cycle in which it was sent (R456); none in that cycle itself. -/
  sent : Option Nat := none
  deriving DecidableEq, Repr

/-- A page move (R237): its page, the tier it goes to (2 for host memory, R238), the step to be done next, the address of its entry with the old entry, and
the new entry. -/
structure Move where
  page : Nat
  tier : Nat
  step : Nat
  leafAt : Nat
  old : Word
  new : Word
  deriving DecidableEq, Repr

/-- A request of a unit to a barrier object (R198): 0 arrive, 1 drop, 2 join. -/
structure BarrierReq where
  slot : Nat
  uid : Nat
  launch : Nat
  n : Nat
  kind : Nat
  /-- The cycle in which it was sent (R456); none in that cycle itself. -/
  sent : Option Nat := none
  deriving DecidableEq, Repr

/-- What a barrier object sends a unit: its count and the phase, or the refusal of a join. -/
structure BarrierAns where
  uid : Nat
  n : Nat
  p : Nat
  c : Nat
  join : Bool
  full : Bool
  /-- The cycle in which it was sent (R456); none in that cycle itself. -/
  sent : Option Nat := none
  deriving DecidableEq, Repr

/-- A spawn on its way to its queue's home (R201). -/
structure Spawn where
  slot : Nat
  die : Nat
  index : Nat
  record : List Byte
  id : Nat
  deriving DecidableEq, Repr

/-- What a ridge samples of its die (R183): the tree's output and the four counts. -/
structure DieSample where
  idle : Bool
  a : Nat
  b : Nat
  o : Nat
  i : Nat
  deriving DecidableEq, Repr

/-- A probe of a launch (R183, R209): sample 1 and the time it was taken. -/
structure Probe where
  launch : Nat
  slot : Nat
  core : Nat
  box : Nat
  dev : Bool
  number : Nat
  sample : Option (Nat × List DieSample)
  deriving DecidableEq, Repr

/-- A migrating thread (R179): it leaves slot `origin` for `target` once the release of that number has completed. -/
structure Migration where
  origin : Nat
  release : Nat
  target : Nat
  thread : Slot
  back : Bool
  deriving DecidableEq, Repr

/-- A read of host memory that waits for its completion (R449): the addresses, in the order of the answer. -/
structure HostRead where
  /-- The slot and its unit; none for an engine's read. -/
  who : Option (Nat × Nat)
  pas : List Nat
  id : Nat
  /-- What its pieces were translated from, for the generation changes that wait for it (R227), and its core. -/
  spans : List Span := []
  core : Nat := 0
  /-- The number given out last when it was made. -/
  born : Nat := 0
  /-- What keeps it in its core (R252). -/
  gate : List Hold := []
  /-- The bus addresses that the port asks for, byte by byte (R449). -/
  bus : List Nat := []
  deriving DecidableEq, Repr

/-- A 16-byte write to a queue push register (R213). -/
structure PushWrite where
  core : Nat
  q : Nat
  data : Word
  tag : Nat
  /-- The copy that made it, or the store of a slot. -/
  copy : Nat
  from_ : Option Msg := none
  deriving DecidableEq, Repr

/-- A slot waits for a write of a device-wide CSR (R425): the cycle in which it issued. -/
structure CsrWrite where
  slot : Nat
  id : Nat
  issued : Nat
  deriving DecidableEq, Repr

/-- A cancellation posted to the ridge (R205): level and key of the object. -/
structure Cancellation where
  level : Level
  key : Nat
  /-- The cycle in which it was sent (R456); none in that cycle itself. -/
  sent : Option Nat := none
  deriving DecidableEq, Repr

/-- A pre-emption (R405), until the object is resumed: the command that asked for it, its object, its deadline, whether the
deadline has passed, and how far it has come. -/
structure PreEmption where
  port : Nat
  seq : Nat
  level : Level
  key : Nat
  deadline : Nat
  late : Bool := false
  /-- The step it is in: 1 stop, 2 release, 3 loads, 4 engines, 5 copies, 6 save; 7 when all is saved. -/
  phase : Nat := 1
  /-- The releases that its step waits for: slot and number. -/
  waits : List (Nat × Nat) := []
  /-- The stacks that hold its save area, one bit each (R410). -/
  saveStacks : Nat := 0
  deriving DecidableEq, Repr

/-- All is saved. -/
def PreEmption.done (p : PreEmption) : Bool := decide (7 ≤ p.phase)

/-! ## The host ports, the fabric and the module -/

/-- A ring in host memory (R445) with the records the ridge holds for it and the entries written. -/
structure HostRing where
  base : Word := 0
  size : Nat := 0
  head : Nat := 0
  tail : Nat := 0
  held : List (List Byte) := []
  deriving DecidableEq, Repr

/-- A host command whose action has not completed (R447). -/
inductive Waiting where
  | unmap (job va bytes : Nat)
  | resume (job level object : Nat)
  | cancel (level : Level) (key : Nat)
  /-- A group whose accelerator IDs are read from host memory. -/
  | group (job n : Nat)
  deriving DecidableEq, Repr

/-- A request of the device on its way to host memory (R265, R230): bus address, bytes, and what an AtomicOp does. -/
structure Posted where
  at_ : Nat
  bytes : List Byte
  atomic : Option AmoOp := none
  deriving DecidableEq, Repr

/-- A host port (R441 to R449). -/
structure HostPort where
  gen : Nat := 6
  width : Nat := 3
  werr : Bool := false
  dberr : Bool := false
  hwbase : Word := 0
  cmdSlot : Tab (BitVec 8) := []
  /-- Sequence of the command that runs (R447). -/
  busy : Option Nat := none
  /-- What that command waits for. -/
  waiting : Option Waiting := none
  response : List Word := List.replicate 8 0
  rings : Tab HostRing := []
  window : Tab Word := []
  msixTable : Tab (BitVec 8) := []
  msixPending : Nat := 0
  /-- MSI-X Enable and Function Mask of the PCIe capability (R446). -/
  msixOn : Bool := false
  msixMasked : Bool := false
  /-- AER: the uncorrectable error status (R441). -/
  aer : Nat := 0
  /-- Record areas of the queues: written bytes by offset from 0x10_0000. -/
  area : Tab (BitVec 8) := []
  /-- Requests of the device on their way to the host, in order (R265). -/
  posted : List Posted := []
  /-- MSI-X vectors sent. -/
  vectors : List Nat := []
  /-- Outcome of the last window read: its bytes, or Unsupported Request. -/
  lastRead : Option (List Byte) := none
  /-- Configuration registers as written, and what the last configuration request was answered; none for Configuration
  Request Retry Status (R464). -/
  config : Tab Nat := []
  lastConfig : Option Nat := none
  atomicsEnabled : Bool := false
  d3 : Bool := false
  deriving DecidableEq, Repr

/-- An export of a job's memory (R451). -/
structure Export where
  job : Nat
  va : Nat
  bytes : Nat
  r : Bool
  w : Bool
  deriving DecidableEq, Repr

/-- A firmware image in a flash slot (R466): boot firmware, ridge runtime and module configuration, the version, the public key and
the signature that stand with it; and what the boot ROM's test of these bytes gives, where the slot was written to its end. -/
structure Image where
  version : Nat
  boot : List (BitVec 8) := []
  runtime : List (BitVec 8) := []
  config : List (BitVec 8) := []
  key : List (BitVec 8) := []
  signature : List (BitVec 8) := []
  valid : Bool
  deriving DecidableEq, Repr

/-- What the module sends to another module or to a group (R450, R452): the code of the operation, 0 for an answer; the export and the
offset it names; how many bytes it asks for; the bytes it carries; and the fabric port that carries it. -/
structure FabricRequest where
  op : Nat
  target : Nat
  export_ : Nat := 0
  offset : Nat := 0
  length : Nat := 0
  bytes : List (BitVec 8) := []
  port : Nat := 0
  deriving DecidableEq, Repr

/-- The management and firmware state (R466 to R468). -/
structure Firmware where
  /-- The two flash slots. -/
  slots : List Image := [{ version := 1, valid := true }, { version := 0, valid := false }]
  /-- The slot whose image runs (R466). -/
  running : Option Nat := none
  rollback : Nat := 1
  /-- SPDM negotiation: version read, capabilities read, algorithms chosen. -/
  spdm : Nat := 0
  /-- The device identity key and the alias key of this boot (R467). -/
  identity : List (BitVec 8) := []
  aliasKey : List (BitVec 8) := []
  answers : List (List Byte) := []
  deriving DecidableEq, Repr

/-- Power and error registers (R471). -/
structure Power where
  limit : Nat := 2400
  total : Nat := 0
  dies : Nat := 0
  hbm : Nat := 0
  other : Nat := 0
  dieTemps : List Nat := [0, 0, 0, 0]
  hbmTemp : Nat := 0
  /-- Array duty in thousandths. -/
  duty : Nat := 1000
  hot : Bool := false
  tight : Nat := 0
  /-- Last ten samples. -/
  samples : List Nat := []
  errcor : Nat := 0
  errunc : Nat := 0
  deriving DecidableEq, Repr

/-- What the next step may be. -/
inductive Turn where
  | issue | events
  deriving DecidableEq, Repr

/-- The module. -/
structure State where
  slots : Tab Slot := []
  cores : Tab Core := []
  clusters : Tab Cluster := []
  dies : Tab Die := []
  mem : Memory := {}
  /-- DRAM and on-chip sectors that hold an uncorrectable error, by address / 32 (R399). -/
  lost : List Nat := []
  /-- Those of them that a record of kind 6 has reported. -/
  found : List Nat := []
  /-- The slot whose instruction is issuing, its length in bytes. -/
  cur : Nat := 0
  ilen : Nat := 2
  -- memory system
  net : List Msg := []
  acks : List OpRef := []
  replies : List Reply := []
  prefetches : List Prefetch := []
  walks : List Walk := []
  sendings : List Sending := []
  arrivals : Tab Nat := []
  /-- For each point of acceptance the cycle and the rank of the request that it accepted last (R243). -/
  accepted : Tab (Nat × Nat) := []
  promReqs : List Promote := []
  promReps : List Promote := []
  tlbOps : List TlbOp := []
  reports : List Report := []
  /-- Fault reports that each slot has made (R422). -/
  reportSeq : Tab Nat := []
  wakes : List Wake := []
  csrWrites : List CsrWrite := []
  moves : List Move := []
  /-- Requests of pf.shadow: die, block, generation; and the fills that run, with the cycle in which each began (R440). -/
  shadowFills : List (Nat × Nat × Nat) := []
  filling : List (Nat × Nat × Nat × Nat) := []
  pushWrites : List PushWrite := []
  asids : Tab Asid := []
  pages : Tab Page := []
  seals : Tab SealInfo := []
  /-- Ranges that were unmapped while launches of their ASID ran (R400): ASID, address, bytes. -/
  withdrawn : List (Nat × Nat × Nat) := []
  /-- Stack windows by root unit (R475): ASID, base and bytes. -/
  windows : Tab (Nat × Nat × Nat) := []
  /-- The key slots that are loaded, with their 64 bytes (R418). -/
  keys : Tab (List Byte) := []
  /-- Ranges of DRAM (first byte, one past the last) with the key slot of the entry through which they are accessed (R226), none
  for what the ridge keeps for itself; the newest first. -/
  keyed : List (Nat × Nat × Option Nat) := []
  /-- Ranges of DRAM with the key under which they were written (R418), the newest first. -/
  under : List (Nat × Nat × Nat) := []
  /-- Frames in use, by physical address: their bytes and the ASID they are given to. -/
  frames : Tab (Nat × Nat) := []
  regulator : Tab Word := []
  activates : Tab (List Nat) := []
  lowmark : Tab Nat := []
  /-- Stacks that retrain (R410). -/
  retrain : List Nat := []
  stepctr : Nat := 0
  /-- Requests of pf.fast and pf.cap (R283): page, to the fast tier. -/
  steers : List (Nat × Bool) := []
  -- work
  launches : Tab Launch := []
  graphs : Tab Group := []
  phases : Tab Group := []
  jobs : Tab Job := []
  nextJob : Nat := 1
  /-- ASIDs of completed jobs whose accesses have not all ended (R448): the ASID, and the number that none of its accesses
  reaches. -/
  leaving : List (Nat × Nat) := []
  /-- Copies of the level table by cluster (R203). -/
  levelCopies : Tab LevelCopy := []
  subQs : Tab SubQ := []
  pointers : List Nat := List.replicate 8 0
  queues : Tab Queue := []
  nextQueue : Nat := 0
  mails : List Mail := []
  barReqs : List BarrierReq := []
  barAns : List BarrierAns := []
  spawns : List Spawn := []
  probes : List Probe := []
  migrations : List Migration := []
  cancels : List Cancellation := []
  preempts : List PreEmption := []
  -- host, fabric, module
  ports : Tab HostPort := []
  hostReads : List HostRead := []
  /-- What host memory answered to reads of engines, by read; none for a failed read. -/
  hostData : Tab (Option (List Host.Cell)) := []
  /-- Accesses of engines to homes on other dies: the cycle of their last step, and the outcome once the home has acted. -/
  remote : Tab (Nat × Option (List Byte)) := []
  accelId : Option Nat := none
  exports : Tab Export := []
  groups : Tab (Nat × List Nat) := []
  /-- What has been sent to other modules. -/
  sentOut : List FabricRequest := []
  ready : Bool := false
  fatal : Bool := false
  powerStep : Nat := 0
  firmware : Firmware := {}
  power : Power := {}
  links : Tab Nat := []
  linkWorking : Tab Nat := []
  -- time and the model's own bookkeeping
  cycle : Nat := 0
  /-- Cycle at which the time-stamp counters started (R464 step 2). -/
  timeBase : Nat := 0
  turnCore : Nat := 0
  turn : Turn := .issue
  tick : Nat := 0
  /-- The next number for a launch, a unit, a store, a release, ...; none bears 0. -/
  nextId : Nat := 1
  agenda : List Instr := []
  inputs : List Instr := []
  /-- The event that just ran has to wait for something else and is to be tried again. -/
  again : Bool := false
  deriving DecidableEq, Repr

/-- Right after release of module reset (R464). Every register of every slot, core and device stands at the default
of its field. -/
def State.reset : State := {}

end Sys2Proof.Machine
end

