-- ==== Sys2Proof/Machine/Memory.lean ====
section
/-! DEFINITION. Memory as a list of bytes by physical address, in one canonical form. -/

namespace Sys2Proof.Machine

/-- What an unlisted address reads as: zero (R464 step 5). DEDUCED (notes/assumptions/5.md). -/
def blank : Byte := 0

/-- One byte. DEDUCED (notes/assumptions/5.md). -/
def Memory.byte (m : Memory) (a : Nat) : Byte := (Tab.get? m.cells a).getD blank

/-- Writes one byte and keeps the canonical form. -/
def Memory.setByte (m : Memory) (a : Nat) (b : Byte) : Memory :=
  { m with cells := if b = blank then Tab.del m.cells a else Tab.set m.cells a b }

/-- `n` bytes from an address up. -/
def Memory.read (m : Memory) : Nat → Nat → List Byte
  | _, 0 => []
  | a, n + 1 => m.byte a :: m.read (a + 1) n

/-- Writes bytes from an address up. -/
def Memory.write (m : Memory) : Nat → List Byte → Memory
  | _, [] => m
  | a, b :: r => (m.setByte a b).write (a + 1) r

/-- Writes listed bytes. -/
def Memory.writeCells (m : Memory) : List Host.Cell → Memory
  | [] => m
  | c :: r => (m.setByte c.1 c.2).writeCells r

/-- The bytes from `lo` to `hi` - 1 become zero. -/
def Memory.zero (m : Memory) (lo hi : Nat) : Memory := { m with cells := m.cells.filter fun c => !(lo ≤ c.1 && c.1 < hi) }

/-- The bytes from `lo` to `hi` - 1 that are not zero, with their addresses. -/
def Memory.cellsIn (m : Memory) (lo hi : Nat) : List Host.Cell := m.cells.filter fun c => lo ≤ c.1 && c.1 < hi

/-- The canonical form: rising addresses, and no byte listed that reads so unlisted. -/
def Memory.wf (m : Memory) : Bool := Tab.rises m.cells && m.cells.all fun c => c.2 != blank

end Sys2Proof.Machine
end

