-- ==== Sys2Proof/Machine/Ops.lean ====
section
/-! DEFINITION. Named operations over the state: registers, numbering, records to the host, completion and
cancellation of work, and taking a trap or a page fault (R390, R395). -/

namespace Sys2Proof.Machine

/-! ## Numbering (R147, R411) -/

/-- Core of a global slot number, ridge slots included. -/
def coreOf (g : Nat) : Nat := g / 16
/-- A core of the ridge complex. -/
def isRidgeCore (c : Nat) : Bool := 768 ≤ c
/-- Die of a core. -/
def dieOfCore (c : Nat) : Nat := if c < 768 then c / 192 else (c - 768) / 4
/-- Global cluster of a compute core. -/
def clusterOf (c : Nat) : Nat := c / 8
/-- Die of a slot. -/
def dieOf (g : Nat) : Nat := dieOfCore (coreOf g)
/-- Ring distance of two dies (R148). -/
def ringDistance (x y : Nat) : Nat := if x = y then 0 else if x ^^^ y = 3 then 2 else 1
/-- The dies that a message passes on its shortest path (R217, R435): a diagonal one passes the lower-numbered intermediate die. -/
def route (x y : Nat) : List Nat :=
  if x = y then [x] else if x ^^^ y = 3 then [x, if x = 0 ∨ x = 3 then 1 else 0, y] else [x, y]
/-- The eave port of die `x` that faces die `y` (R433): port A, 2x, faces die x XOR 1, and port B, 2x + 1, faces die x XOR 2. -/
def eavePort (x y : Nat) : Nat := 2 * x + ofBool (x ^^^ y != 1)
/-- The dies that a link joins (R433). -/
def linkDies (k : Nat) : Nat × Nat := match k with | 0 => (0, 1) | 1 => (2, 3) | 2 => (0, 2) | _ => (1, 3)
/-- The link at an eave port (R433). -/
def linkAt (port : Nat) : Nat := if port % 2 = 0 then port / 4 else 2 + port / 2 % 2
/-- The eave ports on a path, in the order in which a message passes them. -/
def portsOn (x y : Nat) : List Nat := ((route x y).zip (route x y).tail).flatMap fun e => [eavePort e.1 e.2, eavePort e.2 e.1]
/-- The dies in order of ring distance from one, the lower number first (R162). -/
def diesFrom (d : Nat) : List Nat :=
  [d] ++ [0, 1, 2, 3].filter (ringDistance d · == 1) ++ [0, 1, 2, 3].filter (ringDistance d · == 2)
/-- Cores of a die in chain order after core `c` (R148). -/
def chainAfter (c : Nat) : List Nat :=
  (List.range 191).map fun i => c / 192 * 192 + (c % 192 + 1 + i) % 192

/-! ## Access to the parts of the state -/

def State.slot (s : State) (g : Nat) : Slot := Tab.getD s.slots g {}
def State.setSlot (s : State) (g : Nat) (x : Slot) : State := { s with slots := Tab.set s.slots g x }
def State.modSlot (s : State) (g : Nat) (f : Slot → Slot) : State := s.setSlot g (f (s.slot g))
/-- The issuing slot. -/
def State.me (s : State) : Slot := s.slot s.cur
def State.modMe (s : State) (f : Slot → Slot) : State := s.modSlot s.cur f
/-- The core of the issuing slot. -/
def State.myCore (s : State) : Nat := coreOf s.cur
def State.core (s : State) (c : Nat) : Core := Tab.getD s.cores c {}
def State.modCore (s : State) (c : Nat) (f : Core → Core) : State := { s with cores := Tab.set s.cores c (f (s.core c)) }
def State.cluster (s : State) (c : Nat) : Cluster := Tab.getD s.clusters c {}
def State.modCluster (s : State) (c : Nat) (f : Cluster → Cluster) : State :=
  { s with clusters := Tab.set s.clusters c (f (s.cluster c)) }
def State.die (s : State) (d : Nat) : Die := Tab.getD s.dies d {}
def State.modDie (s : State) (d : Nat) (f : Die → Die) : State := { s with dies := Tab.set s.dies d (f (s.die d)) }
def State.launch (s : State) (l : Nat) : Launch := Tab.getD s.launches l { job := 0, asid := 0 }
def State.modLaunch (s : State) (l : Nat) (f : Launch → Launch) : State :=
  { s with launches := Tab.set s.launches l (f (s.launch l)) }
def State.job (s : State) (j : Nat) : Job := Tab.getD s.jobs j { asid := 0, port := 0 }
def State.modJob (s : State) (j : Nat) (f : Job → Job) : State := { s with jobs := Tab.set s.jobs j (f (s.job j)) }
def State.asidOf (s : State) (a : Nat) : Asid := Tab.getD s.asids a {}
def State.modAsid (s : State) (a : Nat) (f : Asid → Asid) : State := { s with asids := Tab.set s.asids a (f (s.asidOf a)) }
def State.port (s : State) (p : Nat) : HostPort := Tab.getD s.ports p {}
def State.modPort (s : State) (p : Nat) (f : HostPort → HostPort) : State := { s with ports := Tab.set s.ports p (f (s.port p)) }
def State.subQ (s : State) (q : Nat) : SubQ := Tab.getD s.subQs q {}
def State.modSubQ (s : State) (q : Nat) (f : SubQ → SubQ) : State := { s with subQs := Tab.set s.subQs q (f (s.subQ q)) }
def State.modQueue (s : State) (q : Nat) (f : Queue → Queue) : State :=
  match Tab.get? s.queues q with
  | some x => { s with queues := Tab.set s.queues q (f x) }
  | none => s
def State.modPage (s : State) (p : Nat) (f : Page → Page) : State :=
  match Tab.get? s.pages p with
  | some x => { s with pages := Tab.set s.pages p (f x) }
  | none => s
def State.bank (s : State) (cl b : Nat) : Bank := (s.cluster cl).banks.toList.getD b {}
def State.modBank (s : State) (cl b : Nat) (f : Bank → Bank) : State :=
  s.modCluster cl fun c => { c with banks := if h : b < 4 then c.banks.set b (f (c.banks.get ⟨b, h⟩)) else c.banks }
/-- A number that no object bears yet. DESIGN CHOICE (notes/assumptions/81.md). -/
def State.fresh (s : State) : Nat × State := (s.nextId, { s with nextId := s.nextId + 1 })

/-- A free value: the step's own, one for each `k`. -/
def State.free (s : State) (k : Nat) : Word := Config.unstated (s.tick * 2 ^ 64 + k)

/-- The slots that hold units of a launch, in ascending number. -/
def State.unitsOf (s : State) (l : Nat) : List (Nat × Slot) :=
  s.slots.filter fun e => match e.2.unit with | some u => u.launch == l | none => false

/-- The core holds a unit of the launch. -/
def State.holdsUnit (s : State) (c l : Nat) : Bool := (s.unitsOf l).any fun e => coreOf e.1 == c

/-- The slot still holds that unit. -/
def State.stillUnit (s : State) (g uid : Nat) : Bool :=
  match (s.slot g).unit with | some u => u.uid == uid | none => false

/-- The unit number of a slot; 0 where it holds no unit. -/
def Slot.uid (x : Slot) : Nat := match x.unit with | some u => u.uid | none => 0
/-- The launch of a slot's unit; 0 where it holds no unit. -/
def Slot.launch (x : Slot) : Nat := match x.unit with | some u => u.launch | none => 0
/-- ASID of a slot (R23). -/
def Slot.asidNo (x : Slot) : Nat := bits x.asid 11 0

/-! ## Registers (R9) -/

/-- X(n) of a register that is no port: x0 reads as zero. -/
def Slot.x (sl : Slot) (n : Nat) : Word := if n = 0 then 0 else sl.regs.toList.getD (n - 1) 0

/-- SetX(n, v): a write to x0 is discarded (R6, R9). An outstanding asynchronous load of the register will not write
it any more (R274). -/
def Slot.setX (sl : Slot) (n : Nat) (v : Word) : Slot :=
  if h : 1 ≤ n ∧ n ≤ 50 then
    { sl with regs := sl.regs.set (n - 1) v (by omega),
              outstanding := sl.outstanding.map fun o => if o.d = n then { o with live := false } else o }
  else sl

/-- Writes consecutive registers. -/
def Slot.setXs (sl : Slot) (n : Nat) : List Word → Slot
  | [] => sl
  | v :: r => (sl.setX n v).setXs (n + 1) r

/-- ORs flags into fflags, which has six bits: the device only sets them (R22). -/
def Slot.flag (sl : Slot) (f : Nat) : Slot := { sl with fflags := sl.fflags ||| word (f % 64) }

/-- Token-vector entry of a port and a level (R172, R190). -/
def Slot.vector (sl : Slot) (p l : Nat) : Word := sl.tvec.toList.getD ((p - 56) * 3 + l - 1) 0

def Slot.setVector (sl : Slot) (p l : Nat) (v : Word) : Slot :=
  if h : (p - 56) * 3 + l - 1 < 24 then { sl with tvec := sl.tvec.set ((p - 56) * 3 + l - 1) v h } else sl

/-- Binding of a port (R15). -/
def Slot.port (sl : Slot) (p : Nat) : Port := sl.ports.toList.getD (p - 56) .unbound

def Slot.setPort (sl : Slot) (p : Nat) (b : Port) : Slot :=
  if h : p - 56 < 8 then { sl with ports := sl.ports.set (p - 56) b h } else sl

/-- A number of a stream or queue port. -/
def isPort (n : Nat) : Bool := 56 ≤ n && n ≤ 63

/-! ## Time (R134, R456) -/

/-- The reference time-stamp counter: 1 GHz against the 1.7 GHz clock (R1). DESIGN CHOICE (notes/assumptions/72.md). -/
def State.time (s : State) : Nat := (s.cycle - s.timeBase) * 10 / 17

/-- A die's counter: within 2 ns of die 0's, and never backward (R456). DESIGN CHOICE (notes/assumptions/72.md). -/
def State.timeOf (s : State) (d : Nat) : Nat := Nat.max (s.die d).floor (((s.time : Int) + (s.die d).skew).toNat)

/-- The link at an eave port carries traffic: it does not retrain (R438). -/
def State.linkOpen (s : State) (port : Nat) : Bool := decide (Tab.getD s.links (linkAt port) 0 < 16)

/-- Every link on the path between two dies carries traffic (R435, R438). -/
def State.wayOpen (s : State) (x y : Nat) : Bool := (portsOn x y).all s.linkOpen

/-- A message has been under way for as long as one between two dies takes at least, 8 ns (R456). -/
def State.aged (s : State) (sent : Option Nat) : Bool := match sent with | some c => decide (c + Config.crossing ≤ s.cycle) | none => false

/-- A message can have arrived: at least 8 ns after it left another die (R456), and over links that do not retrain (R438). -/
def State.crossed (s : State) (from_ to_ : Nat) (sent : Option Nat) : Bool := from_ == to_ || (s.aged sent && s.wayOpen from_ to_)

/-- When and by whom an event is recorded: time-stamp and source number (R402, R457). -/
structure Stamp where
  time : Nat
  source : Nat
  deriving DecidableEq, Repr

/-- The order of events that no message orders: by time-stamp, then the lower source number (R402, R457). -/
def Stamp.before (x y : Stamp) : Bool := decide (x.time < y.time) || (x.time == y.time && decide (x.source < y.source))

/-! ## Records for the host (R401, R445) -/

/-- Entries that a ring holds; 0 where it is disabled (R445). -/
def HostRing.entries (r : HostRing) : Nat := if 6 ≤ r.size ∧ r.size ≤ 16 then 2 ^ r.size else 0

/-- Writes held records while the ring has room: a posted write, then tail (R445). The flag tells that the ring was
empty before a write, which sends its vector. A record of time `now` or later stays. -/
def HostRing.flush (now : Nat) : Nat → HostRing → HostRing × List (Nat × List Byte) × Bool
  | 0, r => (r, [], false)
  | n + 1, r =>
    match r.held with
    | [] => (r, [], false)
    | x :: rest =>
      if fieldLe x 0 8 < now ∧ (r.tail + 2 ^ 32 - r.head) % 2 ^ 32 < r.entries then
        let at_ := r.base.toNat + r.tail % r.entries * 64
        let was := r.tail == r.head
        let (r', ws, v) := HostRing.flush now n { r with held := rest, tail := (r.tail + 1) % 2 ^ 32 }
        (r', (at_, x) :: ws, was || v)
      else (r, [], false)

/-- Vector `i` of a port is masked: bit 0 of its vector control, which reset sets, or the function mask; or MSI-X is not enabled.
DEDUCED (notes/assumptions/79.md). -/
def HostPort.masked (hp : HostPort) (i : Nat) : Bool := !hp.msixOn || hp.msixMasked || (Tab.getD hp.msixTable (16 * i + 12) 1).toNat % 2 == 1

/-- The message of vector `i`: the four bytes of the data of its table entry, written to the entry's address (R446). -/
def HostPort.message (hp : HostPort) (i : Nat) : Posted :=
  let of (o n : Nat) : List Byte := (List.range n).map fun k => Tab.getD hp.msixTable (16 * i + o + k) 0
  { at_ := numLe (of 0 8), bytes := of 8 4 }

/-- The port sends the message of vector `i`, a posted write. -/
def HostPort.signal (hp : HostPort) (i : Nat) : HostPort := { hp with vectors := hp.vectors ++ [i], posted := hp.posted ++ [hp.message i] }

/-- Sends MSI-X vector `i`, or keeps it pending while it is masked (R446). DEDUCED (notes/assumptions/79.md). -/
def HostPort.send (hp : HostPort) (i : Nat) : HostPort :=
  if hp.masked i then { hp with msixPending := hp.msixPending ||| 2 ^ i } else hp.signal i

/-- Flushes ring `i` of a port. Fault records of the present nanosecond stay, so that another of the same time may still come
before them (R402). -/
def State.flushRing (s : State) (p i : Nat) : State :=
  s.modPort p fun hp =>
    let r := Tab.getD hp.rings i {}
    let (r', ws, v) := HostRing.flush (if i = 1 then s.time else 2 ^ 64) r.held.length r
    let hp := { hp with rings := Tab.set hp.rings i r', posted := hp.posted ++ ws.map fun w => { at_ := w.1, bytes := w.2 } }
    if v then hp.send (i + 1) else hp

/-- Time-stamp and source number of a fault record. -/
def stampOf (x : List Byte) : Stamp := { time := fieldLe x 0 8, source := fieldLe x 8 2 }

/-- A fault record takes its place among those that are held (R402). -/
def insertRecord (x : List Byte) : List (List Byte) → List (List Byte)
  | [] => [x]
  | y :: r => if (stampOf x).before (stampOf y) then x :: y :: r else y :: insertRecord x r

/-- Hands a record of 64 bytes to host ring `i` (0 completion, 1 fault, 2 post) of a port. -/
def State.record (s : State) (p i : Nat) (x : List Byte) : State :=
  (s.modPort p fun hp => { hp with rings := Tab.modify hp.rings i {} fun r =>
    { r with held := if i = 1 then insertRecord x r.held else r.held ++ [x] } }).flushRing p i

/-- What a fault record says (R401). -/
structure FaultInfo where
  source : Nat
  kind : Nat
  cause : Nat := 0
  flags : Nat := 0
  tip : Word := 0
  taddr : Word := 0
  tinfo : Word := 0

/-- The 64 bytes of a fault record (R401). -/
def faultBytes (time : Nat) (f : FaultInfo) (l : Launch) : List Byte :=
  bytesLe 8 time ++ bytesLe 2 f.source ++ bytesLe 1 f.kind ++ bytesLe 1 f.cause ++ bytesLe 4 f.flags ++
  bytesLe 8 f.tip.toNat ++ bytesLe 8 f.taddr.toNat ++ bytesLe 8 f.tinfo.toNat ++ bytesLe 4 l.graph ++
  bytesLe 2 l.tag ++ bytesLe 2 l.phase ++ bytesLe 2 l.asid ++ bytesLe 2 l.queue ++ bytesLe 12 0

/-- Posts a fault record to the fault ring of the launch's job (R401). -/
def State.faultRecord (s : State) (f : FaultInfo) (l : Launch) : State :=
  s.record (s.job l.job).port 1 (faultBytes s.time f l)

/-- The 64 bytes of a completion record (R445). -/
def completionBytes (time level status asid job graph tag phase queue : Nat) : List Byte :=
  bytesLe 8 time ++ bytesLe 1 level ++ bytesLe 1 status ++ bytesLe 2 asid ++ bytesLe 4 job ++ bytesLe 4 graph ++
  bytesLe 2 tag ++ bytesLe 2 phase ++ bytesLe 2 queue ++ bytesLe 38 0

/-! ## Levels of work (R154 to R156) -/

/-- Key of a graph and of a phase in their tables. -/
def graphKey (job graph : Nat) : Nat := job * 2 ^ 32 + graph
def phaseKey (job phase : Nat) : Nat := job * 2 ^ 16 + phase

/-- Status of a group whose parts are complete, in the order of R155. -/
def groupStatus (failed cancelled : Bool) : Nat := if failed then 2 else if cancelled then 3 else 1

/-- Frees a seal-class frame (R234): the generation rises, the page is open with tail 0. -/
def SealInfo.free (x : SealInfo) : SealInfo := { x with tail := 0, sealed := false, gen := (x.gen + 1) % 2 ^ 32 }

/-- The frames, pages and tables of an ASID are freed (R448). DEDUCED (notes/assumptions/80.md). -/
def State.freeAsid (s : State) (asid : Nat) : State :=
  let mine (pa : Nat) : Bool := s.frames.any fun f => f.2.2 == asid && decide (f.1 ≤ pa) && decide (pa < f.1 + f.2.1)
  { s.modAsid asid fun a => { a with root := 0, masks := [], grants := [], maskTick := none, grantTick := none } with
    seals := s.seals.each fun pa x => if mine pa then x.free else x
    frames := s.frames.filter fun f => f.2.2 != asid
    pages := s.pages.filter fun p => p.2.asid != asid
    windows := s.windows.filter fun w => w.2.1 != asid
    withdrawn := s.withdrawn.filter fun w => w.1 != asid
    moves := s.moves.filter fun m => match Tab.get? s.pages m.page with | some p => p.asid != asid | none => true }

/-- Raises the generation of an ASID (R227); on a wrap every entry of the ASID is removed. -/
def State.raiseGen (s : State) (asid : Nat) : State :=
  let g := ((s.asidOf asid).gen + 1) % 65536
  let s := s.modAsid asid fun a => { a with gen := g }
  if g = 0 then
    { s with
      cores := s.cores.each fun _ c => { c with tlb := c.tlb.filter fun e => e.asid != asid }
      clusters := s.clusters.each fun _ c => { c with tlb := c.tlb.filter fun e => e.asid != asid } }
  else s

/-- Graph and phase number of a launch record (R157). -/
def recordGroup (b : List Byte) : Nat × Nat := (fieldLe b 8 4, fieldLe b 14 2)

/-- A launch record that is enqueued and not taken (R154): its job and ASID and its bytes. -/
structure Untaken where
  job : Nat
  asid : Nat
  bytes : List Byte
  deriving DecidableEq, Repr

def Untaken.graph (x : Untaken) : Nat := graphKey x.job (recordGroup x.bytes).1
def Untaken.phase (x : Untaken) : Nat := phaseKey x.job (recordGroup x.bytes).2

/-- How a launch whose record is not taken is named: by graph and tag, above every number that is given out. -/
def tagKey (job graph tag : Nat) : Nat := 2 ^ 192 + graphKey job graph * 2 ^ 16 + tag
def Untaken.launch (x : Untaken) : Nat := tagKey x.job (recordGroup x.bytes).1 (fieldLe x.bytes 12 2)

/-- Launch records enqueued and not taken (R154). -/
def State.untaken (s : State) : List Untaken :=
  (s.subQs.flatMap fun q => q.2.records.map fun b => { job := q.2.job, asid := q.2.asid, bytes := b }) ++
  s.dies.flatMap fun d => d.2.spawnQ.flatMap fun q => q.2.entries.map fun e =>
    let x := s.subQ (128 + 16 * d.1 + q.1)
    { job := x.job, asid := x.asid, bytes := e.2.2 }

/-- The record's graph has no object yet. -/
def State.newGraph (s : State) (x : Untaken) : Bool := (Tab.get? s.graphs x.graph).isNone

/-- Neither have its graph and its phase. -/
def State.newPhase (s : State) (x : Untaken) : Bool := s.newGraph x && (Tab.get? s.phases x.phase).isNone

/-- What the records that are not taken add to a counter (R154): launches of a graph, new graphs of a phase, new phases of a job. -/
def State.untakenOf (s : State) (level : Level) (key : Nat) : Nat :=
  let l := s.untaken
  match level with
  | .launch => (l.filter fun x => x.launch == key).length
  | .graph => (l.filter fun x => x.graph == key).length
  | .phase => ((l.filter fun x => s.newGraph x && x.phase == key).map (·.graph)).eraseDups.length
  | .job => ((l.filter fun x => s.newPhase x && x.job == key).map (·.phase)).eraseDups.length

/-- A job completes when its stream is closed and its phases are complete (R154); its ASID receives a new generation, and is freed
once the accesses of the old one have ended (R448). DEDUCED (notes/assumptions/80.md). -/
def State.tryJob (s : State) (j : Nat) : State :=
  let x := s.job j
  if x.closed && x.count == 0 && x.status == 0 && s.untakenOf .job j == 0 then
    let st := groupStatus x.failed x.cancelled
    let s := s.modJob j fun x => { x with status := st }
    let s := { s.raiseGen x.asid with leaving := s.leaving ++ [(x.asid, s.nextId)], nextId := s.nextId + 1 }
    let s := { s with
      dies := s.dies.each fun _ e => { e with rings := e.rings.filter fun r => r.2.job != j }
      exports := s.exports.filter fun e => e.2.job != j
      groups := s.groups.filter fun g => g.2.1 != j }
    s.record x.port 0 (completionBytes s.time 4 st x.asid j 0 0 0 0)
  else s

/-- A phase completes when it is closed and its graphs are complete. -/
def State.tryPhase (s : State) (k : Nat) : State :=
  let x := Tab.getD s.phases k { job := 0 }
  if x.closed && x.count == 0 && x.status == 0 && s.untakenOf .phase k == 0 then
    let st := groupStatus x.failed x.cancelled
    let s := { s with phases := Tab.set s.phases k { x with status := st } }
    let s := s.modJob x.job fun j => { j with count := j.count - 1, failed := j.failed || st == 2, cancelled := j.cancelled || st == 3 }
    let s := s.record (s.job x.job).port 0 (completionBytes s.time 3 st (s.job x.job).asid x.job 0 0 (k % 65536) 0)
    s.tryJob x.job
  else s

/-- A graph completes when it is closed and its launches are complete. -/
def State.tryGraph (s : State) (k : Nat) : State :=
  let x := Tab.getD s.graphs k { job := 0 }
  if x.closed && x.count == 0 && x.status == 0 && s.untakenOf .graph k == 0 then
    let st := groupStatus x.failed x.cancelled
    let s := { s with graphs := Tab.set s.graphs k { x with status := st } }
    let pk := phaseKey x.job x.phase
    let s := { s with phases := Tab.modify s.phases pk { job := x.job } fun p =>
                { p with count := p.count - 1, failed := p.failed || st == 2, cancelled := p.cancelled || st == 3 } }
    let s := s.record (s.job x.job).port 0
      (completionBytes s.time 2 st (s.job x.job).asid x.job (k % 2 ^ 32) 0 x.phase 0)
    s.tryPhase pk
  else s

/-- A launch completes: its status (R155), its record, what it gives back (R165, R194), and its graph. Its ring descriptors are
unconfigured, with their counts as they stand (R354). -/
def State.finishLaunch (s : State) (l : Nat) : State :=
  let x := s.launch l
  let st := if x.failed then 2 else if x.cancelled then 3 else 1
  let s := s.modLaunch l fun x => { x with status := st, count := 0, tasks := [], resting := [] }
  let s := { s with
    cores := s.cores.each fun _ e => { e with
      scratchOwner := if e.scratchOwner = some l then none else e.scratchOwner
      rings := e.rings.each fun _ r => if r.owner = some l then { r with owner := none } else r
      gens := e.gens.filter fun g => g.2.acc.launch != l
      local_ := e.local_.filter fun q => !x.queueIds.contains q.2 }
    queues := s.queues.filter fun q => !x.queueIds.contains q.1
    dies := s.dies.each fun _ e => { e with barriers := e.barriers.filter fun b => b.2.launch != some l } }
  let s := s.record (s.job x.job).port 0
    (completionBytes s.time 1 st x.asid x.job x.graph x.tag x.phase x.queue)
  let k := graphKey x.job x.graph
  let s := { s with graphs := Tab.modify s.graphs k { job := x.job } fun g =>
              { g with count := g.count - 1, failed := g.failed || st == 2, cancelled := g.cancelled || st == 3 } }
  s.tryGraph k

/-- The launch completes once its counter is 0 and no unit can still be created (R154). -/
def State.tryLaunch (s : State) (l : Nat) : State :=
  let x := s.launch l
  if x.status == 0 && x.count == 0 then s.finishLaunch l else s

/-- A unit stops at its next instruction boundary: a parked instruction is abandoned, one parked on its own data
completes first (R153, R156). -/
def Slot.stop (sl : Slot) : Slot :=
  match sl.status with
  | .empty => sl
  | .parked _ | .woken _ => if sl.pending.isSome then { sl with stopAsked := true } else { sl with status := .stopped }
  | .dropped => { sl with status := .stopped, dropFlag := true }
  | _ => { sl with status := .stopped }

/-- Cancels a slot's unit (R156); one that has halted or trapped ends as it was. -/
def Slot.cancelUnit (sl : Slot) : Slot :=
  match sl.unit with
  | some u => { sl.stop with cancelled := true, held := false, unit := some { u with how := if u.how = 0 then 2 else u.how } }
  | none => sl

/-- Withdraws the lease requests of slots that do not wait any more (R350). -/
def State.sweepLeases (s : State) : State :=
  { s with clusters := s.clusters.each fun _ e => { e with
      leaseQ := e.leaseQ.filter fun r => decide ((s.slot r.1).status = .parked .lease) } }

/-- Cancels a launch (R156): its units stop, waiting tasks and saved threads go, an unplaced record is removed, and the copies that its
units have issued run on (R373). -/
def State.cancelLaunch (s : State) (l : Nat) : State :=
  let x := s.launch l
  if x.status != 0 then s
  else
    let gone := x.tasks.length + x.resting.length + (match x.saved with | some ts => ts.length | none => 0)
    let s := { s with slots := s.slots.each fun _ e =>
      match e.unit with | some u => if u.launch = l then e.cancelUnit else e | none => e }
    let s := s.sweepLeases
    let s := s.modLaunch l fun x => { x with
      cancelled := true, tasks := [], resting := [], saved := none, stored := [], banks := [], topks := [],
      count := if x.placed then x.count - gone else 0 }
    let s := { s with queues := s.queues.each fun _ q =>
      if q.launch = l then { q with elems := [], flights := [], backlog := [] } else q }
    let s := { s with subQs := s.subQs.each fun _ q => { q with waiting := q.waiting.filter (· != l) } }
    let s := { s with cores := s.cores.each fun _ k => { k with copies := k.copies.map fun c : Copy =>
      if c.acc.launch = l then { c with recorded := false } else c } }
    s.tryLaunch l

/-- Cancels launches one after another. -/
def State.cancelAll (s : State) (ls : List Nat) : State := ls.foldl State.cancelLaunch s

/-- The launch fails and is cancelled (R155, R395). -/
def State.failLaunch (s : State) (l : Nat) : State :=
  (s.modLaunch l fun x => { x with failed := true }).cancelLaunch l

/-- The launches beneath an object. -/
def State.launchesOf (s : State) (level : Level) (key : Nat) : List Nat :=
  (s.launches.filter fun e => match level with
    | .launch => e.1 == key
    | .graph => graphKey e.2.job e.2.graph == key
    | .phase => phaseKey e.2.job e.2.phase == key
    | .job => e.2.job == key).map (·.1)

/-- Marks an object that is not complete as cancelled and closed (R156). -/
def State.cancelObjectMark (s : State) (level : Level) (key : Nat) : State :=
  let mark (g : Group) : Group := if g.status = 0 then { g with cancelled := true, closed := true } else g
  match level with
  | .launch => s
  | .graph => { s with graphs := s.graphs.each fun k e => if k = key then mark e else e }
  | .phase => { s with
      phases := s.phases.each fun k e => if k = key then mark e else e
      graphs := s.graphs.each fun _ e => if phaseKey e.job e.phase = key then mark e else e }
  | .job => { s with
      jobs := s.jobs.each fun k e => if k = key ∧ e.status = 0 then { e with cancelled := true, closed := true } else e
      phases := s.phases.each fun _ e => if e.job = key then mark e else e
      graphs := s.graphs.each fun _ e => if e.job = key then mark e else e }

/-! ## Launch records (R154, R156, R157) -/

/-- Adds a launch to its graph; a new graph adds itself to its phase, and a new phase to its job (R154). -/
def State.enroll (s : State) (job graph phase : Nat) : State :=
  let gk := graphKey job graph
  let pk := phaseKey job phase
  let s := match Tab.get? s.graphs gk with
    | some _ => s
    | none =>
      let s := match Tab.get? s.phases pk with
        | some _ => s
        | none => { s with phases := Tab.set s.phases pk { job := job, phase := phase } }.modJob job fun j => { j with count := j.count + 1 }
      { s with
        graphs := Tab.set s.graphs gk { job := job, phase := phase }
        phases := Tab.modify s.phases pk { job := job, phase := phase } fun p => { p with count := p.count + 1 } }
  { s with graphs := Tab.modify s.graphs gk { job := job } fun g => { g with count := g.count + 1 } }

/-- A record closes its graph and its phase as its flags say. -/
def State.closeGroups (s : State) (job graph phase flags : Nat) : State :=
  let close (t : Tab Group) (k : Nat) (b : Bool) : Tab Group :=
    if b then match Tab.get? t k with | some g => Tab.set t k { g with closed := true } | none => t else t
  { s with
    graphs := close s.graphs (graphKey job graph) (flags % 2 == 1)
    phases := close s.phases (phaseKey job phase) (flags / 2 % 2 == 1) }

/-- The launch of a record. -/
def launchOf (q : SubQ) (qn : Nat) (b : List Byte) (k : Option Kernel) (faults : List Nat) : Launch :=
  let f (o n : Nat) : Nat := fieldLe b o n
  { job := q.job, asid := q.asid, graph := f 8 4, tag := f 12 2, phase := f 14 2, queue := qn, image := f 0 8
    args := (List.range (Nat.min 4 (f 24 1))).map fun i => word (f (32 + 8 * i) 8)
    preds := ((List.range 4).map fun i => f (16 + 2 * i) 2).filter (· != 0xFFFF)
    stackBytes := if f 26 2 = 0 then 65536 else f 26 2 * 4096
    faults := faults, kernel := k.getD {}, count := Nat.max 1 ((k.map (·.stages.length)).getD 1) }

/-- A record that is removed from its queue without being taken becomes a launch that is not placed (R156). -/
def State.enrollRecord (s : State) (qn : Nat) (b : List Byte) : Nat × State :=
  let l := launchOf (s.subQ qn) qn b none []
  let (id, s) := s.fresh
  let s := (s.enroll l.job l.graph l.phase).closeGroups l.job l.graph l.phase (fieldLe b 25 1)
  (id, { s with launches := Tab.set s.launches id l })

/-- A phase of a cancelled job and a graph of a cancelled phase are cancelled (R156). -/
def State.inheritCancel (s : State) (job graph : Nat) : State :=
  let gk := graphKey job graph
  let pk := phaseKey job (Tab.getD s.graphs gk { job := job }).phase
  let mark (g : Group) : Group := if g.status = 0 then { g with cancelled := true, closed := true } else g
  let s := if (s.job job).cancelled then { s with phases := Tab.modify s.phases pk { job := job } mark } else s
  if (Tab.getD s.phases pk { job := job }).cancelled then { s with graphs := Tab.modify s.graphs gk { job := job } mark } else s

/-- A record that is removed from its queue without being placed counts as a launch that completes as cancelled (R156). -/
def State.cancelRecord (s : State) (qn : Nat) (b : List Byte) : State :=
  let (id, s) := s.enrollRecord qn b
  (s.inheritCancel (s.launch id).job (s.launch id).graph).cancelLaunch id

/-- The graph, the phase or the job of a record has been cancelled and is not complete (R156). -/
def State.recordCancelled (s : State) (job : Nat) (b : List Byte) : Bool :=
  let (graph, phase) := recordGroup b
  let dead (g : Option Group) : Bool := match g with | some g => g.cancelled && g.status == 0 | none => false
  dead (Tab.get? s.graphs (graphKey job graph)) || dead (Tab.get? s.phases (phaseKey job phase)) ||
  ((s.job job).cancelled && (s.job job).status == 0)

/-- The oldest complete entry of a device queue passes to the ridge (R201). -/
def State.takeSpawn (s : State) (qn : Nat) : Option State :=
  let d := (qn - 128) / 16
  let q := Tab.getD (s.die d).spawnQ (qn % 16) {}
  match Tab.get? q.entries (q.head % 2 ^ 32) with
  | some (true, b) =>
    let s := s.modDie d fun x => { x with spawnQ := Tab.set x.spawnQ (qn % 16) { q with head := q.head + 1, entries := Tab.del q.entries (q.head % 2 ^ 32) } }
    some (s.modSubQ qn fun x => { x with records := x.records ++ [b], head := (x.head + 1) % 2 ^ 32 })
  | _ => none

/-- The numbers of the device queues (R158). -/
def deviceQueues : List Nat := (List.range 64).map (128 + ·)

/-- Every complete entry of a device queue passes to the ridge, `n` at most. -/
def State.takeSpawns : Nat → State → Nat → State
  | 0, s, _ => s
  | n + 1, s, qn => match s.takeSpawn qn with | some t => State.takeSpawns n t qn | none => s

/-- A record of a job belongs to an object. -/
def State.recordUnder (s : State) (level : Level) (key job : Nat) (b : List Byte) : Bool :=
  let x : Untaken := { job := job, asid := 0, bytes := b }
  match level with
  | .launch => x.launch == key
  | .graph => x.graph == key
  | .phase => (match Tab.get? s.graphs x.graph with | some g => phaseKey job g.phase | none => x.phase) == key
  | .job => job == key

/-- The records of an object leave their queues and become launches that are not placed (R156): their numbers. -/
def State.pullRecords (s : State) (level : Level) (key : Nat) : List Nat × State :=
  let s := deviceQueues.foldl (State.takeSpawns Config.deviceQueueEntries) s
  let gone := s.subQs.flatMap fun q => (q.2.records.filter (s.recordUnder level key q.2.job)).map fun b => (q.1, b)
  let s := { s with subQs := s.subQs.each fun _ q => { q with records := q.records.filter fun b => !s.recordUnder level key q.job b } }
  gone.foldl (fun r x => let (id, t) := r.2.enrollRecord x.1 x.2; (r.1 ++ [id], t)) ([], s)

/-- The launch that a name by graph and tag stands for, once its record has been taken. -/
def State.launchKey (s : State) (key : Nat) : Nat :=
  ((s.launches.find? fun e => tagKey e.2.job e.2.graph e.2.tag == key).map (·.1)).getD key

/-- Cancels an object and everything beneath it (R156), then lets what is complete complete. -/
def State.cancelObjectNow (s : State) (level : Level) (key : Nat) : State :=
  let key := if level = .launch then s.launchKey key else key
  let (new, s) := s.pullRecords level key
  let s := s.cancelObjectMark level key
  let s := new.foldl (fun s l => s.inheritCancel (s.launch l).job (s.launch l).graph) s
  let s := s.cancelAll (new ++ s.launchesOf level key)
  match level with
  | .launch => s
  | .graph => s.tryGraph key
  | .phase => ((s.graphs.filter fun e => phaseKey e.2.job e.2.phase == key).map (·.1)).foldl State.tryGraph s |>.tryPhase key
  | .job =>
    let s := ((s.graphs.filter fun e => e.2.job == key).map (·.1)).foldl State.tryGraph s
    let s := ((s.phases.filter fun e => e.2.job == key).map (·.1)).foldl State.tryPhase s
    s.tryJob key

/-! ## Traps (R395) -/

/-- A trap as its entry raises it. -/
structure Trap where
  cause : Nat
  taddr : Word := 0
  tinfo : Nat := 0
  async : Bool := false
  deriving DecidableEq, Repr

/-- A fetch fault: tinfo bit 0 of causes 0x05, 0x13 and 0x14 (R26), or protection of a fetch (R226). -/
def Trap.fetch (t : Trap) : Bool :=
  ((t.cause == 0x05 || t.cause == 0x13 || t.cause == 0x14) && t.tinfo % 2 == 1) || (t.cause == 0x06 && t.tinfo == 3)

/-- The four trap CSRs as the entry writes them; `active` is tcause bit 63 (R395, R396). -/
def Slot.writeTrap (sl : Slot) (t : Trap) (active : Bool) : Slot :=
  { sl with
    tcause := word (ofBool active * 2 ^ 63 + ofBool t.async * 2 ^ 62 + t.cause)
    tip := sl.pc, taddr := t.taddr, tinfo := word t.tinfo }

/-- A trap finds a handler that it can enter (R395). -/
def Slot.handles (sl : Slot) : Bool := !(sl.thand == 0 || bit sl.thand 0 || bit sl.tcause 63)

/-- Trap entry into the handler (R395): the repeat buffer is cleared and the PC stands at thand. A slot that was asked to
stop does so here, at an instruction boundary. -/
def Slot.enterHandler (sl : Slot) (t : Trap) : Slot :=
  { sl.writeTrap t true with
    rep := none, pc := sl.thand, blocks := [], pending := none
    status := if sl.stopAsked then .stopped else .running, stopAsked := false }

/-- The slot stops on a trap without a handler (R395). -/
def Slot.stopOnTrap (sl : Slot) (t : Trap) : Slot :=
  { sl.writeTrap t false with
    rep := none, status := .stopped, pending := none
    unit := sl.unit.map fun u => { u with how := 3 } }

/-- An access has met an uncorrectable error: errunc counts it (R472). DEDUCED (notes/assumptions/88.md). -/
def State.countLost (s : State) : State := { s with power := { s.power with errunc := (s.power.errunc + 1) % 2 ^ 64 } }

/-- Takes a trap at slot `g` (R395): entry into the handler, or the slot stops, its fault record is posted and its
launch fails and is cancelled. -/
def State.takeTrap (s : State) (g : Nat) (t : Trap) : State :=
  let s := if t.cause = 0x11 && !t.async then s.countLost else s
  let sl := s.slot g
  if sl.handles then s.setSlot g (sl.enterHandler t)
  else
    let s := s.setSlot g (sl.stopOnTrap t)
    match sl.unit with
    | none => s
    | some u =>
      let s := s.faultRecord { source := g, kind := 0, cause := t.cause,
                               flags := ofBool (bit sl.tcause 63) + 2 * ofBool t.async + 4 * ofBool t.fetch,
                               tip := sl.pc, taddr := t.taddr, tinfo := word t.tinfo } (s.launch u.launch)
      s.failLaunch u.launch

/-! ## Page faults (R390, R391) -/

/-- The 64 bytes of an entry of an inbound queue (R422). -/
def inboundBytes (e : Inbound) : List Byte :=
  bytesLe 8 e.time ++ bytesLe 2 e.source ++ bytesLe 1 e.kind ++ bytesLe 1 e.flags ++ bytesLe 2 e.asid ++ bytesLe 2 0 ++ e.body

/-- Entries that a die's inbound queue holds at most (R425). -/
def Die.inboundSize (x : Die) : Nat := 2 ^ (bits x.rqbase 3 0 + 6)

/-- The order of requests that a point accepts in one cycle (R231, R243, R411): none follows one of a higher rank. -/
def State.mayAccept (s : State) (poa rank : Nat) : Bool :=
  match Tab.get? s.accepted poa with
  | some (c, r) => c != s.cycle || decide (r ≤ rank)
  | none => true

/-- The point has accepted a request of a rank in this cycle. -/
def State.noteAccepted (s : State) (poa rank : Nat) : State := { s with accepted := Tab.set s.accepted poa (s.cycle, rank) }

/-- A die's inbound queue as a point at which requests arrive. -/
def inboundPoint (d : Nat) : Nat := 30000 + d

/-- Writes an entry of a die's inbound queue into ridge memory, where the runtime has placed the queue, and counts it; it takes
the die's time (R422). -/
def State.writeInbound (s : State) (d : Nat) (e : Inbound) : State :=
  let s := s.noteAccepted (inboundPoint d) e.source
  let e := { e with time := s.timeOf d }
  let x := s.die d
  let at_ := bits x.rqbase 45 12 * 4096 + x.rqtail % x.inboundSize * 64
  let s := if bits x.rqbase 45 12 = 0 then s else { s with mem := s.mem.write at_ (inboundBytes e) }
  let s := s.modDie d fun x => { x with inbound := x.inbound ++ [e], rqtail := (x.rqtail + 1) % 2 ^ 32 }
  match e.op with
  | some o => { s with acks := s.acks ++ [o] }
  | none => s

/-- The entry that enters a die's inbound queue next, where it has room (R422): the first whose body is there, with no earlier one of
its source; in one cycle none follows one of a higher source (R411). DEDUCED (notes/assumptions/55.md). -/
def State.inboundNext (s : State) (d : Nat) : Option Nat :=
  let x := s.die d
  if x.inboundSize ≤ x.inbound.length then none
  else (List.range x.inWaiting.length).find? fun i => match x.inWaiting[i]? with
    | some e => e.reads.isNone && (x.inWaiting.take i).all (·.source != e.source) && s.mayAccept (inboundPoint d) e.source
    | none => false

/-- Waiting entries enter a die's inbound queue, `n` at most. -/
def State.fillInbound : Nat → State → Nat → State
  | 0, s, _ => s
  | n + 1, s, d =>
    match s.inboundNext d with
    | none => s
    | some i =>
      match (s.die d).inWaiting[i]? with
      | some e => State.fillInbound n ((s.modDie d fun x => { x with inWaiting := dropAt x.inWaiting i }).writeInbound d e) d
      | none => s

/-- Waiting entries enter a die's inbound queue. -/
def State.settleInbound (s : State) (d : Nat) : State := State.fillInbound (s.die d).inWaiting.length s d

/-- Appends an entry to those that wait for a die's inbound queue, which it enters as soon as it can. -/
def State.inboundEntry (s : State) (d : Nat) (e : Inbound) : State :=
  (s.modDie d fun x => { x with inWaiting := x.inWaiting ++ [e] }).settleInbound d

/-- The 48 body bytes of a fault report (R422). -/
def reportBytes (seq : Nat) (pc : Word) (pieces : List Nat) : List Byte :=
  bytesLe 4 seq ++ bytesLe 4 (Nat.min pieces.length 2) ++ bytesLe 8 pc.toNat ++ bytesLe 8 (pieces.getD 0 0) ++
  bytesLe 8 (pieces.getD 1 0) ++ bytesLe 16 0

/-- Drops the slot: it takes no effect, and its core reports the pieces to the ridge (R390, R391).
DESIGN CHOICE (notes/assumptions/81.md). -/
def State.drop (s : State) (g : Nat) (pieces : List Nat) (fetch write : Bool) : State :=
  let sl := s.slot g
  let seq := Tab.getD s.reportSeq g 0
  let report : Report := { slot := g, seq := seq, pc := sl.pc, pieces := pieces, asid := sl.asidNo, fetch := fetch, write := write }
  let s := s.setSlot g { sl with
    status := if sl.stopAsked then .stopped else .dropped, dropFlag := sl.stopAsked, stopAsked := false
    dropSeq := seq, dropPieces := pieces, dropFetch := fetch, pending := none, blocks := [] }
  let s := { s with reports := s.reports ++ [report], reportSeq := Tab.set s.reportSeq g ((seq + 1) % 2 ^ 32) }
  s.inboundEntry (dieOf g) { source := g, kind := 0, flags := ofBool fetch + 2 * ofBool write,
                             asid := sl.asidNo, body := reportBytes seq sl.pc pieces, job := (s.launch sl.launch).job }

/-! ## How an instruction ends -/

/-- An instruction that does not complete in the ordinary way. -/
inductive Stop where
  /-- It raises a fault, with no effect of its own (R7). -/
  | trap (t : Trap)
  /-- It parks without effect, to be reissued (R153). -/
  | park (r : Reason)
  /-- It parks after what `s` holds has happened (a request is on its way). -/
  | wait (r : Reason) (s : State)
  /-- It met a token of level `l` at a position of a port (R172). -/
  | token (p pos l : Nat)
  /-- It meets a page fault (R390), of a fetch where `fetch`. -/
  | drop (pieces : List Nat) (fetch write : Bool)
  /-- It completed and has set the PC itself. -/
  | done (s : State)
  | fault (f : Fault)
  | refuse (r : Refusal)

/-- An instruction: the state in which its effect has taken place, before the PC advances. -/
abbrev Run := Except Stop State

/-- A step over one repeat body instruction, or plainly over the instruction (R131). -/
def Slot.advance (sl : Slot) (n : Nat) : Slot :=
  let next := sl.pc + word n
  match sl.rep with
  | none => { sl with pc := next }
  | some r =>
    if next = r.stop then
      if r.unbounded then { sl with pc := r.start }
      else if r.remaining = 1 then { sl with rep := none, pc := r.stop }
      else { sl with rep := some { r with remaining := r.remaining - 1 }, pc := r.start }
    else { sl with pc := next }

/-- The instruction has completed: the slot goes on, or stops where that was asked (R153). -/
def Slot.complete (sl : Slot) : Slot :=
  { sl with pending := none, stopAsked := false,
            status := if sl.stopAsked then .stopped else if sl.status = .empty ∨ sl.status = .stopped then sl.status else .running }

/-- The slot parks, or stops where that was asked and nothing of its own is under way (R152, R153). -/
def Slot.park (sl : Slot) (r : Reason) : Slot :=
  if sl.stopAsked ∧ sl.pending = none then { sl with status := .stopped, stopAsked := false }
  else { sl with status := .parked r }

/-- The PC advances past the instruction (R29). -/
def State.retire (s : State) : State := s.modMe fun sl => (sl.complete).advance s.ilen

/-- The slot continues at `target`, which leaves the fetch block (R125, R404). -/
def State.jump (s : State) (target : Word) : State := s.modMe fun sl => { sl.complete with pc := target, blocks := [] }

end Sys2Proof.Machine
end

