-- ==== Sys2Proof/Machine/Flags.lean ====
section
/-! DEFINITION. The flags of fflags (R22, R90) and the rounding modes (R21, R54, R89). How each operation sets its flags
stands beside its value in Machine/Numbers.lean; `Slot.flag` of Machine/Ops.lean sets them. -/

namespace Sys2Proof.Machine

/-- Inexact. -/
def fNX : Nat := 1
/-- Underflow. -/
def fUF : Nat := 2
/-- Overflow. -/
def fOF : Nat := 4
/-- Division by zero. -/
def fDZ : Nat := 8
/-- Invalid operation. -/
def fNV : Nat := 16
/-- Quantising saturation. -/
def fQS : Nat := 32

/-- Rounding mode of a modifier: a mode of its own, or that of frm (R54, R89). -/
def Slot.mode (sl : Slot) (r : Rnd) : Nat :=
  match r with
  | .frm => bits sl.frm 1 0
  | .rne => 0
  | .rz => 1
  | .ru => 2
  | .rd => 3

/-- Rounding mode of vector instructions and tile commands (R89). -/
def Slot.tileMode (sl : Slot) : Nat := bits sl.tfrm 1 0

end Sys2Proof.Machine
end

