-- ==== Sys2Proof/Machine/Operands.lean ====
section
/-! DEFINITION. Operands: register and port fields, pops, pushes and token transfers (R11, R12, R111, R166, R170 to
R176), and how an instruction's end becomes the outcome of a step. -/

namespace Sys2Proof.Machine

/-! ## Queues -/

/-- The kernel of a queue's launch, and the queue's entry in it. -/
def State.entryOf (s : State) (q : Queue) : Option QEntry := (s.launch q.launch).kernel.queues[q.entry]?

/-- The stage of a launch with a number. -/
def Launch.stage (l : Launch) (i : Nat) : Stage := l.kernel.stages.getD i {}

/-- The consumers of the queue are units of a replicable stage (R174). -/
def State.segmented (s : State) (q : Queue) : Bool :=
  match s.entryOf q with
  | some e => e.ring && ((s.launch q.launch).stage e.to_).replicas != 0
  | none => false

/-- The producer stage of the queue is ordered (R176). -/
def State.orderedFrom (s : State) (q : Queue) : Option Nat :=
  match s.entryOf q with
  | some e => if e.ring && ((s.launch q.launch).stage e.from_).ordered then some e.from_ else none
  | none => none

/-- Segments of a stage of a launch. -/
def State.segsOf (s : State) (l st : Nat) : Segments := Tab.getD (s.launch l).segs st {}

/-- The segment that a unit pops next from queue `q`: one that it holds, or the next to hand out (R174). -/
def State.segmentAt (s : State) (u : UnitInfo) (qid : Nat) : Nat :=
  (u.taken[Tab.getD u.finished qid 0]?).getD (s.segsOf u.launch u.stage).next

/-- The elements that a unit may pop from a queue, in order. -/
def State.visible (s : State) (u : UnitInfo) (qid : Nat) (q : Queue) : List Elem :=
  if s.segmented q then q.elems.filter fun e => e.seg == s.segmentAt u qid else q.elems

/-- Elements pushed and not popped (R170). -/
def Queue.count (q : Queue) : Nat := q.elems.length + q.backlog.length + q.flights.length

/-- Room that a unit holds in a queue for pushes to come (R171). -/
def Queue.heldRoom (q : Queue) (by_ : Nat) : Nat := q.reserved.count by_

/-- Entries of a producer's first hop (R168). -/
def Queue.firstHop (q : Queue) (by_ : Nat) : Nat := (q.flights.filter fun f => f.by_ == by_ && f.hop == 0).length

/-- Room for a push (R170): below the capacity for a local queue, a free skid entry of the first hop for a ring
queue; what is held for pushes to come counts (R171). -/
def Queue.room (q : Queue) (by_ : Nat) : Bool :=
  if q.ring then q.firstHop by_ + q.heldRoom by_ < 2 else q.count + q.reserved.length < q.depth

/-- Removes the first `n` elements of segment `k`. -/
def dropSegment (k : Nat) : Nat → List Elem → List Elem
  | _, [] => []
  | 0, l => l
  | n + 1, e :: r => if e.seg = k then dropSegment k n r else e :: dropSegment k (n + 1) r

/-- Counts one element of a launch's traffic (R182): `sent`, from die `x` to die `y`. -/
def State.traffic (s : State) (l : Nat) (sent : Bool) (x y : Nat) : State :=
  s.modLaunch l fun la => { la with traffic := Tab.modify la.traffic (if sent then x else y) (0, 0, 0, 0) fun (a, b, o, i) =>
    if x = y then (if sent then (a + 1, b, o, i) else (a, b + 1, o, i))
    else (if sent then (a, b, o + 1, i) else (a, b, o, i + 1)) }

/-- An element of the backlog may be delivered: no earlier segment of its producers is live or still to arrive. -/
def State.mayDeliver (s : State) (q : Queue) (e : Elem) : Bool :=
  match e.oseg with
  | none => true
  | some (st, n) =>
    (s.segsOf q.launch st).live.all (n ≤ ·) &&
    q.flights.all (fun f => match f.elem.oseg with | some (_, m) => n ≤ m | none => true) &&
    q.backlog.all (fun f => match f.oseg with | some (_, m) => n ≤ m | none => true)

/-- Delivers held elements whose turn has come, `fuel` at most (R176). -/
def State.deliver : Nat → State → Nat → State
  | 0, s, _ => s
  | n + 1, s, qid =>
    match Tab.get? s.queues qid with
    | none => s
    | some q =>
      match q.backlog.find? (s.mayDeliver q) with
      | none => s
      | some e =>
        let q' := { q with backlog := q.backlog.erase e, elems := q.elems ++ [{ e with seg := q.tokens }],
                           tokens := q.tokens + if e.tag = 0 then 0 else 1 }
        State.deliver n { s with queues := Tab.set s.queues qid q' } qid

/-- Delivers what may be delivered in every queue of a launch. -/
def State.deliverAll (s : State) (l : Nat) : State :=
  (s.launch l).queueIds.foldl (fun s q => match Tab.get? s.queues q with
    | some x => State.deliver x.backlog.length s q
    | none => s) s

/-! ## Ports -/

/-- What stands at a position of a port. -/
inductive Head where
  | empty
  | elem (e : Elem)
  | fault (cause : Nat) (addr : Word) (tinfo : Nat)
  | closed
  deriving DecidableEq, Repr

/-- Elements of a generator's stream, tokens included, still to come is none: every element has been loaded (R304). -/
def Generator.exhausted (g : Generator) : Bool := g.count.foldl (· * ·) 1 ≤ g.next

/-- What slot `g` finds at position `pos` of port `p` (R171, R304, R305). -/
def State.headAt (s : State) (g p pos : Nat) : Head :=
  let sl := s.slot g
  let fromQueue (q : Nat) : Head :=
    match Tab.get? s.queues q, sl.unit with
    | some x, some u => match (s.visible u q x)[pos]? with | some e => .elem e | none => .empty
    | _, _ => .empty
  match sl.port p with
  | .pop q _ => fromQueue q
  | .gen n =>
    match Tab.get? (s.core (coreOf g)).gens n with
    | none => .empty
    | some x => match x.ahead[pos]? with
      | some (e, none) => .elem e
      | some (_, some (c, a, t)) => .fault c a t
      | none => if x.exhausted then .closed else .empty
  | _ => .empty

/-- Pops `n` elements from a queue for the unit of slot `g` (R174). -/
def State.popQueue (s : State) (g qid n : Nat) : State :=
  match Tab.get? s.queues qid, (s.slot g).unit with
  | some q, some u =>
    if s.segmented q then
      let k := s.segmentAt u qid
      let fin := Tab.getD u.finished qid 0
      let popped := (s.visible u qid q).take n
      let fresh := fin == u.taken.length
      let s := if fresh then
          s.modLaunch u.launch fun l => { l with segs := Tab.modify l.segs u.stage {} fun x =>
            { next := x.next + 1, live := (match u.taken.getLast? with | some m => x.live.erase m | none => x.live) ++ [k] } }
        else s
      let u' := { u with taken := if fresh then u.taken ++ [k] else u.taken,
                         finished := if popped.any (·.tag != 0) then Tab.set u.finished qid (fin + 1) else u.finished }
      let s := s.modSlot g fun sl => { sl with unit := some u' }
      let s := { s with queues := Tab.set s.queues qid { q with elems := dropSegment k n q.elems, popped := q.popped + n } }
      if fresh then s.deliverAll u.launch else s
    else { s with queues := Tab.set s.queues qid { q with elems := q.elems.drop n, popped := q.popped + n } }
  | _, _ => s

/-- Pops `n` elements through a port of slot `g`. -/
def State.popPort (s : State) (g p n : Nat) : State :=
  match (s.slot g).port p with
  | .pop q _ => s.popQueue g q n
  | .gen k => s.modCore (coreOf g) fun c =>
      { c with gens := match Tab.get? c.gens k with
          | some x => Tab.set c.gens k { x with ahead := x.ahead.drop n }
          | none => c.gens }
  | _ => s

/-- Pushes an element to a queue for unit `u` on a die (R167, R168, R213). -/
def State.pushQueueAs (s : State) (die : Nat) (u : Option UnitInfo) (qid : Nat) (data : Word) (tag : Nat) : State :=
  match Tab.get? s.queues qid with
  | none => s
  | some q =>
    let e : Elem := { data := data, tag := tag }
    if q.ring then
      let oseg := match s.orderedFrom q, u with
        | some st, some u => u.taken.getLast?.map fun n => (st, n)
        | _, _ => none
      let f : Flight := { elem := { e with oseg := oseg }, by_ := (match u with | some u => u.uid | none => 0), die := die, hop := 0,
                          last := (portsOn die (dieOfCore q.core)).length }
      let s := { s with queues := Tab.set s.queues qid { q with pushed := q.pushed + 1, flights := q.flights ++ [f] } }
      s.traffic q.launch true die (dieOfCore q.core)
    else
      let s := { s with queues := Tab.set s.queues qid { q with elems := q.elems ++ [e], pushed := q.pushed + 1 } }
      s.modCore q.core fun c => { c with store := Tab.set c.store (8 * q.slotNo + q.pushed % 8) (data, tag) }

/-- Pushes an element to a queue for the unit of slot `g`. -/
def State.pushQueue (s : State) (g qid : Nat) (data : Word) (tag : Nat) : State :=
  s.pushQueueAs (dieOf g) (s.slot g).unit qid data tag

/-- A port of slot `g` has room. -/
def State.portRoom (s : State) (g p : Nat) : Bool :=
  match (s.slot g).port p with
  | .push q _ => match Tab.get? s.queues q with | some x => x.room (s.slot g).uid | none => false
  | _ => false

/-- Writes the destination of an instruction of slot `s.cur`: a register, or a push with tag 0 (R110, R167). -/
def State.writeX (s : State) (d : Nat) (v : Word) : State :=
  if isPort d then
    match s.me.port d with
    | .push q _ => s.pushQueue s.cur q v 0
    | _ => s
  else s.modMe (·.setX d v)

/-! ## The operand checks, in the order of R67 -/

/-- A trap of cause 0x01 at decoding or operand check, with taddr at the base word (R66). -/
def State.illegal (s : State) (sub : Nat) : Stop := .trap { cause := 0x01, taddr := s.me.pc + word (s.ilen - 2), tinfo := sub }

/-- A trap with a cause, an address and a detail. -/
def trapAt (cause : Nat) (taddr : Word) (tinfo : Nat) : Stop := .trap { cause := cause, taddr := taddr, tinfo := tinfo }

/-- A read field names a port that may be read (R12, R170). -/
def Slot.mayRead (sl : Slot) (n : Nat) : Bool :=
  !isPort n || match sl.port n with | .pop _ _ | .gen _ => true | _ => false

/-- A written field names a port that may be written. -/
def Slot.mayWrite (sl : Slot) (n : Nat) : Bool :=
  !isPort n || match sl.port n with | .push _ _ => true | _ => false

/-- A register number that the stage declares (R166). -/
def Slot.declared (sl : Slot) (n : Nat) : Bool := !(sl.regBound ≤ n && 1 ≤ n && n ≤ 47)

/-- Reads the operands in order, with the port test of R171. -/
def State.scan (s : State) : List Nat → List Nat → Except Stop (List Word)
  | [], _ => .ok []
  | r :: rs, seen =>
    if isPort r then
      match s.headAt s.cur r (seen.count r) with
      | .empty => .error (.park (.portEmpty r (seen.count r)))
      | .closed => .error (trapAt 0x0A 0 r)
      | .fault c a t => .error (trapAt c a t)
      | .elem e =>
        if e.tag = 0 then (s.scan rs (r :: seen)).map (e.data :: ·)
        else .error (.token r (seen.count r) e.tag)
    else (s.scan rs seen).map (s.me.x r :: ·)

/-- Pops every port position that was read. -/
def State.popAll (s : State) : List Nat → State
  | [] => s
  | r :: rs => if isPort r then (s.popPort s.cur r 1).popAll rs else s.popAll rs

/-- The operands of an instruction that reads `reads` in this order and writes `write`: the faults of reserved
registers (R11), unbound or wrong ports (R12, R170) and undeclared registers (R166) in the order of R67, then the
procedure of R171; its values, and the state after the pops. `extra` are further registers of groups. -/
def State.operands (s : State) (reads : List Nat) (write : Option Nat) (extra : List Nat := []) :
    Except Stop (List Word × State) :=
  let sl := s.me
  let named := reads ++ write.toList
  if named.any fun n => 51 ≤ n && n ≤ 55 then .error (s.illegal 2)
  else if !(reads.all sl.mayRead && write.toList.all sl.mayWrite) then .error (s.illegal 3)
  else if !(named ++ extra).all sl.declared then .error (trapAt 0x04 0 1)
  else do
    let vs ← s.scan reads []
    match write with
    | some d => if isPort d && !s.portRoom s.cur d then .error (.park (.portFull d))
    | none => pure ()
    .ok (vs, s.popAll reads)

/-- As `operands` for an instruction that also reads its destination: a port there is illegal (R111). -/
def State.operandsD (s : State) (d : Nat) (reads : List Nat) : Except Stop (List Word × State) :=
  if (d :: reads).any fun n => 51 ≤ n && n ≤ 55 then .error (s.illegal 2)
  else if isPort d then .error (s.illegal 3)
  else s.operands (d :: reads) (some d)

/-- As `operands` for an instruction none of whose register fields may name a port (R270, R348, R411). -/
def State.operandsNP (s : State) (reads : List Nat) (write : Option Nat) (extra : List Nat := []) :
    Except Stop (List Word × State) :=
  if (reads ++ write.toList).any fun n => 51 ≤ n && n ≤ 55 then .error (s.illegal 2)
  else if (reads ++ write.toList).any isPort then .error (s.illegal 3)
  else s.operands reads write extra

/-! ## Instructions that wait for their own data (R151 to R153, R171) -/

/-- The elements at the heads of the ports that an instruction reads: port and element, in operand order. -/
def State.headsOf (s : State) : List Nat → List Nat → List (Nat × Elem)
  | [], _ => []
  | r :: rs, seen =>
    if isPort r then
      match s.headAt s.cur r (seen.count r) with
      | .elem e => (r, e) :: s.headsOf rs (r :: seen)
      | _ => s.headsOf rs (r :: seen)
    else s.headsOf rs seen

/-- Puts an element back at the head of a port of slot `g`. -/
def State.unpop (s : State) (g : Nat) (x : Nat × Elem) : State :=
  match (s.slot g).port x.1 with
  | .pop q _ => s.modQueue q fun y => { y with elems := x.2 :: y.elems, popped := y.popped - 1 }
  | .gen k => s.modCore (coreOf g) fun c =>
      { c with gens := match Tab.get? c.gens k with
          | some y => Tab.set c.gens k { y with ahead := (x.2, none) :: y.ahead }
          | none => c.gens }
  | _ => s

/-- Room for one push is held in the queue of port `p` for the unit of slot `g`. -/
def State.reserve (s : State) (g p : Nat) : State :=
  match (s.slot g).port p with
  | .push q _ => s.modQueue q fun y => { y with reserved := (s.slot g).uid :: y.reserved }
  | _ => s

/-- The room that the waiting instruction of slot `g` holds is free again. -/
def State.unreserve (s : State) (g : Nat) : State :=
  match (s.slot g).pending.bind (·.room) with
  | some p =>
    match (s.slot g).port p with
    | .push q _ => s.modQueue q fun y => { y with reserved := y.reserved.erase (s.slot g).uid }
    | _ => s
  | none => s

/-- The waiting instruction of slot `g` ends without effect: what it popped stands at the heads again (R7). -/
def State.abandon (s : State) (g : Nat) : State :=
  let popped := match (s.slot g).pending with | some p => p.popped | none => []
  let s := s.unreserve g
  (popped.reverse.foldl (fun s x => s.unpop g x) s).modSlot g fun sl => { sl with pending := none }

/-- The instruction of slot `s.cur` has something of its own to wait for: `before` is the state in which it issued, `reads` and
`write` are its operands (R171). -/
def State.pend (s before : State) (reads : List Nat) (write : Option Nat) (p : Pending) : State :=
  let room := match write with | some d => if isPort d then some d else none | none => none
  let s := match room with | some d => s.reserve s.cur d | none => s
  s.modMe fun sl => { sl with pending := some { p with
    len := s.ilen, popped := before.headsOf reads [], room := room } }

/-- The instruction of slot `s.cur` waits for its own data. -/
def State.await (s before : State) (reads : List Nat) (write : Option Nat) (p : Pending) : Stop :=
  .wait .own (s.pend before reads write p)

/-! ## Token transfer and the outcome of an instruction -/

/-- TokenTransfer of R172 at slot `s.cur`. -/
def State.tokenTransfer (s : State) (p pos l : Nat) : State :=
  let h := s.me.vector p l
  if h = 0 then s.takeTrap s.cur { cause := 0x09, taddr := 0, tinfo := p + l * 64 }
  else
    let s := s.popPort s.cur p (pos + 1)
    s.modMe fun sl => { sl.complete.setX 48 sl.pc with rep := none, pc := h, blocks := [] }

/-- The outcome of an instruction that was issued in state `s` (R7, R29, R153, R172, R390, R395). -/
def conclude (s : State) : Run → Host.Outcome State Fault Refusal
  | .ok s' => .next s'.retire
  | .error (.done s') => .next s'
  | .error (.trap t) => .next (s.takeTrap s.cur t)
  | .error (.park r) => .next (s.modMe (·.park r))
  | .error (.wait r s') => .next (s'.modMe (·.park r))
  | .error (.token p pos l) => .next (s.tokenTransfer p pos l)
  | .error (.drop pieces fetch write) => .next (s.drop s.cur pieces fetch write)
  | .error (.fault f) => .fault f
  | .error (.refuse r) => .refused r

/-- A slot that may go on is eligible from the next cycle on (R152). -/
def Slot.rest (sl : Slot) : Slot := if sl.status = .running then { sl with status := .parked .eligible } else sl

/-- What a waiting instruction of slot `g` does when its data is there: it completes (R151), or it ends in a trap or a page
fault without effect. -/
def State.resume (s : State) (g : Nat) (f : State → Run) : State :=
  match (s.slot g).pending with
  | none => s
  | some p =>
    match f ({ s with cur := g, ilen := p.len }.unreserve g) with
    | .ok t => t.retire.modSlot g Slot.rest
    | .error (.done t) => t.modSlot g Slot.rest
    | .error (.wait r t) => (t.modMe fun sl => { sl with pending := sl.pending.map fun q => { q with popped := p.popped ++ q.popped } }).modMe (·.park r)
    | .error (.park r) => s.modSlot g fun sl => { sl with status := .parked r }
    | .error (.trap t) => ((s.abandon g).takeTrap g t).modSlot g Slot.rest
    | .error (.drop pieces fetch write) => (s.abandon g).drop g pieces fetch write
    | .error _ => s

/-! ## Shapes of computing instructions -/

/-- xd := f(X(a)). -/
def unary (s : State) (d a : Nat) (f : Word → Word) : Host.Outcome State Fault Refusal :=
  conclude s do
    let (vs, s') ← s.operands [a] (some d)
    .ok (s'.writeX d (f (vs.getD 0 0)))

/-- xd := f(X(a), X(b)). -/
def binary (s : State) (d a b : Nat) (f : Word → Word → Word) : Host.Outcome State Fault Refusal :=
  conclude s do
    let (vs, s') ← s.operands [a, b] (some d)
    .ok (s'.writeX d (f (vs.getD 0 0) (vs.getD 1 0)))

/-- xd := f(X(d), X(a), X(b)), where d may not be a port (R111). -/
def ternary (s : State) (d a b : Nat) (f : Word → Word → Word → Word) : Host.Outcome State Fault Refusal :=
  conclude s do
    let (vs, s') ← s.operandsD d [a, b]
    .ok (s'.writeX d (f (vs.getD 0 0) (vs.getD 1 0) (vs.getD 2 0)))

/-- Last operand a register or an immediate (R112). -/
def binarySrc (s : State) (d a : Nat) (b : Src) (f : Word → Word → Word) : Host.Outcome State Fault Refusal :=
  match b with
  | .reg r => binary s d a r f
  | .imm i => unary s d a fun x => f x (wordOfInt i)

/-- xd := a value, with no register read. -/
def nullary (s : State) (d : Nat) (v : Word) : Host.Outcome State Fault Refusal :=
  conclude s do
    let (_, s') ← s.operands [] (some d)
    .ok (s'.writeX d v)

/-- As `unary` and `binary`, for results that also set flags in fflags (R113). -/
def unaryF (s : State) (d a : Nat) (f : Word → Word × Nat) : Host.Outcome State Fault Refusal :=
  conclude s do
    let (vs, s') ← s.operands [a] (some d)
    let r := f (vs.getD 0 0)
    .ok ((s'.writeX d r.1).modMe (·.flag r.2))

def binaryF (s : State) (d a b : Nat) (f : Word → Word → Word × Nat) : Host.Outcome State Fault Refusal :=
  conclude s do
    let (vs, s') ← s.operands [a, b] (some d)
    let r := f (vs.getD 0 0) (vs.getD 1 0)
    .ok ((s'.writeX d r.1).modMe (·.flag r.2))

def ternaryF (s : State) (d a b : Nat) (f : Word → Word → Word → Word × Nat) : Host.Outcome State Fault Refusal :=
  conclude s do
    let (vs, s') ← s.operandsD d [a, b]
    let r := f (vs.getD 0 0) (vs.getD 1 0) (vs.getD 2 0)
    .ok ((s'.writeX d r.1).modMe (·.flag r.2))

end Sys2Proof.Machine
end

