-- ==== Sys2Proof/Machine/Keys.lean ====
section
/-! DEFINITION. Memory encryption (R226, R418): under which key a DRAM sector was written, and what it reads as under the key
of the entry that reaches it. -/

namespace Sys2Proof.Machine

/-- The key in a slot of the key table; 0 for one that is not loaded. -/
def State.keyIn (s : State) (slot : Nat) : Nat := ((Tab.get? s.keys slot).map numLe).getD 0

/-- A range holds an address. -/
def inRange {α : Type} (pa : Nat) (r : Nat × Nat × α) : Bool := decide (r.1 ≤ pa) && decide (pa < r.2.1)

/-- The key under which an address is reached; none where no entry has named a key slot for it. -/
def State.keyNow (s : State) (pa : Nat) : Option Nat := ((s.keyed.find? (inRange pa)).bind (·.2.2)).map s.keyIn

/-- The key under which the sector of an address was written; none where it has not been written under one. -/
def State.keyWritten (s : State) (pa : Nat) : Option Nat := (s.under.find? (inRange pa)).map (·.2.2)

/-- A byte of DRAM as it decrypts (R418). -/
def State.dramByte (s : State) (pa : Nat) : Byte :=
  match s.keyNow pa, s.keyWritten pa with
  | some now, some k => if now = k then s.mem.byte pa else Config.rekeyed k now (pa / 32) (numLe (s.mem.read (pa / 32 * 32) 32)) (pa % 32)
  | _, _ => s.mem.byte pa

/-- Adds a range before others, of which those inside it are dropped. -/
def addRange {α : Type} (r : Nat × Nat × α) (l : List (Nat × Nat × α)) : List (Nat × Nat × α) :=
  r :: l.filter fun x => !(decide (r.1 ≤ x.1) && decide (x.2.1 ≤ r.2.1))

/-- Writes a byte of DRAM: its whole sector is then encrypted under the key through which it is reached (R418). -/
def State.putDram (s : State) (pa : Nat) (b : Byte) : State :=
  match s.keyNow pa with
  | none => { s with mem := s.mem.setByte pa b }
  | some now =>
    if s.keyWritten pa = some now then { s with mem := s.mem.setByte pa b }
    else
      let lo := pa / 32 * 32
      let bytes := (List.range 32).map fun i => s.dramByte (lo + i)
      { s with mem := (s.mem.write lo bytes).setByte pa b, under := addRange (lo, lo + 32, now) s.under }

/-- The bytes from `lo` to `hi` - 1 are reached through a key slot from now on. -/
def State.reachThrough (s : State) (lo hi : Nat) (slot : Option Nat) : State :=
  match s.keyed.find? fun r => decide (r.1 < hi) && decide (lo < r.2.1) with
  | some r => if decide (r.1 ≤ lo) && decide (hi ≤ r.2.1) && r.2.2 == slot then s else { s with keyed := addRange (lo, hi, slot) s.keyed }
  | none => { s with keyed := addRange (lo, hi, slot) s.keyed }

/-- A frame is written with zeros under the key of a slot (R469). -/
def State.zeroFrame (s : State) (lo n slot : Nat) : State :=
  { s.reachThrough lo (lo + n) (some slot) with mem := s.mem.zero lo (lo + n), under := addRange (lo, lo + n, s.keyIn slot) s.under }

/-- A frame that the ridge keeps for itself takes bytes. -/
def State.ridgeFrame (s : State) (lo : Nat) (bytes : List Byte) : State :=
  { s.reachThrough lo (lo + bytes.length) none with mem := s.mem.write lo bytes }

end Sys2Proof.Machine
end

