-- ==== Sys2Proof/Machine/Map.lean ====
section
/-! DEFINITION. The physical address map, apertures, homes and translation (R36 to R39, R211 to R228). -/

namespace Sys2Proof.Machine

/-! ## The physical address map (R212) -/

/-- What stands at a physical address. -/
inductive Region where
  | fast (core : Nat) | cap (controller : Nat) | hostWindow (port : Nat)
  | scratch (core off : Nat) | queueStore (core off : Nat) | pushReg (core off : Nat) | mailbox (core off : Nat)
  | bank (cluster off : Nat) | residue (cluster off : Nat) | device (off : Nat) | none
  deriving DecidableEq, Repr

/-- The row of R212 that holds an address. -/
def region (pa : Nat) : Region :=
  if pa < 0x00C000000000 then
    let st := pa / 2 ^ 36
    let p := pa % 2 ^ 36 / 2 ^ 30
    if pa % 2 ^ 30 < Config.pseudoChannelBytes then .fast (st / 3 * 192 + st % 3 * 64 + p) else .none
  else if pa < 0x010000000000 then .none
  else if pa < 0x028000000000 then .cap ((pa - 0x010000000000) / 0x3000000000)
  else if pa < 0x200000000000 then .none
  else if pa < 0x300000000000 then .hostWindow ((pa - 0x200000000000) / 2 ^ 43)
  else if pa < 0x310000000000 then
    let c := (pa - 0x300000000000) / 2 ^ 20
    let o := pa % 2 ^ 20
    if Config.cores ≤ c then .none
    else if o < 0x40000 then .scratch c o
    else if o < 0x41000 then .queueStore c (o - 0x40000)
    else if o < 0x41200 then .pushReg c (o - 0x41000)
    else if o < 0x50000 then .none
    else if o < 0x50400 then .mailbox c (o - 0x50000)
    else .none
  else if pa < 0x380000000000 then
    let c := (pa - 0x310000000000) / 2 ^ 20
    let o := pa % 2 ^ 20
    if Config.clusters ≤ c then .none
    else if o < 0x20000 then .bank c o
    else if o < 0x21000 then .residue c (o - 0x20000)
    else .none
  else if pa < 0x380001000000 then .device (pa - 0x380000000000)
  else .none

/-- pcbase(c) of R212. -/
def pcbase (c : Nat) : Nat := (3 * (c / 192) + c % 192 / 64) * 2 ^ 36 + c % 192 % 64 * 2 ^ 30
/-- Stack of the fast tier that a core's pseudo-channel belongs to (R212). -/
def stackOf (c : Nat) : Nat := 3 * (c / 192) + c % 192 / 64
/-- Physical address of a byte of a core's scratchpad (R212). -/
def scratchPa (c off : Nat) : Nat := 0x300000000000 + c * 2 ^ 20 + off
/-- Physical address of a byte of a mailbox (R212). -/
def mailboxPa (c box off : Nat) : Nat := 0x300000050000 + c * 2 ^ 20 + box * 64 + off
/-- Physical address of a byte of an accumulator bank (R212). -/
def bankPa (cl b off : Nat) : Nat := 0x310000000000 + cl * 2 ^ 20 + b * 0x8000 + off

/-! ## Points of acceptance (R243): home slice of core c is c, host port p is 1000 + p, the ports of core c are 2000 + c,
those of a tile unit 3000 + its cluster, and the device registers 4000 -/

def poaHost (p : Nat) : Nat := 1000 + p
def poaCore (c : Nat) : Nat := 2000 + c
def poaTile (cl : Nat) : Nat := 3000 + cl
def poaDevice : Nat := 4000

/-- The die on which a point of acceptance stands; none for device registers, which every die has. -/
def dieOfPoa (poa : Nat) : Option Nat :=
  if poa < 1000 then some (dieOfCore poa) else if poa < 2000 then some (2 * (poa - 1000))
  else if poa < 3000 then some (dieOfCore (poa - 2000)) else if poa < 4000 then some ((poa - 3000) / 24) else none

/-- Point of acceptance of a byte that is reached without a page (R243). -/
def poaOfRegion : Region → Nat
  | .fast c => c
  | .cap c => 96 * c
  | .hostWindow p => poaHost p
  | .scratch c _ | .queueStore c _ | .pushReg c _ | .mailbox c _ => poaCore c
  | .bank cl _ | .residue cl _ => poaTile cl
  | .device _ | .none => poaDevice

/-- The point lies outside the cluster of a core (R250). -/
def outsideCluster (c poa : Nat) : Bool :=
  if 2000 ≤ poa && poa < 3000 then clusterOf (poa - 2000) != clusterOf c
  else if 3000 ≤ poa && poa < 4000 then poa - 3000 != clusterOf c
  else true

/-! ## Leaves (R224) -/

/-- Page class (R224). -/
inductive Cls where
  | normal | seal | device | host
  deriving DecidableEq, Repr

def leafCls (w : Word) : Cls :=
  match bits w 61 60 with
  | 0 => .normal
  | 1 => .seal
  | 2 => .device
  | _ => .host

def leafTier (w : Word) : Nat := bits w 59 58
def leafHashed (w : Word) : Bool := bit w 57
def leafGrain (w : Word) : Nat := match bits w 46 45 with | 0 => 32 | 1 => 128 | _ => 512
def leafKey (w : Word) : Nat := bits w 44 35
def leafR (w : Word) : Bool := bit w 34
def leafW (w : Word) : Bool := bit w 33
def leafX (w : Word) : Bool := bit w 32
def leafFrame (w : Word) : Nat := bits w 29 0

/-- The parts of a leaf (R224). -/
structure LeafParts where
  cls : Nat := 0
  tier : Nat := 0
  hashed : Bool := false
  home : Nat := 0
  grain : Nat := 1
  key : Nat := 0
  r : Bool := true
  w : Bool := false
  x : Bool := false
  frame : Nat := 0
  deriving DecidableEq, Repr

/-- The entry of a leaf with these parts. -/
def leafOf (p : LeafParts) : Word :=
  word (3 * 2 ^ 62 + p.cls * 2 ^ 60 + p.tier * 2 ^ 58 + ofBool p.hashed * 2 ^ 57 + p.home * 2 ^ 47 + p.grain * 2 ^ 45 +
    p.key * 2 ^ 35 + ofBool p.r * 2 ^ 34 + ofBool p.w * 2 ^ 33 + ofBool p.x * 2 ^ 32 + p.frame)

/-- The leaf with another tier and frame (R237 step 4). -/
def leafMoved (w : Word) (tier frame : Nat) : Word :=
  word (bits w 63 60 * 2 ^ 60 + tier * 2 ^ 58 + bits w 57 30 * 2 ^ 30 + frame)

/-- Group mask `g` of an ASID (R215): as a csrw has left it, else as the ridge wrote it. DESIGN CHOICE (notes/assumptions/108.md). -/
def Asid.mask (a : Asid) (g : Nat) : Nat :=
  (Tab.get? a.masks g).getD (match a.maskTick with | some t => Config.homeMask (t * 256 + g) % 2 ^ 768 | none => 0)

/-- Grant range `i` of an ASID (R214, R426): as a csrw has left it, else as the runtime wrote it. DESIGN CHOICE
(notes/assumptions/108.md). -/
def Asid.grant (a : Asid) (i : Nat) : Word :=
  (Tab.get? a.grants i).getD (match a.grantTick with | some t => Config.grantRange (t * 8 + i) &&& 0xFFFFFFFF3FFFFFFF | none => 0)

/-- Member cores of mask `g` of an ASID, ascending (R215). -/
def State.members (s : State) (asid g : Nat) : List Nat :=
  let m := (s.asidOf asid).mask g
  (List.range Config.cores).filter fun c => m / 2 ^ c % 2 = 1

/-- Home of a byte of a page of size `size` (R215). -/
def State.homeOf (s : State) (asid va size : Nat) (w : Word) : Nat :=
  if leafHashed w then
    let ms := s.members asid (bits w 54 47)
    ms.getD ((va % size / 256 + va / size) % ms.length) 0
  else bits w 56 47

/-- Physical address of a byte of a page (R216). -/
def State.physical (s : State) (asid va size : Nat) (w : Word) : Nat :=
  if leafHashed w && leafTier w == 0 && leafCls w != .host then
    let n := (s.members asid (bits w 54 47)).length
    pcbase (s.homeOf asid va size w) + leafFrame w * 65536 + va % size / 256 / n * 256 + va % 256
  else leafFrame w * 65536 + va % size

/-- Bytes of a member's chunk of a hashed fast-tier page (R216). -/
def chunkBytes (size n : Nat) : Nat := ceilDiv size (256 * n) * 256

/-- The leaf is one that the walker takes as valid (R225). A named home above 767 counts as invalid in both tiers. DESIGN
CHOICE (notes/assumptions/92.md). So does a hashed page whose chunk runs beyond the existing bytes of a region. DEDUCED
(notes/assumptions/120.md). -/
def State.leafValid (s : State) (asid size : Nat) (w : Word) : Bool :=
  let fr := leafFrame w * 65536
  let hashedFast := leafHashed w && leafTier w == 0
  let dram := leafCls w == .normal || leafCls w == .seal
  bit w 63 && bit w 62 && bits w 31 30 == 0 && bits w 46 45 != 3 && leafTier w != 3 &&
  (hashedFast && dram || fr % size == 0) &&
  (!leafHashed w || (bits w 56 55 == 0 && s.members asid (bits w 54 47) != [])) &&
  (leafHashed w || decide (bits w 56 47 < Config.cores) || !dram) &&
  (!(dram && leafTier w == 0 && !leafHashed w) ||
    (decide (pcbase (bits w 56 47) ≤ fr) && decide (fr + size ≤ pcbase (bits w 56 47) + Config.pseudoChannelBytes))) &&
  (!(dram && hashedFast) ||
    decide (fr + chunkBytes size (s.members asid (bits w 54 47)).length ≤ Config.pseudoChannelBytes)) &&
  !(leafCls w == .seal && leafHashed w) &&
  (leafCls w != .host || (leafTier w == 0 && decide (0x200000000000 ≤ fr ∧ fr + size ≤ 0x300000000000))) &&
  (leafCls w != .device || decide (0x300000000000 ≤ fr ∧ fr + size ≤ 0x380001000000)) &&
  (Tab.get? s.keys (leafKey w)).isSome &&
  !(leafW w && leafX w)

/-- A pointer entry of R224. -/
def pointerOk (w : Word) : Bool := bit w 63 && !bit w 62 && bits w 61 38 == 0

/-- Walks the levels below a table; the size of the page and its leaf, none where the walk ends at V = 0. Each level is
its shift, its entries and the size that a leaf there maps (R223). -/
def State.walkFrom (s : State) (asid va : Nat) : List (Nat × Nat × Nat) → Nat → Option (Nat × Word)
  | [], _ => none
  | (sh, n, size) :: rest, table =>
    let w := word (numLe (s.mem.read (table + va / 2 ^ sh % n * 8) 8))
    if pointerOk w && rest != [] then s.walkFrom asid va rest (bits w 37 0 * 256)
    else if size != 0 && s.leafValid asid size w then some (size, w)
    else none

/-- The four levels of R223. -/
def levels : List (Nat × Nat × Nat) := [(39, 1024, 0), (30, 512, 2 ^ 30), (21, 512, 2 ^ 21), (16, 32, 2 ^ 16)]

/-- An entry stands where a walk for an address ends, though it is not valid (R225). -/
def State.entryStands (s : State) (va : Nat) : List (Nat × Nat × Nat) → Nat → Bool
  | [], _ => false
  | (sh, n, _) :: rest, table =>
    let w := word (numLe (s.mem.read (table + va / 2 ^ sh % n * 8) 8))
    if pointerOk w && rest != [] then s.entryStands va rest (bits w 37 0 * 256) else bit w 63

/-- A walk from the root table of an ASID (R223, R426). -/
def State.walk (s : State) (asid va : Nat) : Option (Nat × Word) :=
  let r := (s.asidOf asid).root
  if bit r 63 then s.walkFrom asid va levels (bits r 45 13 * 8192) else none

/-- Physical address of the leaf entry of a page, where a walk reaches its level. -/
def State.leafAddrFrom (s : State) (va size : Nat) : List (Nat × Nat × Nat) → Nat → Option Nat
  | [], _ => none
  | (sh, n, sz) :: rest, table =>
    let e := table + va / 2 ^ sh % n * 8
    if sz = size then some e
    else
      let w := word (numLe (s.mem.read e 8))
      if pointerOk w then s.leafAddrFrom va size rest (bits w 37 0 * 256) else none

def State.leafAddr (s : State) (asid va size : Nat) : Option Nat :=
  let r := (s.asidOf asid).root
  if bit r 63 then s.leafAddrFrom va size levels (bits r 45 13 * 8192) else none

/-- The leaf of a page as its entry holds it. -/
def State.leafOfPage (s : State) (p : Page) : Word :=
  match s.leafAddr p.asid p.va p.size with
  | some a => word (numLe (s.mem.read a 8))
  | none => 0

/-- The entry of a page is valid (R225). -/
def State.pageValid (s : State) (p : Page) : Bool := s.leafValid p.asid p.size (s.leafOfPage p)

/-! ## Translation lookaside buffers (R227) -/

/-- An entry that a lookup hits. -/
def TlbEntry.hits (e : TlbEntry) (asid gen va : Nat) : Bool :=
  e.asid == asid && e.gen == gen && decide (e.va ≤ va) && decide (va < e.va + e.size)

/-- The TLB entry of an address for a core: from its L1 TLB, its cluster's L2 TLB, or a walk, which records the sealed
bit and the seal generation of a seal-class page (R232). The flag tells that it has to be installed. -/
def State.translate (s : State) (core asid va : Nat) : Option (TlbEntry × Bool) :=
  let gen := (s.asidOf asid).gen
  match (s.core core).tlb.find? (·.hits asid gen va) with
  | some e => some (e, false)
  | none =>
    let l2 := if isRidgeCore core then none else (s.cluster (clusterOf core)).tlb.find? (·.hits asid gen va)
    match l2 with
    | some e => some (e, true)
    | none =>
      match s.walk asid va with
      | none => none
      | some (size, w) =>
        let base := va / size * size
        let si := if leafCls w == .seal then Tab.get? s.seals (s.physical asid base size w) else none
        some ({ asid := asid, gen := gen, va := base, size := size, leaf := w,
                sealed := (si.map (·.sealed)).getD false, sealGen := (si.map (·.gen)).getD 0 }, true)

/-- The ranges of DRAM that a leaf of normal or seal class names (R216). -/
def State.dramOf (s : State) (e : TlbEntry) : List (Nat × Nat) :=
  let fr := leafFrame e.leaf * 65536
  if leafCls e.leaf == .device || leafCls e.leaf == .host then []
  else if leafHashed e.leaf && leafTier e.leaf == 0 then
    let ms := s.members e.asid (bits e.leaf 54 47)
    ms.map fun m => (pcbase m + fr, pcbase m + fr + chunkBytes e.size ms.length)
  else [(fr, fr + e.size)]

/-- Installs an entry in the core's L1 TLB and its cluster's L2 TLB; the oldest entry gives way. Its page is reached through its
key slot (R226). DESIGN CHOICE (notes/assumptions/11.md). -/
def State.install (s : State) (core : Nat) (e : TlbEntry) : State :=
  let s := (s.dramOf e).foldl (fun s r => s.reachThrough r.1 r.2 (some (leafKey e.leaf))) s
  let put (cap : Nat) (l : List TlbEntry) : List TlbEntry := if l.contains e then l else (e :: l).take cap
  let s := s.modCore core fun c => { c with tlb := put Config.l1TlbEntries c.tlb }
  if isRidgeCore core then s else s.modCluster (clusterOf core) fun c => { c with tlb := put Config.l2TlbEntries c.tlb }

/-! ## Apertures (R36 to R39, R214, R222) -/

/-- What a generic address names. -/
inductive Aper where
  | unmapped
  | virt (va : Nat)
  | stack (off : Nat)
  | scratch (core off : Nat)
  | window (pa : Nat)
  deriving DecidableEq, Repr

/-- Aperture of a generic address for a slot on a core (R36). -/
def aperture (core : Nat) (a : Word) : Aper :=
  match bits a 63 56 with
  | 0x00 => if bits a 55 49 = 0 then .virt (bits a 48 0) else .unmapped
  | 0xE0 => if bits a 55 18 = 0 ∧ core < Config.cores then .scratch core (bits a 17 0) else .unmapped
  | 0xE1 => if bits a 55 21 = 0 ∧ core < Config.cores then .scratch (core / 8 * 8 + bits a 20 18) (bits a 17 0) else .unmapped
  | 0xE8 => if bits a 55 28 = 0 then .stack (bits a 27 0) else .unmapped
  | 0xF0 => if bits a 55 46 = 0 ∧ region (bits a 45 0) ≠ .none then .window (bits a 45 0) else .unmapped
  | _ => .unmapped

/-- A located byte. -/
structure Loc where
  pa : Nat
  poa : Nat
  /-- Page class; none for a byte that is reached without a page. -/
  cls : Option Cls
  /-- Largest single-copy atomic access (R24). -/
  cap : Nat
  /-- tinfo of the protection fault of a read, a write, a fetch; 0 where allowed (R226). -/
  readFault : Nat
  writeFault : Nat
  fetchFault : Nat
  /-- Cacheable in L1 (R229), and the extent of a fill (R218). -/
  cached : Bool
  grain : Nat
  va : Nat
  asid : Nat
  pageSize : Nat
  leaf : Word
  sealed : Bool
  sealGen : Nat
  deriving DecidableEq, Repr

/-- What locating a byte ends in. -/
inductive Located where
  | unmapped
  | bound (tinfo : Nat)
  | pageFault
  | at_ (l : Loc) (fill : Option TlbEntry)
  deriving DecidableEq, Repr

/-- A byte that is reached without translation. -/
def directLoc (pa cap rf wf : Nat) : Loc :=
  { pa := pa, poa := poaOfRegion (region pa), cls := none, cap := cap, readFault := rf, writeFault := wf, fetchFault := 3,
    cached := false, grain := 32, va := 0, asid := 4096, pageSize := 0, leaf := 0, sealed := false, sealGen := 0 }

/-- Single-copy size of a physical region (R24, R260). -/
def regionCap : Region → Nat
  | .fast _ | .cap _ => 32
  | .hostWindow _ | .device _ => 8
  | _ => 64

/-- A slot as an accessor. A ridge slot is bounded by no kernel header. DESIGN CHOICE (notes/assumptions/86.md). -/
def State.accessor (s : State) (g : Nat) : Accessor :=
  let sl := s.slot g
  { core := coreOf g, asid := sl.asidNo, launch := sl.launch, scratchBound := sl.scratchBound,
    stackBase := sl.stackBase, stackSize := sl.stackSize }

/-- Permission of a grant for an address of the on-chip window (R214): bit 0 read, bit 1 write. -/
def State.granted (s : State) (asid pa : Nat) : Nat :=
  (List.range 8).foldl (fun m i =>
    let e := (s.asidOf asid).grant i
    let lo := bits e 29 0 * 65536
    if lo ≤ pa ∧ pa < lo + bits e 61 32 * 65536 then
      m ||| (ofBool (bit e 63) + 2 * ofBool (bit e 62)) else m) 0

/-- Locates a translated byte (R215, R216, R224, R225, R229). -/
def State.locateVa (s : State) (x : Accessor) (va : Nat) (stack : Bool) : Located :=
  match s.translate x.core x.asid va with
  | none => .pageFault
  | some (e, new) =>
    if leafTier e.leaf = 2 then .pageFault
    else
      let w := e.leaf
      let cls := leafCls w
      let pa := s.physical x.asid va e.size w
      let bad := stack && cls != .normal
      let port := match region pa with | .hostWindow p => p | _ => 0
      .at_ { pa := pa
             poa := match cls with
               | .host => poaHost port
               | .device => poaOfRegion (region pa)
               | _ => s.homeOf x.asid va e.size w
             cls := some cls
             cap := match cls with | .host | .device => 8 | _ => 32
             readFault := if bad then 4 else if leafR w then 0 else 1
             writeFault := if bad then 4 else if leafW w then 0 else 2
             fetchFault := if leafX w then 0 else 3
             cached := cls == .normal || (cls == .seal && e.sealed)
             grain := leafGrain w
             va := va, asid := x.asid, pageSize := e.size, leaf := w, sealed := e.sealed, sealGen := e.sealGen }
        (if new then some e else none)

/-- Locates the byte at a generic address for a slot or an engine (R36 to R39, R165, R166, R214, R222). -/
def State.locate (s : State) (x : Accessor) (a : Word) : Located :=
  match aperture x.core a with
  | .unmapped => .unmapped
  | .virt va => s.locateVa x va false
  | .stack o => if x.stackSize ≤ o then .bound 5 else s.locateVa x (x.stackBase + o) true
  | .scratch c o =>
    if x.scratchBound ≤ o then .bound 4
    else
      let peer := c != x.core && !s.holdsUnit c x.launch
      .at_ (directLoc (scratchPa c o) 64 (if peer then 6 else 0) (if peer then 6 else 0)) none
  | .window pa =>
    let g := if isRidgeCore x.core then 3 else s.granted x.asid pa
    .at_ (directLoc pa (regionCap (region pa)) (if g % 2 = 1 then 0 else 5) (if 2 ≤ g then 0 else 5)) none

end Sys2Proof.Machine
end

