-- ==== Sys2Proof/Machine/Device.lean ====
section
/-! DEFINITION. The device configuration CSRs (R212, R220, R471), which csrr and csrw reach by number and an access to the
device-register window by address. -/

namespace Sys2Proof.Machine

/-- A regulator as software left it (R220). DEDUCED (notes/assumptions/52.md). -/
def State.regulatorOf (s : State) (stack : Nat) : Word := Tab.getD s.regulator stack (word (2 ^ 63 + 1000 * 2 ^ 32 + 12000))

/-- The value that a regulator takes from a write (R220). -/
def regulatorValue (v : Word) : Word :=
  word (ofBool (bit v 63) * 2 ^ 63 + Nat.max 16 (bits v 47 32) * 2 ^ 32 + Nat.max 1 (bits v 19 0))

/-- The bounds of the module's power limit (R471). DEDUCED (notes/assumptions/52.md). -/
def limitInRange (n : Nat) : Nat := Nat.max 1200 (Nat.min 2400 n)

/-- The thermal CSR (R471). -/
def Power.thermal (p : Power) : Nat :=
  p.hbmTemp % 256 * 2 ^ 32 + (List.range 4).foldl (fun n i => n + p.dieTemps.getD i 0 % 256 * 256 ^ i) 0

/-- The throttle CSR (R471). -/
def Power.throttle (p : Power) : Nat :=
  p.duty / 10 % 256 * 256 + ofBool p.hot * 4 + ofBool (p.tight != 0) * 2 + ofBool (decide (p.duty < 1000))

/-- A device configuration CSR; none for a number that is not assigned (R20, R220, R471). -/
def State.deviceCsr (s : State) (c : Nat) : Option Word :=
  match c with
  | 0x200 => some (word s.power.limit)
  | 0x201 => some (word (s.power.other % 2 ^ 16 * 2 ^ 48 + s.power.hbm % 2 ^ 16 * 2 ^ 32 + s.power.dies % 2 ^ 16 * 2 ^ 16 + s.power.total % 2 ^ 16))
  | 0x202 => some (word s.power.thermal)
  | 0x203 => some (word s.power.throttle)
  | 0x204 => some (word s.power.errcor)
  | 0x205 => some (word s.power.errunc)
  | c => if 0x210 ≤ c ∧ c ≤ 0x21B then some (s.regulatorOf (c - 0x210)) else none

/-- Writes a device configuration CSR; one that is read only stays as it is. -/
def State.writeDeviceCsr (s : State) (c : Nat) (v : Word) : State :=
  match c with
  | 0x200 => { s with power := { s.power with limit := limitInRange (bits v 15 0) } }
  | 0x204 => { s with power := { s.power with errcor := (word s.power.errcor &&& ~~~v).toNat } }
  | 0x205 => { s with power := { s.power with errunc := (word s.power.errunc &&& ~~~v).toNat } }
  | c => if 0x210 ≤ c ∧ c ≤ 0x21B then { s with regulator := Tab.set s.regulator (c - 0x210) (regulatorValue v) } else s

/-- The number of the device configuration CSR at an offset of the device-register window.
DESIGN CHOICE (notes/assumptions/29.md). -/
def csrAt (off : Nat) : Nat := off / 8

/-- A write of 4 or 8 bytes to a device register other than a doorbell: a device configuration CSR takes it, with the bytes not
written as they are (zero, where writing a one clears); another register takes no effect. DESIGN CHOICE (notes/assumptions/29.md). -/
def State.writeDevice (s : State) (off : Nat) (bytes : List Byte) : State :=
  let old := ((s.deviceCsr (csrAt off)).getD 0).toNat
  let clears := csrAt off == 0x204 || csrAt off == 0x205
  let v := (List.range 8).map fun i =>
    if off % 8 ≤ i ∧ i < off % 8 + bytes.length then bytes.getD (i - off % 8) 0 else if clears then 0 else byteOf (old / 256 ^ i)
  s.writeDeviceCsr (csrAt off) (word (numLe v))

end Sys2Proof.Machine
end

