-- ==== Sys2Proof/Machine/Access.lean ====
section
/-! DEFINITION. Accesses to memory: their checks (R33 to R39, R268 to R272), the write buffer and L1 (R218, R219), points
of acceptance (R243), atomics (R278) and seal-class pages (R231). -/

namespace Sys2Proof.Machine

/-! ## The residue file as bytes (R325) -/

def qfmtCode : QFmt → Nat
  | .t8 => 0 | .t6 => 1 | .i8 => 2 | .fp16 => 3 | .bf16 => 4

def qfmtOf : Nat → Option QFmt
  | 0 => some .t8 | 1 => some .t6 | 2 => some .i8 | 3 => some .fp16 | 4 => some .bf16 | _ => none

/-- The 576-byte record of a residue file (R325). -/
def residueBytes (r : Residue) : List Byte :=
  let decl := match r.decl with
    | none => r.odd.getD 0xFFFF
    | some (col, f, blk) => ofBool (!col) + qfmtCode f * 4 + ofBool blk * 32 + ofBool r.upper * 64
  (r.entries.flatMap fun e => bytesLe 4 e.toNat) ++ bytesLe 2 r.tag ++ bytesLe 2 decl ++ bytesLe 4 r.next ++ bytesLe 56 0

/-- 32-bit values in a list of bytes. -/
def wordsOf : Nat → List Byte → List (BitVec 32)
  | 0, _ => []
  | n + 1, l => BitVec.ofNat 32 (numLe (l.take 4)) :: wordsOf n (l.drop 4)

/-- The declaration that a decl field names, and whether the file holds the upper half: none where it is undefined (R367). -/
def declOf (decl : Nat) : Option ((Bool × QFmt × Bool) × Bool) :=
  match qfmtOf (decl / 4 % 8) with
  | none => none
  | some f =>
    let row := decl % 4 = 1
    let upper := decl / 64 % 2 = 1
    if decl % 4 > 1 ∨ 128 ≤ decl ∨ (upper ∧ !row) then none else some ((!row, f, decl / 32 % 2 = 1), upper)

/-- The residue file whose bytes these are (R325). -/
def residueFile (l : List Byte) : Residue :=
  let decl := fieldLe l 514 2
  let base : Residue := { entries := wordsOf 128 l, tag := fieldLe l 512 2, next := fieldLe l 516 4 }
  match declOf decl with
  | some (d, upper) => { base with decl := some d, upper := upper }
  | none => { base with odd := if decl = 0xFFFF then none else some decl }

/-- The residue file that a record loads; none where its decl is undefined (R367). -/
def residueOf (l : List Byte) : Option Residue :=
  if fieldLe l 514 2 = 0xFFFF then some {}
  else if (residueFile l).odd.isSome then none else some (residueFile l)

/-! ## Bytes at their points of acceptance -/

/-- Bytes of a stored queue entry: the data, then the tag (R213). -/
def entryByte (e : Word × Nat) (i : Nat) : Byte := if i < 8 then byteOf (e.1.toNat / 256 ^ i) else if i = 8 then byteOf e.2 else 0

/-- An entry with one byte replaced. -/
def setEntryByte (e : Word × Nat) (i : Nat) (b : Byte) : Word × Nat :=
  if i < 8 then (word (e.1.toNat - e.1.toNat / 256 ^ i % 256 * 256 ^ i + b.toNat * 256 ^ i), e.2)
  else if i = 8 then (e.1, b.toNat % 4) else e

/-- Bank of a residue offset, and the offset within its file (R212). -/
def residueAt (off : Nat) : Nat × Nat := (off / 0x400, off % 0x400)

/-- The byte that stands at a physical address. What a device register or a push register reads as is left open. The bytes of
a mailbox are those of the message that it holds (R212). DESIGN CHOICE (notes/assumptions/29.md). -/
def State.byteAt (s : State) (pa : Nat) : Byte :=
  match region pa with
  | .queueStore c o => entryByte (Tab.getD (s.core c).store (o / 16) (0, 0)) (o % 16)
  | .residue cl o => (residueBytes (s.bank cl (residueAt o).1).residue).getD (residueAt o).2 0
  | .device o => match s.deviceCsr (csrAt o) with | some v => byteOf (v.toNat / 256 ^ (o % 8)) | none => BitVec.ofNat 8 (s.free pa).toNat
  | .pushReg _ _ => BitVec.ofNat 8 (s.free pa).toNat
  | .fast _ | .cap _ => s.dramByte pa
  | _ => s.mem.byte pa

/-- Replaces a byte of an entry of a local queue, and of the element that occupies the entry (R213). -/
def State.setQueueByte (s : State) (c o : Nat) (b : Byte) : State :=
  let s := s.modCore c fun x => { x with store := Tab.modify x.store (o / 16) (0, 0) fun e => setEntryByte e (o % 16) b }
  match Tab.get? (s.core c).local_ (o / 128) with
  | none => s
  | some qid => s.modQueue qid fun q =>
      let i := (o / 16 % 8 + 8 - q.popped % 8) % 8
      match q.elems[i]? with
      | none => q
      | some e =>
        let (d, t) := setEntryByte (e.data, e.tag) (o % 16) b
        { q with elems := putAt q.elems i { e with data := d, tag := t } }

/-- Replaces a byte of a residue file (R325). -/
def State.setResidueByte (s : State) (cl o : Nat) (b : Byte) : State :=
  s.modBank cl (residueAt o).1 fun k =>
    let r := residueFile ((residueBytes k.residue).set (residueAt o).2 b)
    { k with residue := r, issue := r }

/-- Writes a byte at a physical address. -/
def State.putByte (s : State) (pa : Nat) (b : Byte) : State :=
  match region pa with
  | .queueStore c o => s.setQueueByte c o b
  | .residue cl o => s.setResidueByte cl o b
  | .device _ | .pushReg _ _ | .hostWindow _ | .none => s
  | .fast _ | .cap _ => s.putDram pa b
  | _ => { s with mem := s.mem.setByte pa b }

def State.putCells (s : State) (cs : List Host.Cell) : State := cs.foldl (fun s c => s.putByte c.1 c.2) s

/-! ## A core's own bytes that are under way -/

/-- The value of a byte among cells of the write buffer. -/
def wbByte (pa : Nat) (cs : List WbCell) : Option Byte := (cs.find? fun c => c.pa == pa).map (·.byte)

/-- A request that touches a byte. -/
def Body.covers (b : Body) (pa : Nat) : Bool :=
  match b with
  | .write cs => cs.any fun c => c.1 == pa
  | .atomic _ t p _ _ => decide (p ≤ pa) && decide (pa < p + match t with | .i32 | .n32 => 4 | .i64 | .n64 => 8)
  | _ => false

/-- An entry of the write buffer that touches a byte. -/
def WbEntry.covers (e : WbEntry) (pa : Nat) : Bool :=
  (wbByte pa e.cells).isSome || match e.direct with | some b => b.covers pa | none => false

/-- An entry of a page (R219); direct writes that are held back stand under ASID 4096. -/
def WbEntry.paged (e : WbEntry) : Bool := e.key.1 != 4096

/-- The newest byte of the core's write buffer (R242). -/
def Core.buffered (c : Core) (pa : Nat) : Option Byte :=
  c.wb.reverse.findSome? fun e => if e.paged then wbByte pa e.cells else none

/-- The newest byte among the core's writes that were sent and not accepted. -/
def State.inFlight (s : State) (core pa : Nat) : Option Byte :=
  s.net.reverse.findSome? fun m =>
    if m.core = core then
      match m.body with
      | .write cs => (cs.find? fun c => c.1 == pa).map (·.2)
      | _ => none
    else none

/-! ## Acceptance -/

/-- The bytes of a valid sector of L1, by address / 32 (R218). -/
def Core.sector (c : Core) (sec : Nat) : Option (List Byte) :=
  (Tab.get? c.l1 (sec / 4)).bind fun l => l.sectors.getD (sec % 4) none

/-- The bytes of a sector of L1 that has arrived (R456). -/
def State.sectorNow (s : State) (core sec : Nat) : Option (List Byte) :=
  (Tab.get? (s.core core).l1 (sec / 4)).bind fun l => if l.since.getD (sec % 4) 0 ≤ s.cycle then l.sectors.getD (sec % 4) none else none

/-- Replaces the sectors of L1 that meet a condition by invalid ones. -/
def Core.dropSectors (c : Core) (p : Line → Nat → Bool) : Core :=
  { c with l1 := c.l1.each fun k l => { l with sectors := l.sectors.mapIdx fun i x => if p l (4 * k + i) then none else x } }

/-- Updates a byte of a core's L1 where its sector is valid (R219, R246). -/
def Core.updateL1 (c : Core) (pa : Nat) (b : Byte) : Core :=
  match Tab.get? c.l1 (pa / 128) with
  | some l => { c with l1 := Tab.set c.l1 (pa / 128) { l with
      sectors := l.sectors.mapIdx fun i x => if i = pa / 32 % 4 then x.map fun bs => putAt bs (pa % 32) b else x } }
  | none => c

/-- The home's own core sees an accepted write in its L1, unless a write of its own is still to come (R246, R244).
DEDUCED (notes/assumptions/12.md). -/
def State.homeUpdate (s : State) (poa : Nat) (c : Host.Cell) : State :=
  if poa < Config.cores && ((s.core poa).buffered c.1).isNone && (s.inFlight poa c.1).isNone then
    s.modCore poa fun x => x.updateL1 c.1 c.2
  else s

/-- The home slice of core `poa` holds the line of an address (R211): 4,096 lines, of which the one filled first gives way.
DESIGN CHOICE (notes/assumptions/93.md). -/
def State.touchL2 (s : State) (poa pa : Nat) : State :=
  if poa < Config.cores then
    s.modCore poa fun c => if c.l2.contains (pa / 128) then c else { c with l2 := (pa / 128 :: c.l2).take Config.l2Lines }
  else s

/-- Contiguous runs of listed bytes, ascending. -/
def runsOf : List Host.Cell → List (Nat × List Byte)
  | [] => []
  | (a, b) :: r =>
    match runsOf r with
    | (a', bs) :: rest => if a + 1 = a' then (a, b :: bs) :: rest else (a, [b]) :: (a', bs) :: rest
    | [] => [(a, [b])]

/-- Bus address of a host page byte (R449). -/
def State.busAddress (s : State) (pa : Nat) : Nat :=
  let p := (pa - 0x200000000000) / 2 ^ 43
  (s.port p).hwbase.toNat + (pa - 0x200000000000) % 2 ^ 43

/-- The host port in whose window a byte lies. -/
def hostPortOf (pa : Nat) : Nat := (pa - 0x200000000000) / 2 ^ 43

/-- Sends a request to a host (R265). -/
def State.postToHost (s : State) (pa : Nat) (bytes : List Byte) (amo : Option AmoOp) : State :=
  let p := (pa - 0x200000000000) / 2 ^ 43
  s.modPort p fun h => { h with posted := h.posted ++ [{ at_ := s.busAddress pa, bytes := bytes, atomic := amo }] }

/-- Physical address of the doorbell of a fabric command ring (R452). Which device-register page a ring has is the
model's choice. DESIGN CHOICE (notes/assumptions/30.md). -/
def doorbellPa (die ring : Nat) : Nat := 0x380000000000 + 65536 * (1 + die * 63 + ring)

/-- The ring whose doorbell stands at an address. DESIGN CHOICE (notes/assumptions/30.md). -/
def doorbellAt (pa : Nat) : Option (Nat × Nat) :=
  let k := (pa - 0x380000000000) / 65536
  if (pa - 0x380000000000) % 65536 = 0 ∧ 1 ≤ k ∧ k ≤ 252 then some ((k - 1) / 63, (k - 1) % 63) else none

/-- A write of `t` to a doorbell hands the engine the descriptors up to t (R452); `core` wrote it (R455). -/
def State.ringDoorbell (s : State) (die ring t : Nat) (core : Option Nat) : State :=
  s.modDie die fun x => { x with rings := match Tab.get? x.rings ring with
    | some f => Tab.set x.rings ring { f with
        tail := t, handed := match core with | some c => f.handed ++ [(t, c)] | none => f.handed }
    | none => x.rings }

/-- The die that holds a sector. -/
def sectorDie (pa : Nat) : Option Nat :=
  match region pa with
  | .fast c | .scratch c _ => some (dieOfCore c)
  | .cap c => some (dieOfCore (96 * c))
  | _ => none

/-- The launch whose job a record about a sector goes to: the scratchpad's owner, or the job that holds the frame. -/
def State.sectorLaunch (s : State) (pa : Nat) : Option Launch :=
  match region pa with
  | .scratch c _ => (s.core c).scratchOwner.map s.launch
  | _ =>
    (s.frames.find? fun f => decide (f.1 ≤ pa) && decide (pa < f.1 + f.2.1)).bind fun f =>
      (s.jobs.find? fun j => j.2.asid == f.2.2 && j.2.status == 0).map fun j => { job := j.1, asid := f.2.2 }

/-- An uncorrectable error that a write reaches or that scrubbing finds is reported by a record of kind 6 (R399, R474). -/
def State.findError (s : State) (pa : Nat) : State :=
  match sectorDie pa with
  | none => s
  | some d =>
    let t := { s.countLost with found := pa / 32 :: s.found }
    match s.sectorLaunch pa with
    | some l => t.faultRecord { source := 13408 + 4 * d, kind := 6, taddr := word (pa / 32 * 32) } l
    | none => t

/-- A write reaches sectors of which some have failed and are not reported. -/
def State.writeFinds (s : State) (cs : List Host.Cell) : State :=
  cs.foldl (fun s c => if s.lost.contains (c.1 / 32) && !s.found.contains (c.1 / 32) then s.findError c.1 else s) s

/-- Writes bytes at a point of acceptance. -/
def State.writeAt (s : State) (core poa : Nat) (cs : List Host.Cell) : State :=
  match cs with
  | [] => s
  | c0 :: _ =>
    match region c0.1 with
    | .hostWindow _ => (runsOf cs).foldl (fun s r => s.postToHost r.1 r.2 none) s
    | .device o =>
      match doorbellAt c0.1 with
      | some (d, r) => s.ringDoorbell d r (numLe ((cs.take 4).map (·.2))) (some core)
      | none => s.writeDevice o (cs.map (·.2))
    | _ => cs.foldl (fun s c => (s.putByte c.1 c.2).homeUpdate poa c) (s.writeFinds cs)

/-- Key of an arrival count (R248). -/
def arrivalKey (poa core tag : Nat) : Nat := (poa * 1024 + core) * 8 + tag

/-- Counts an accepted write (R248) and acknowledges its stores. -/
def State.arrived (s : State) (m : Msg) : State :=
  match m.tag with
  | none => { s with acks := s.acks ++ m.ops }
  | some t => { s with
      arrivals := Tab.modify s.arrivals (arrivalKey m.poa m.core t) 0 fun n => (n + 1) % 2 ^ 32
      acks := s.acks ++ m.ops }

/-! ## Atomics (R278) -/

/-- Operand width in bytes of an atomic type. -/
def atypeBytes : AType → Nat
  | .i32 | .n32 => 4
  | .i64 | .n64 => 8
def atypeSigned : AType → Bool
  | .i32 | .i64 => true
  | _ => false

/-- The new value (R278): the operand's low bytes are `b`, the old value `o`, both below 2^(8w). -/
def amoNew (op : AmoOp) (t : AType) (o b : Nat) : Nat :=
  let w := 8 * atypeBytes t
  let less (x y : Nat) : Bool := if atypeSigned t then decide (signedOf w x < signedOf w y) else decide (x < y)
  match op with
  | .add => (o + b) % 2 ^ w
  | .min => if less b o then b else o
  | .max => if less o b then b else o
  | .and => o &&& b
  | .or => o ||| b
  | .xor => o ^^^ b
  | .swp => b
  | .inc => if less o b then (o + 1) % 2 ^ w else 0
  | .cas c => if o = c.toNat % 2 ^ w then b else o

/-- Cells of bytes from an address up. -/
def cellsAt : Nat → List Byte → List Host.Cell
  | _, [] => []
  | a, b :: r => (a, b) :: cellsAt (a + 1) r

/-- The bytes at an address, at their point of acceptance. -/
def State.bytesAt (s : State) (pa : Nat) : Nat → List Byte
  | 0 => []
  | n + 1 => s.byteAt pa :: s.bytesAt (pa + 1) n

/-- The core's own L1 sectors of these bytes become invalid. -/
def Core.forget (c : Core) (pa n : Nat) : Core :=
  c.dropSectors fun _ sec => decide (pa / 32 ≤ sec) && decide (sec ≤ (pa + n - 1) / 32)

/-- Performs an atomic at its point of acceptance (R261): the old value and the state after. -/
def State.doAtomic (s : State) (core poa pa : Nat) (op : AmoOp) (t : AType) (operand : Word) : Nat × State :=
  let w := atypeBytes t
  let old := numLe (s.bytesAt pa w)
  let b := operand.toNat % 2 ^ (8 * w)
  (old, match region pa with
    | .hostWindow _ => s.postToHost pa (bytesLe w b) (some op)
    | _ => (s.modCore core fun c => c.forget pa w).writeAt core poa (cellsAt pa (bytesLe w (amoNew op t old b))))

/-! ## Seal-class pages (R231) -/

def State.sealAt (s : State) (page : Nat) : SealInfo := Tab.getD s.seals page { size := 65536 }

/-- A reply on its way to a slot that waits for it (R152). -/
def State.answer (s : State) (g uid id : Nat) (v : Word) (poa : Option Nat := none) : State :=
  { s with replies := s.replies ++ [{ slot := g, uid := uid, id := id, bytes := bytesLe 8 v.toNat, poa := poa }] }

/-- A reply that is a fault at byte `i` of the piece. -/
def State.answerFault (s : State) (g uid id cause i tinfo : Nat) (poa : Option Nat := none) : State :=
  { s with replies := s.replies ++ [{ slot := g, uid := uid, id := id, bytes := [], failed := some (cause, i, tinfo), poa := poa }] }

/-- An append of bytes at the home (R231); `at_` is the physical address of A. A sector that it writes to and that holds an
uncorrectable error makes it a fault without effect (R399). DEDUCED (notes/assumptions/106.md). -/
def State.doAppend (s : State) (core poa page at_ : Nat) (bytes : List Byte) (g uid id : Nat) : State :=
  let x := s.sealAt page
  let n := bytes.length
  let o := ceilDiv x.tail n * n
  let cells := cellsAt (page + x.tail) (List.replicate (o - x.tail) 0 ++ bytes)
  if x.sealed then s.answerFault g uid id 0x08 0 0 (some poa)
  else if x.size < o + n then s.answer g uid id (wordOfInt (-1)) (some poa)
  else
    match cells.find? fun c => s.lost.contains (c.1 / 32) with
    | some c => s.answerFault g uid id 0x11 (c.1 + 2 ^ 64 - at_) 0 (some poa)
    | none =>
      let s := s.writeAt core poa cells
      { s with seals := Tab.set s.seals page { x with tail := o + n } }.answer g uid id (word o) (some poa)

/-- The byte at the tail of a page whose sector holds an uncorrectable error (R399). DEDUCED (notes/assumptions/106.md). -/
def State.lostTail (s : State) (page : Nat) : Option Nat :=
  let x := s.sealAt page
  if x.tail < x.size ∧ s.lost.contains ((page + x.tail) / 32) then some (page + x.tail) else none

/-- A seal at the home; `at_` is the physical address of A. -/
def State.doSeal (s : State) (poa page at_ g uid id : Nat) : State :=
  let x := s.sealAt page
  match s.lostTail page with
  | some a => s.answerFault g uid id 0x11 (a + 2 ^ 64 - at_) 0 (some poa)
  | none => { s with seals := Tab.set s.seals page { x with sealed := true } }.answer g uid id (word x.tail) (some poa)

/-- A tail read at the home. -/
def State.doTail (s : State) (poa page at_ g uid id : Nat) : State :=
  match s.lostTail page with
  | some a => s.answerFault g uid id 0x11 (a + 2 ^ 64 - at_) 0 (some poa)
  | none => s.answer g uid id (word (s.sealAt page).tail) (some poa)

/-! ## Frames for the shadow pool (R211, R232, R233) -/

/-- The lowest place of `n` bytes from `lo` to `hi` that meets none of the used ranges (address, bytes).
DESIGN CHOICE (notes/assumptions/33.md). -/
def firstFit (lo hi n : Nat) (used : List (Nat × Nat)) : Option Nat :=
  let ok (c : Nat) : Bool := decide (lo ≤ c) && decide (c + n ≤ hi) && used.all fun u => decide (u.1 + u.2 ≤ c) || decide (c + n ≤ u.1)
  ((lo :: used.map fun u => u.1 + u.2).filter ok).foldl (fun b c => match b with
    | none => some c
    | some x => some (Nat.min x c)) none

/-- The used ranges from `lo` to `hi`, as distances from `lo`. -/
def State.usedIn (s : State) (lo hi : Nat) : List (Nat × Nat) :=
  (s.frames.filter fun f => decide (lo ≤ f.1) && decide (f.1 < hi)).map fun f => (f.1 - lo, f.2.1)

/-- A free 64 KiB frame of a pseudo-channel of a die. DESIGN CHOICE (notes/assumptions/33.md). -/
def State.freeOnDie (s : State) (die : Nat) : Option Nat :=
  (List.range 192).findSome? fun i =>
    let lo := pcbase (die * 192 + i)
    (firstFit 0 Config.pseudoChannelBytes 65536 (s.usedIn lo (lo + Config.pseudoChannelBytes))).map (lo + ·)

/-- Seal generation that the home of a block holds. -/
def State.sealGenAt (s : State) (pa : Nat) : Nat :=
  match s.seals.find? fun e => decide (e.1 ≤ pa) && decide (pa < e.1 + e.2.size) with
  | some e => e.2.gen
  | none => 0

/-- The frame of a pool that is reclaimed (R233): one whose generation matches no more, else the one used least recently. -/
def State.reclaim (s : State) (pool : List Shadow) : Option Shadow :=
  match (pool.filter fun f => f.gen != s.sealGenAt f.pa).getLast? with
  | some f => some f
  | none => pool.getLast?

/-- A byte of a page at its home: at and above the tail of a seal-class page it reads as zero (R231). -/
def State.pageByte (s : State) (page : Option Nat) (pa : Nat) : Byte :=
  match page with
  | some p => if p + (s.sealAt p).tail ≤ pa then 0 else s.byteAt pa
  | none => s.byteAt pa

/-- The shadow frame of a block in a die's pool (R232). -/
def State.shadowOf (s : State) (die block gen : Nat) : Option Shadow :=
  (s.die die).shadows.find? fun f => f.pa == block && f.gen == gen

/-- Puts a copy of a block into a frame of the pool. -/
def State.putShadow (s : State) (die frame : Nat) (page : Option Nat) (block gen : Nat) : State :=
  let bytes := (List.range 65536).map fun i => s.pageByte page (block + i)
  { s.ridgeFrame frame bytes with frames := Tab.set s.frames frame (65536, 4096) }.modDie die fun d =>
    { d with shadows := { pa := block, gen := gen, frame := frame } :: d.shadows }

/-- A shadow frame is the one used last (R233). -/
def State.useShadow (s : State) (die block gen : Nat) : State :=
  match s.shadowOf die block gen with
  | some f => s.modDie die fun d => { d with shadows := f :: d.shadows.erase f }
  | none => s

/-- A fill of a block on a die has ended: its frame is then the one used last (R232, R233, R440); under pressure another frame is
reclaimed for it. DESIGN CHOICE (notes/assumptions/38.md). -/
def State.shadowFor (s : State) (die : Nat) (page : Option Nat) (block gen : Nat) : State :=
  if (s.shadowOf die block gen).isSome then s.useShadow die block gen
  else
    match s.freeOnDie die with
    | some frame => s.putShadow die frame page block gen
    | none =>
      match s.reclaim (s.die die).shadows with
      | some f => (s.modDie die fun d => { d with shadows := d.shadows.erase f }).putShadow die f.frame page block gen
      | none => s

/-- The fill that a read needs before a shadow frame can serve it: die, block and generation. None where the frame is there, where
the page has been freed since the read was translated, and where the die has no frame to give: its home then serves it (R232,
R234). -/
def State.fillFor (s : State) (r : ReadReq) : Option (Nat × Nat × Nat) :=
  match r.shadow with
  | none => none
  | some (die, gen) =>
    let block := r.pa / 65536 * 65536
    if (s.shadowOf die block gen).isSome || s.sealGenAt block != gen || ((s.freeOnDie die).isNone && (s.die die).shadows == []) then none
    else some (die, block, gen)

/-! ## Requests at their points of acceptance -/

/-- Value of the bytes read, extended by a size (R269). -/
def extend (z : Size) (n : Nat) : Word :=
  match z with
  | .i8 => wordOfInt (signedOf 8 n) | .i16 => wordOfInt (signedOf 16 n) | .i32 => wordOfInt (signedOf 32 n)
  | .n8 => word (n % 2 ^ 8) | .n16 => word (n % 2 ^ 16) | .n32 => word (n % 2 ^ 32) | .i64 => word n

def sizeBytes : Size → Nat
  | .i8 | .n8 => 1
  | .i16 | .n16 => 2
  | .i32 | .n32 => 4
  | .i64 => 8

/-- Where a byte of a read stands: in a shadow frame, or at its home. -/
def State.sourceOf (s : State) (r : ReadReq) (pa : Nat) : Nat :=
  match r.shadow with
  | none => pa
  | some (die, gen) =>
    match s.shadowOf die (pa / 65536 * 65536) gen with
    | some f => f.frame + pa % 65536
    | none => pa

/-- The byte that a read finds. -/
def State.readByte (s : State) (r : ReadReq) (pa : Nat) : Byte :=
  if s.sourceOf r pa = pa then s.pageByte r.page pa else s.byteAt (s.sourceOf r pa)

/-- The byte lies in a sector that holds an uncorrectable error (R399). -/
def State.lostAt (s : State) (r : ReadReq) (pa : Nat) : Bool := s.lost.contains (s.sourceOf r pa / 32)

/-- A request of the core for an atomic on one of `n` bytes has not been performed: no fill may install them (R261). -/
def State.atomicUnder (s : State) (core pa n : Nat) : Bool :=
  let reaches (b : Body) : Bool := match b with | .atomic _ _ _ _ _ => (List.range n).any fun i => b.covers (pa + i) | _ => false
  (s.net.any fun m => m.core == core && reaches m.body) ||
  (s.core core).wb.any fun e => match e.direct with | some b => reaches b | none => false

/-- A line of L1 that a fill replaces, where L1 is full: any that the fill does not itself cover. Which one is a free value.
DESIGN CHOICE (notes/assumptions/11.md). -/
def Core.victimLine (c : Core) (keep : List Nat) (pick : Nat) : Core :=
  if c.l1.length < Config.l1Lines then c
  else
    let ks := c.l1.keys.filter fun k => !keep.contains k
    { c with l1 := Tab.del c.l1 (ks.getD (pick % ks.length) 0) }

/-- Installs a sector in L1, which holds it from cycle `since` on (R218). A line that has come to another home keeps none of its
sectors (R246). -/
def Core.putSector (c : Core) (keep : List Nat) (pick sec : Nat) (own : Bool) (since : Nat) (bytes : List Byte) : Core :=
  let c := if (Tab.get? c.l1 (sec / 4)).isSome then c else c.victimLine keep pick
  { c with l1 := Tab.modify c.l1 (sec / 4) { ownHome := own } fun l =>
      let l : Line := if l.ownHome = own then l else { ownHome := own }
      { l with sectors := putAt l.sectors (sec % 4) (some bytes), since := putAt l.since (sec % 4) since, bad := l.bad.erase (sec % 4) } }

/-- The sectors that a read fills, and those valid in the core's L1 that it reads: they then hold what it returns (R244 rule 2). -/
def State.sectorsOf (s : State) (core : Nat) (r : ReadReq) : List Nat :=
  if r.n = 0 ∨ r.sectors.contains (r.pa / 32) ∨ ((s.core core).sector (r.pa / 32)).isNone then r.sectors else r.sectors ++ [r.pa / 32]

/-- Installs the sectors of a fill in the core's L1, over older data (R218, R244): the bytes of their home, and over them the
core's own newer ones. Those of another die come after 8 ns (R456). A sector that holds an uncorrectable error stays as it
is. -/
def State.fill (s : State) (core poa : Nat) (r : ReadReq) : State :=
  let here := s.sourceOf r r.pa != r.pa || dieOfPoa poa == some (dieOfCore core)
  let sectors := s.sectorsOf core r
  sectors.foldl (fun s sec =>
    let pas := (List.range 32).map (sec * 32 + ·)
    if s.lostAt r (sec * 32) || s.atomicUnder core (sec * 32) 32 then s
    else
      let bytes := pas.map fun a => ((s.core core).buffered a).getD ((s.inFlight core a).getD (s.readByte r a))
      s.modCore core fun c => c.putSector (sectors.map (· / 4)) (Config.schedule (s.tick + sec)) sec (poa == core)
        (if here then 0 else s.cycle + Config.crossing) bytes) s

/-- The ring that refuses a write to a byte of a scratchpad (R314). -/
def Ring.occupies (r : Ring) (off : Nat) : Bool :=
  decide (r.base ≤ off) && decide (off < r.base + r.size * r.count) &&
  decide (((off - r.base) / r.size + r.count - r.head % r.count) % r.count < diff16 r.tail r.head)

def State.ringRefuses (s : State) (pa : Nat) : Option Nat :=
  match region pa with
  | .scratch c o => ((s.core c).rings.find? fun e => e.2.occupies o).map (·.1)
  | _ => none

/-- The lowest byte that a ring refuses among `n` from `pa` on, as its distance, and the ring. -/
def State.refusedIn (s : State) (pa n : Nat) : Option (Nat × Nat) :=
  (List.range n).findSome? fun i => (s.ringRefuses (pa + i)).map fun r => (i, r)

/-- The lowest byte among cells that a ring refuses, and the ring. -/
def State.refusedAmong (s : State) (cs : List Host.Cell) : Option (Nat × Nat) :=
  cs.findSome? fun c => (s.ringRefuses c.1).map fun r => (c.1, r)

/-- The lower of two refusals. -/
def lowerLate (x : Option (Word × Nat)) (a : Word) (ring : Nat) : Option (Word × Nat) :=
  match x with
  | some (b, r) => if a.toNat < b.toNat then some (a, ring) else some (b, r)
  | none => some (a, ring)

/-- A port has refused byte `pa` of a store (R314): its slot takes the fault at its next turn, and a tile command's store is a copy
error. DESIGN CHOICE (notes/assumptions/91.md). -/
def State.refuseStore (s : State) (pa ring : Nat) (o : OpRef) : State :=
  if (s.slot o.slot).uid != o.uid then s
  else
    match (s.slot o.slot).stores.find? (·.id == o.id) with
    | none => s
    | some x =>
      let a := (x.pieces.findSome? fun (a, p, n) => if p ≤ pa ∧ pa < p + n then some (a + word (pa - p)) else none).getD 0
      s.modSlot o.slot fun sl => match x.tile with
        | some (seq, order) => { sl with pend := sl.pend ++ [{ cause := 0x10, addr := a, seq := seq, order := order, batch := none }] }
        | none => { sl with late := lowerLate sl.late a ring }

/-- The write of a slot to a queue push register waits there while the queue is full (R213). -/
def State.pushRequest (s : State) (m : Msg) (cs : List Host.Cell) : Option State :=
  match cs with
  | [] => none
  | c :: _ =>
    match region c.1 with
    | .pushReg core o =>
      let bs := cs.map (·.2)
      some { s with pushWrites := s.pushWrites ++ [{ core := core, q := o / 16, data := word (fieldLe bs 0 8)
                                                     tag := fieldLe bs 8 1 % 4, copy := 0, from_ := some m }] }
    | _ => none

/-- A write is accepted. -/
def State.acceptWrite (s : State) (m : Msg) (cs : List Host.Cell) : State :=
  match s.pushRequest m cs with
  | some t => t
  | none => ((s.writeAt m.core m.poa cs).touchL2 m.poa (cs.headD (0, 0)).1).arrived m

/-- A write is refused at a scratchpad port: nothing is written. -/
def State.refuse (s : State) (m : Msg) (pa ring : Nat) : State := (m.ops.foldl (fun s o => s.refuseStore pa ring o) s).arrived m

/-- A returning atomic at a host goes out as an AtomicOp, whose completion brings the old value (R230). -/
def State.hostAmo (s : State) (m : Msg) (op : AmoOp) (t : AType) (pa : Nat) (v : Word) (g uid id : Nat) : State :=
  let w := atypeBytes t
  let t := s.postToHost pa (bytesLe w v.toNat) (some op)
  { t with hostReads := t.hostReads ++ [{ who := some (g, uid), pas := (List.range w).map (pa + ·), id := id
                                          spans := m.span.toList, core := m.core, born := id
                                          bus := (List.range w).map fun i => s.busAddress (pa + i) }] }

/-- Performs a request at its point of acceptance. What an asynchronous load reads of a sector that has failed since its
issue is left open: the reply of a read that found such a sector is a fault, and an asynchronous load takes a free value for
it. DESIGN CHOICE (notes/assumptions/10.md). -/
def State.perform (s : State) (m : Msg) : State :=
  match m.body with
  | .write cs =>
    match if m.tested then none else s.refusedAmong cs with
    | some (pa, ring) => s.refuse m pa ring
    | none => s.acceptWrite m cs
  | .atomic op t pa v ret =>
    match ret with
    | none =>
      match if m.tested then none else s.refusedIn pa (atypeBytes t) with
      | some (i, ring) => s.refuse m (pa + i) ring
      | none => ((s.doAtomic m.core m.poa pa op t v).2.touchL2 m.poa pa).arrived m
    | some (g, uid, id) =>
      let w := atypeBytes t
      if (match region pa with | .hostWindow _ => true | _ => false) then s.hostAmo m op t pa v g uid id
      else if s.lost.contains (pa / 32) then s.answerFault g uid id 0x11 0 0 (some m.poa)
      else
        match s.refusedIn pa w with
        | some (i, r) => s.answerFault g uid id 0x0B i r (some m.poa)
        | none =>
          let (old, t) := s.doAtomic m.core m.poa pa op t v
          (t.touchL2 m.poa pa).answer g uid id (word old) (some m.poa)
  | .read r =>
    let s := match r.shadow with | some (die, gen) => s.useShadow die (r.pa / 65536 * 65536) gen | none => s.touchL2 m.poa r.pa
    let s := s.fill m.core m.poa r
    if r.n = 0 then s
    else
      let bytes := (List.range r.n).map fun i => if s.lostAt r (r.pa + i) then BitVec.ofNat 8 (s.free (r.pa + i)).toNat else s.readByte r (r.pa + i)
      let bad := (List.range r.n).find? fun i => s.lostAt r (r.pa + i)
      { s with replies := s.replies ++ [{ slot := r.slot, uid := r.uid, id := r.id, off := r.off, bytes := bytes
                                          poa := if s.sourceOf r r.pa = r.pa then some m.poa else none
                                          failed := bad.map fun i => (0x11, i, 0) }] }
  | .test r =>
    { s with replies := s.replies ++ [{ slot := r.slot, uid := r.uid, id := r.id, off := r.off, bytes := []
                                        poa := some m.poa
                                        failed := (s.refusedIn r.pa r.n).map fun (i, k) => (0x0B, i, k) }] }
  | .append page at_ bytes g uid id => s.doAppend m.core m.poa page at_ bytes g uid id
  | .sealReq page at_ g uid id => s.doSeal m.poa page at_ g uid id
  | .tailReq page at_ g uid id => s.doTail m.poa page at_ g uid id

/-- The rank of what the engines of a core write: behind every slot (R243). -/
def engineRank (core : Nat) : Nat := Config.endOfSlots + core

/-- The rank of what an engine writes, by its source number (R402). -/
def Accessor.rank (x : Accessor) : Nat := x.source.getD (engineRank x.core)

/-- The bytes that a read or a returning atomic takes from its point of acceptance. -/
def Body.takes : Body → List Nat
  | .read r => (List.range r.n).map (r.pa + ·)
  | .atomic _ t pa _ (some _) => (List.range (atypeBytes t)).map (pa + ·)
  | _ => []

/-- A request that may leave its core: nothing holds it (R250, R252), and no held entry of the write buffer has bytes that it takes
(R261, R274). -/
def State.gateOpen (s : State) (m : Msg) : Bool :=
  m.gate == [] && !((s.core m.core).wb.any fun e => e.closed && m.body.takes.any e.covers)

/-- A request that an issuing slot sends to its core's own port arrives there before any of the next cycle (R242, R243).
DEDUCED (notes/assumptions/107.md). -/
def State.noteIssued (s : State) (poa rank : Nat) : State := { s with accepted := Tab.set s.accepted poa (s.cycle + 1, rank) }

/-- A write of a tile command, which its tile unit sends (R364). -/
def State.fromTile (s : State) (m : Msg) : Bool :=
  m.ops.any fun o => (s.slot o.slot).uid == o.uid && (s.slot o.slot).stores.any fun x => x.id == o.id && x.tile.isSome

/-- Performs the earlier requests of the core's slots to a point of acceptance, in the order in which they were sent (R217). The
writes of tile commands come from the tile unit, in their own time (R364, R431). -/
def State.flush (s : State) (core poa : Nat) : State :=
  let mine (m : Msg) : Bool := m.core == core && m.poa == poa && s.gateOpen m && !s.fromTile m
  let go := s.net.filter mine
  if go = [] then s
  else (go.foldl State.perform { s with net := s.net.filter fun m => !mine m }).noteIssued poa (go.foldl (fun r m => Nat.max r m.rank) 0)

/-- Sends a write from a core (R248): it takes the tag of the current round. -/
def State.sendWrite (s : State) (core poa : Nat) (b : Body) (ops : List OpRef) (rank : Nat) (span : Option Span := none)
    (tested : Bool := false) : State :=
  let tag := (s.core core).round % 8
  let s := s.modCore core fun c => { c with
    sent := Tab.modify c.sent tag 0 fun n => (n + 1) % 2 ^ 32
    outside := c.outside || outsideCluster core poa }
  { s with net := s.net ++ [{ core := core, poa := poa, tag := some tag, body := b, ops := ops, rank := rank, span := span, tested := tested }] }

/-- The points of acceptance of the bytes of an entry, each once. -/
def poasOf (cs : List WbCell) : List Nat := cs.foldl (fun l c => if l.contains c.poa then l else l ++ [c.poa]) []

/-- Entry `i` of the core's write buffer leaves (R219): one byte-masked write to each home. Older entries lose the bytes
that it overwrites. Reads that wait behind it go on after its writes (R274). -/
def State.sendEntry (s : State) (core i : Nat) : State :=
  match (s.core core).wb[i]? with
  | none => s
  | some e =>
    let older (x : WbEntry) : WbEntry :=
      { x with cells := x.cells.filter fun c => !(e.cells.any fun d => d.pa == c.pa) }
    let s := s.modCore core fun c => { c with wb := (c.wb.take i).map older ++ c.wb.drop (i + 1) }
    let behind (m : Msg) : Bool := e.closed && m.core == core && m.body.takes.any e.covers
    let waiting := s.net.filter behind
    let s := { s with net := s.net.filter fun m => !behind m }
    let s := match e.direct with
      | some b => s.sendWrite core e.key.2 b e.ops e.opener e.span
      | none => writes e s
    { s with net := s.net ++ waiting }
where
  /-- The writes of an entry of bytes. Stores whose bytes have all been overwritten are accepted with them. L1 follows a direct
  write as it leaves (R244). -/
  writes (e : WbEntry) (s : State) : State :=
      let ps := poasOf e.cells
      let lone := e.ops.filter fun o => !ps.contains o.poa
      let s := { s with acks := s.acks ++ lone }
      let s := if e.paged then s else s.modCore core fun c => e.cells.foldl (fun c x => c.updateL1 x.pa x.byte) c
      ps.foldl (fun s p => s.sendWrite core p
        (.write ((e.cells.filter fun c => c.poa == p).map fun c => (c.pa, c.byte)))
        (e.ops.filter fun o => o.poa == p) e.opener e.span) s

/-- Sends the first entry of the buffer that meets a condition, `fuel` times at most. -/
def State.sendWhere (core : Nat) (p : WbEntry → Bool) : Nat → State → State
  | 0, s => s
  | n + 1, s =>
    match (s.core core).wb.findIdx? p with
    | none => s
    | some i => State.sendWhere core p n (s.sendEntry core i)

/-- Sends every entry that is not held and meets a condition. -/
def State.sendEntries (s : State) (core : Nat) (p : WbEntry → Bool) : State :=
  State.sendWhere core (fun e => e.hold == [] && p e) (s.core core).wb.length s

/-! ## Checks (R33 to R39, R271) -/

/-- What an access does, as far as its checks are concerned. -/
inductive Op where
  | load | store
  | atomic (hostOk : Bool)
  | append | sealOp | tailOp
  deriving DecidableEq, Repr

/-- A part of an access within one aligned block of 64 bytes. -/
structure Chunk where
  a : Word
  n : Nat
  loc : Loc
  deriving DecidableEq, Repr

/-- Splits an access at multiples of 64, which no page, granule, aperture or piece crosses. -/
def chunksOf : Nat → Word → Nat → List (Word × Nat)
  | 0, _, _ => []
  | fuel + 1, a, n =>
    if n = 0 then []
    else
      let k := Nat.min n (64 - a.toNat % 64)
      (a, k) :: chunksOf fuel (a + word k) (n - k)

/-- The first byte of a part that lies beyond a declaration (R39): its detail and its address. -/
def boundAt (x : Accessor) (a : Word) (n : Nat) : Option (Nat × Word) :=
  let test (t o lim : Nat) : Option (Nat × Word) := if lim < o + n then some (t, a + word (lim - o)) else none
  match aperture x.core a with
  | .stack o => test 5 o x.stackSize
  | .scratch _ o => test 4 o x.scratchBound
  | _ => none

/-- A class that does not take the operation (R229, R280 to R282). -/
def classRefuses (s : State) (op : Op) (l : Loc) : Bool :=
  match op with
  | .load | .store => false
  | .atomic hostOk =>
    (match l.cls with | some .device => true | _ => false) ||
    (match region l.pa with | .hostWindow p => !hostOk || !(s.port p).atomicsEnabled | _ => false)
  | .append | .sealOp | .tailOp => match l.cls with | some .seal => l.readFault == 4 | _ => true

/-- Lengths of the pieces of `left` bytes at `a`, none longer than `cap` (R33). -/
def pieceLens : Nat → Nat → Nat → Nat → List Nat
  | 0, _, _, _ => []
  | fuel + 1, a, left, cap =>
    let p := ([64, 32, 16, 8, 4, 2].find? fun p => decide (p ≤ left) && decide (a % p = 0) && decide (p ≤ cap)).getD 1
    if left = 0 then [] else p :: pieceLens fuel (a + p) (left - p) cap

/-- A located place `i` bytes further on, within the same block. -/
def Loc.after (l : Loc) (i : Nat) : Loc := { l with pa := l.pa + i, va := l.va + i }

/-- The pieces of a part of an access (R33): each with the part's own rights and point of acceptance. -/
def Chunk.pieces (c : Chunk) : List Chunk :=
  ((pieceLens c.n c.a.toNat c.n c.loc.cap).foldl (fun (r : Nat × List Chunk) k =>
    (r.1 + k, r.2 ++ [{ a := c.a + word r.1, n := k, loc := c.loc.after r.1 }])) (0, [])).2

/-- The pieces of an access. -/
def piecesOf (cs : List Chunk) : List Chunk := cs.flatMap Chunk.pieces

/-- A write that the queue store and its push registers do not take from a slot: all but an aligned piece of 16 bytes to a
push register (R213); and an atomic to an accumulator bank, a residue file, a device register or a push register (R280). -/
def regionRefuses (op : Op) (c : Chunk) : Option Word :=
  match op, region c.loc.pa with
  | .store, .queueStore _ _ => some c.a
  | .store, .pushReg _ _ => (c.pieces.find? fun p => p.n != 16 || p.loc.pa % 16 != 0).map (·.a)
  | .atomic _, .bank _ _ | .atomic _, .residue _ _ | .atomic _, .device _ | .atomic _, .pushReg _ _ => some c.a
  | _, _ => none

/-- What the leaf or the grant of a located byte says to an operation: 0 where it allows it (R226, R272). An atomic reads
and writes; where both rights lack, the missing read counts. DEDUCED (notes/assumptions/94.md). -/
def permission (op : Op) (l : Loc) : Nat :=
  match op with
  | .load | .tailOp => l.readFault
  | .atomic _ => if l.readFault ≠ 0 then l.readFault else l.writeFault
  | _ => l.writeFault

/-- The protection fault of a part of an access: the lowest byte refused and tinfo (R213, R226, R280). The class of a page
comes before its rights; the on-chip window has no page class, and its grant comes first. DEDUCED
(notes/assumptions/94.md). -/
def protectionOf (s : State) (op : Op) (c : Chunk) : Option (Word × Nat) :=
  if classRefuses s op c.loc then some (c.a, 4)
  else
    match c.loc.cls with
    | none =>
      if permission op c.loc ≠ 0 then some (c.a, permission op c.loc) else (regionRefuses op c).map fun a => (a, 4)
    | some _ =>
      match regionRefuses op c with
      | some a => some (a, 4)
      | none => if permission op c.loc ≠ 0 then some (c.a, permission op c.loc) else none

/-- A part that reaches device registers, through a page or through the on-chip window (R229). -/
def Chunk.isDevice (c : Chunk) : Bool :=
  c.loc.cls == some .device || (match region c.loc.pa with | .device _ => true | _ => false)

/-- Pages that an access misses, each once: the lowest address of its part there. -/
def missedPages : List Word → List Nat
  | [] => []
  | a :: r => a.toNat :: (missedPages r).filter fun b => b / 65536 != a.toNat / 65536

/-- The checks of an access of `n` bytes at `a`, in the order of R271; `align` is 0 where none is required. -/
def State.check (s : State) (x : Accessor) (a : Word) (n align : Nat) (op : Op) :
    Except Stop (List Chunk × List TlbEntry) :=
  let parts := chunksOf (n / 64 + 2) a n
  let found := parts.map fun p => (p.1, p.2, s.locate x p.1)
  let ok := found.filterMap fun (a, n, l) => match l with | .at_ l f => some (Chunk.mk a n l, f) | _ => none
  match found.find? fun (_, _, l) => match l with
      | .unmapped => true
      | .at_ l _ => region l.pa == .none
      | _ => false with
  | some (b, _, _) => .error (trapAt 0x13 b 0)
  | none =>
    match parts.findSome? fun p => boundAt x p.1 p.2 with
    | some (t, b) => .error (trapAt 0x04 b t)
    | none =>
      if align ≠ 0 ∧ a.toNat % align ≠ 0 then .error (trapAt 0x05 a 0)
      else
        match ok.find? fun (c, _) => c.isDevice && !((n == 4 || n == 8) && a.toNat % n == 0) with
        | some (c, _) => .error (trapAt 0x05 c.a 0)
        | none =>
          match missedPages (found.filterMap fun (a, _, l) => match l with | .pageFault => some a | _ => none) with
          | p :: ps => .error (.drop (p :: ps) false (op != .load && op != .tailOp))
          | [] =>
            match ok.findSome? fun (c, _) => protectionOf s op c with
            | some (b, t) => .error (trapAt 0x06 b t)
            | none =>
              match ok.find? fun (c, _) => c.loc.cls == some .seal && (match op with | .store | .atomic _ => true | _ => false) with
              | some (c, _) => .error (trapAt 0x07 c.a 0)
              | none => .ok (ok.map (·.1), ok.filterMap (·.2))

/-- Installs the translations that an access used. -/
def State.installAll (s : State) (core : Nat) (es : List TlbEntry) : State := es.foldl (fun s e => s.install core e) s

/-- The store enters the write buffer: a normal or host page through the global or stack aperture (R219, R242). -/
def Loc.buffered (l : Loc) : Bool := match l.cls with | some .normal | some .host => true | _ => false

/-! ## Reading (R33, R218, R219, R242, R244) -/

/-- The sectors of the grain block of a located byte, with their homes (R218). -/
structure SectorRef where
  pa : Nat
  poa : Nat
  deriving DecidableEq, Repr

def State.blockOf (s : State) (l : Loc) : List SectorRef :=
  let base := l.va / l.grain * l.grain
  (List.range (l.grain / 32)).map fun i =>
    let va := base + 32 * i
    { pa := s.physical l.asid va l.pageSize l.leaf, poa := s.homeOf l.asid va l.pageSize l.leaf }

/-- First byte of the seal-class page of a located byte (R231). -/
def State.sealPage (s : State) (l : Loc) : Option Nat :=
  match l.cls with
  | some .seal => some (s.physical l.asid (l.va / l.pageSize * l.pageSize) l.pageSize l.leaf)
  | _ => none

/-- A sealed page, as its translation records it, is read from a shadow frame on every die but its home's (R232). -/
def Loc.shadow (l : Loc) (core : Nat) : Option (Nat × Nat) :=
  if l.sealed && decide (l.poa < Config.cores) && dieOfCore core != dieOfCore l.poa then some (dieOfCore core, l.sealGen) else none

/-- The sectors that a fill for a located byte takes from home `poa`: those that are not valid. -/
def State.fillSectors (s : State) (core : Nat) (l : Loc) (poa : Nat) : List Nat :=
  ((s.blockOf l).filter fun x => x.poa == poa && (s.sectorNow core (x.pa / 32)).isNone).map (·.pa / 32)

/-- The other homes of the block of a located byte (R218). -/
def State.otherHomes (s : State) (l : Loc) : List Nat :=
  (((s.blockOf l).map (·.poa)).filter (· != l.poa)).foldl (fun ps p => if ps.contains p then ps else ps ++ [p]) []

/-- How an access reads: a plain load looks in the write buffer and in L1 (R242); `home` reads at the points of acceptance
only (R254). -/
inductive ReadMode where
  | cached | home
  deriving DecidableEq, Repr

/-- An entry with a write other than plain bytes covers a byte of a piece. -/
def Core.directOver (c : Core) (p : Chunk) : Bool := c.wb.any fun e => !e.paged && (List.range p.n).any fun i => e.covers (p.loc.pa + i)

/-- The bytes of a piece that the core itself holds: all in its write buffer, or in a valid sector of its L1. -/
def State.pieceInCore (s : State) (core : Nat) (p : Chunk) : Option (List Byte) :=
  let c := s.core core
  let own := (List.range p.n).map fun i => if p.loc.buffered then c.buffered (p.loc.pa + i) else none
  if c.directOver p then none
  else if own.all (·.isSome) then some (own.map (·.getD 0))
  else if p.loc.cached then (s.sectorNow core (p.loc.pa / 32)).map fun bs => (bs.drop (p.loc.pa % 32)).take p.n
  else none

/-- The sector address of a piece that would be read from a sector of L1 that holds an uncorrectable error (R399, R472). -/
def State.l1Lost (s : State) (core : Nat) (p : Chunk) : Option Word :=
  let bad := match Tab.get? (s.core core).l1 (p.loc.pa / 128) with | some l => l.bad.contains (p.loc.pa / 32 % 4) | none => false
  if bad && p.loc.cached && (s.sectorNow core (p.loc.pa / 32)).isSome && !((List.range p.n).all fun i => ((s.core core).buffered (p.loc.pa + i)).isSome)
  then some (word (p.a.toNat / 32 * 32)) else none

/-- A held entry of the core's buffer covers bytes of a piece that its home has to give (R219). -/
def State.heldOver (s : State) (core : Nat) (p : Chunk) : Bool :=
  (s.core core).wb.any fun e => e.hold != [] && (List.range p.n).any fun i => e.covers (p.loc.pa + i)

/-- Sends the entries of the core's buffer that hold one of these bytes, where none is held (R219, R261). -/
def State.sendBytes (s : State) (core : Nat) (pas : List Nat) : State :=
  s.sendEntries core fun e => pas.any e.covers

/-- What a piece was translated from. -/
def Chunk.span (p : Chunk) : Option Span := p.loc.cls.map fun _ => { asid := p.loc.asid, va := p.loc.va, n := p.n }

/-- Addresses of the bytes of a piece. -/
def Chunk.pas (p : Chunk) : List Nat := (List.range p.n).map (p.loc.pa + ·)

/-- Addresses of the bytes of sectors. -/
def sectorPas (sectors : List Nat) : List Nat := sectors.flatMap fun k => (List.range 32).map (32 * k + ·)

/-- The sectors that a fill for a located byte takes from all its homes. -/
def State.allSectors (s : State) (core : Nat) (l : Loc) : List Nat :=
  (l.poa :: s.otherHomes l).flatMap (s.fillSectors core l)

/-- Sends the entries that hold bytes of what a read of a piece, and its fill, take from the homes (R219). -/
def State.sendFor (s : State) (core : Nat) (p : Chunk) (fill : Bool) : State :=
  s.sendBytes core (p.pas ++ if fill && p.loc.cached then sectorPas (s.allSectors core p.loc) else [])

/-- The read of a piece at its home. -/
def State.readReq (s : State) (g id off : Nat) (p : Chunk) (fill : Bool) : ReadReq :=
  let core := coreOf g
  { slot := g, uid := (s.slot g).uid, id := id, off := off, pa := p.loc.pa, n := p.n
    sectors := if fill && p.loc.cached then s.fillSectors core p.loc p.loc.poa else []
    page := s.sealPage p.loc, shadow := p.loc.shadow core }

/-- Sends the read of a piece, and the fills of the rest of its block from their own homes. -/
def State.sendRead (s : State) (g id off : Nat) (p : Chunk) (fill : Bool) (gate : List Hold) : State :=
  let core := coreOf g
  let s := s.sendFor core p fill
  let m (poa : Nat) (r : ReadReq) : Msg := { core := core, poa := poa, tag := none, span := p.span, gate := gate, rank := g, body := .read r }
  let r := s.readReq g id off p fill
  let rest := if fill && p.loc.cached then (s.otherHomes p.loc).map fun h =>
      m h { r with n := 0, sectors := s.fillSectors core p.loc h, shadow := none } else []
  { s with net := s.net ++ m p.loc.poa r :: rest }

/-- A list in an order that free values pick: pieces have no order among themselves (R33). -/
def shuffle {α : Type} (k : Nat) : Nat → List α → List α
  | 0, l => l
  | n + 1, l =>
    match l[Config.schedule (k + n) % l.length]? with
    | some x => x :: shuffle k n (l.eraseIdx (Config.schedule (k + n) % l.length))
    | none => l

/-- A part that only a host can answer. -/
def Chunk.isHost (c : Chunk) : Bool := match region c.loc.pa with | .hostWindow _ => true | _ => false

/-- The lowest address of the sector of the first byte of a piece that an uncorrectable error has taken (R399). -/
def State.lostByte (s : State) (p : Chunk) : Option Word :=
  (p.pas.find? fun a => s.lost.contains (a / 32)).map fun a => word ((p.a + word (a - p.loc.pa)).toNat / 32 * 32)

/-- The bytes at the core's own port as its slots read them in their turns: held writes of the core count (R244). -/
def State.ownPortBytes (s : State) (core pa n : Nat) : List Byte :=
  (List.range n).map fun i => ((s.core core).wb.reverse.findSome? fun e => wbByte (pa + i) e.cells).getD (s.byteAt (pa + i))

/-- A piece reads at once from the issuing core's own port (R242), where it is the whole access. -/
def State.ownPort (s : State) (core : Nat) (p : Chunk) : Option (List Byte × State) :=
  if p.loc.poa = poaCore core && !(s.core core).directOver p then
    let s := s.flush core p.loc.poa
    some ((List.range p.n).map fun i => s.byteAt (p.loc.pa + i), s)
  else none

/-- The bytes of an access that is complete at issue: every piece in the core, or one piece at the core's own port; none where
requests have to be sent. DESIGN CHOICE (notes/assumptions/8.md). -/
def State.readAtOnce (s : State) (core : Nat) (mode : ReadMode) (ps : List Chunk) : Except Stop (Option (List Byte × State)) :=
  match if mode = .cached then ps.findSome? (s.l1Lost core) else none with
  | some a => .error (trapAt 0x11 a 0)
  | none =>
  if ps.any Chunk.isHost then
    if mode = .cached && ps.all fun p => (s.pieceInCore core p).isSome then
      .ok (some (ps.flatMap fun p => (s.pieceInCore core p).getD [], s))
    else .ok none
  else
    match mode with
    | .home => .ok none
    | .cached =>
      if ps.all fun p => (s.pieceInCore core p).isSome then .ok (some (ps.flatMap fun p => (s.pieceInCore core p).getD [], s))
      else
        match ps with
        | [p] =>
          match if p.loc.poa = poaCore core then s.lostByte p else none with
          | some a => .error (trapAt 0x11 a 0)
          | none => .ok (s.ownPort core p)
        | _ => .ok none

/-- The pieces with their offsets in the access. -/
def withOffsets : Nat → List Chunk → List (Nat × Chunk)
  | _, [] => []
  | o, p :: r => (o, p) :: withOffsets (o + p.n) r

/-- The parts of an access that waits for its bytes; those that the core holds are there. -/
def State.partsFor (s : State) (core : Nat) (mode : ReadMode) (ps : List (Nat × Chunk)) : List Part :=
  ps.map fun (o, p) => { off := o, a := p.a, pa := p.loc.pa, n := p.n
                         bytes := if mode = .cached then s.pieceInCore core p else none }

/-- The held entries of the core's buffer with bytes that a read needs from their home take no later store (R274). -/
def State.closeFor (s : State) (core : Nat) (p : Chunk) : State :=
  s.modCore core fun c => { c with
    wb := c.wb.map fun e => if e.hold != [] && p.pas.any (e.covers ·) then { e with closed := true } else e }

/-- Sends the reads of the parts that are missing: to the hosts one read for the access (R449), to every other point of
acceptance one for each piece, in an order that is free (R33). -/
def State.sendReads (s : State) (g id : Nat) (mode : ReadMode) (gate : List Hold) (ps : List (Nat × Chunk)) (parts : List Part) : State :=
  let core := coreOf g
  let open_ := ps.filter fun (o, _) => parts.any fun q => q.off == o && q.bytes.isNone
  let s := open_.foldl (fun s x => s.closeFor core x.2) s
  let hosts := open_.filter fun x => x.2.isHost
  let others := open_.filter fun x => !x.2.isHost
  let s := if hosts = [] then s
    else
      let pas := hosts.flatMap fun x => x.2.pas
      let s := s.sendBytes core pas
      let s := (s.flush core (poaHost 0)).flush core (poaHost 1)
      { s with hostReads := s.hostReads ++ [{ who := some (g, (s.slot g).uid), pas := pas, id := id, spans := hosts.filterMap (·.2.span)
                                              core := core, born := id, gate := gate, bus := pas.map s.busAddress }] }
  (shuffle s.tick others.length others).foldl (fun s x => s.sendRead g id x.1 x.2 (mode != .home) gate) s

/-- The pending fence that holds back the loads of a slot (R252). -/
def State.fenceGate (s : State) (g : Nat) : List Hold := ((s.slot g).fenced.getLast?.map fun r => Hold.release g r).toList

/-- Reads pieces for slot `g` without parking it (R191, R274): what the core holds is captured, the rest is read at its points of
acceptance; behind a pending fence nothing is captured, and the reads leave when its release has completed (R252). The parts,
and the state after. -/
def State.readLater (s : State) (g id : Nat) (ps : List Chunk) : List Part × State :=
  let gate := s.fenceGate g
  let ps := withOffsets 0 ps
  let parts := s.partsFor (coreOf g) (if gate = [] then .cached else .home) ps
  let own := parts.filterMap fun p => p.bytes.map fun bs =>
    ({ slot := g, uid := (s.slot g).uid, id := id, off := p.off, bytes := bs } : Reply)
  (parts.map fun p => { p with bytes := none }, { s with replies := s.replies ++ own }.sendReads g id .cached gate ps parts)

/-- A load of the issuing slot, whose checks have passed (R271): `k` takes its bytes where they are there at once; else the
slot waits for them, and `fin` says what it does then. Behind a pending fence its reads leave when the release has completed
(R252), and behind a held write of the core to their bytes when that has left (R274). `s` is the state before the pops of `reads`;
`write` names the destination. -/
def State.loadThen (s' s : State) (reads : List Nat) (write : Option Nat) (cs : List Chunk) (es : List TlbEntry) (mode : ReadMode)
    (fin : Finish) (k : List Byte → State → Run) : Run := do
  let core := s.myCore
  let s' := s'.installAll core es
  let ps := piecesOf cs
  let gate := s.fenceGate s.cur
  match ← if gate = [] then s'.readAtOnce core mode ps else .ok none with
  | some (bs, t) => k bs t
  | none =>
    let (id, s') := s'.fresh
    let ps := withOffsets 0 ps
    let parts := s'.partsFor core (if gate = [] then mode else .home) ps
    .error ((s'.sendReads s.cur id mode gate ps parts).await s reads write { id := id, len := 0, finish := fin, parts := parts })

/-! ## Stores (R16, R219, R242, R260, R314) -/

/-- What holds back a new write of slot `g` (R249, R250, R255). -/
def State.holdsFor (s : State) (g : Nat) : List Hold :=
  let c := s.core (coreOf g)
  (match (s.slot g).releases.getLast? with | some r => [.release g r.id] | none => []) ++
  (if c.promotions = [] then [] else [.stall]) ++ (if c.closeWaits then [.close] else [])

/-- The message bodies of slot `g` that are being read and hold one of these bytes hold back a store to them (R191). -/
def State.bodyHolds (s : State) (g : Nat) (pas : List Nat) : List Hold :=
  (s.sendings.filter fun x => x.slot == g && x.parts.any fun p => p.bytes.isNone && pas.any fun a => decide (p.pa ≤ a) && decide (a < p.pa + p.n)).map
    fun x => .body x.id

/-- The entry that a piece of key `k` may merge into: same block, held alike, and no newer entry holds one of its bytes.
DESIGN CHOICE (notes/assumptions/13.md). -/
def mergeInto (k : Nat × Nat) (h : List Hold) (pas : List Nat) : List WbEntry → Nat → Option Nat
  | [], _ => none
  | e :: r, i =>
    match mergeInto k h pas r (i + 1) with
    | some j => some j
    | none =>
      if e.key = k ∧ e.hold = h ∧ e.direct = none ∧ e.closed = false ∧ !(r.any fun x => pas.any x.covers) then some i else none

/-- An entry takes a piece of a store: its bytes together (R260). -/
def WbEntry.take (e : WbEntry) (cs : List WbCell) (o : OpRef) : WbEntry :=
  { e with cells := (e.cells.filter fun x => !(cs.any fun c => c.pa == x.pa)) ++ cs, ops := if e.ops.contains o then e.ops else e.ops ++ [o] }

/-- The point is a port of another core of the cluster (R253). -/
def peerPort (core poa : Nat) : Bool := decide (2000 ≤ poa) && decide (poa < 3000) && decide (poa - 2000 ≠ core) && !outsideCluster core poa

/-- Counts pieces of a store that are under way (R16). -/
def State.raiseOp (s : State) (g id n poa : Nat) : State :=
  let peer := peerPort (coreOf g) poa
  s.modSlot g fun sl =>
    if sl.stores.any fun o => o.id == id then
      { sl with stores := sl.stores.map fun o => if o.id = id then { o with left := o.left + n, peer := o.peer || peer } else o }
    else { sl with st := sl.st + 1, stores := sl.stores ++ [{ id := id, left := n, peer := peer }] }

/-- A store ends without having been accepted: it is counted no more. -/
def State.dropOp (s : State) (g id : Nat) : State :=
  s.modSlot g fun sl =>
    if sl.stores.any fun o => o.id == id then { sl with st := sl.st - 1, stores := sl.stores.filter fun o => o.id != id } else sl

/-- Key of the block of a located byte in the write buffer (R219): its ASID and virtual block. -/
def Loc.blockKey (l : Loc) : Nat × Nat := (l.asid, l.va / l.grain * l.grain)

/-- The holds of a new write of these bytes: its own, and those of the entries that a read of the bytes waits for, which the write
must not overtake (R274). -/
def State.holdsOver (s : State) (core : Nat) (pas : List Nat) (h : List Hold) : List Hold :=
  ((s.core core).wb.filter fun e => e.closed && pas.any e.covers).foldl (fun h e => h ++ e.hold.filter fun x => !h.contains x) h

/-- What the block of a located byte was translated from. -/
def Loc.blockSpan (l : Loc) : Option Span := l.cls.map fun _ => { asid := l.asid, va := l.va / l.grain * l.grain, n := l.grain }

/-- A new entry of the write buffer, for which the oldest entry that is not held leaves where the buffer is full; none where every
entry is held (R219). -/
def State.newEntry (s : State) (core : Nat) (e : WbEntry) : Option State :=
  let add (s : State) : State := s.modCore core fun x => { x with wb := x.wb ++ [e] }
  if (s.core core).wb.length < Config.writeBufferEntries then some (add s)
  else ((s.core core).wb.findIdx? fun e => e.hold == []).map fun i => add (s.sendEntry core i)

/-- Puts a piece of store `id` of slot `g` into the write buffer: into an entry of its block, or a new one (R219); L1 follows where
its sector is valid. DESIGN CHOICE (notes/assumptions/13.md). -/
def State.bufferPiece (s : State) (g id : Nat) (h : List Hold) (l : Loc) (bytes : List Byte) : Option State :=
  let core := coreOf g
  let o : OpRef := { slot := g, uid := (s.slot g).uid, id := id, poa := l.poa }
  let cells := (cellsAt l.pa bytes).map fun c => ({ pa := c.1, byte := c.2, poa := l.poa } : WbCell)
  let h := s.holdsOver core (cells.map (·.pa)) h
  let follow (s : State) : State := s.modCore core fun c => cells.foldl (fun c x => c.updateL1 x.pa x.byte) c
  match mergeInto l.blockKey h (cells.map (·.pa)) (s.core core).wb 0 with
  | some i =>
    let seen := match (s.core core).wb[i]? with | some e => e.ops.contains o | none => true
    let s := if seen then s else s.raiseOp g id 1 l.poa
    some (follow (s.modCore core fun x => { x with wb := match x.wb[i]? with | some e => putAt x.wb i (e.take cells o) | none => x.wb }))
  | none =>
    ((s.raiseOp g id 1 l.poa).newEntry core
      { key := l.blockKey, cells := cells, opened := s.cycle, opener := g, ops := [o], hold := h, span := l.blockSpan }).map follow

/-- Writes straight to a point of acceptance, all of one entry or of one request: places with their bytes. The entries with bytes of
them leave first (R29). Where something holds them back they stand in the write buffer (R219, R242, R250). -/
def State.storeDirect (s : State) (g id : Nat) (h : List Hold) (ws : List (Loc × List Byte)) : Option State :=
  match ws with
  | [] => some s
  | (l, b) :: _ =>
    let core := coreOf g
    let cells := ws.flatMap fun w => cellsAt w.1.pa w.2
    let s := s.sendBytes core (cells.map (·.1))
    let h := s.holdsOver core (cells.map (·.1)) h
    let o : OpRef := { slot := g, uid := (s.slot g).uid, id := id, poa := l.poa }
    let span : Option Span := l.cls.map fun _ => { asid := l.asid, va := l.va, n := b.length }
    let s := s.raiseOp g id 1 l.poa
    if h = [] then
      some ((s.modCore core fun c => cells.foldl (fun c x => c.updateL1 x.1 x.2) c).sendWrite core l.poa (.write cells) [o] g span)
    else
      s.newEntry core { key := (4096, l.poa), cells := cells.map fun c => { pa := c.1, byte := c.2, poa := l.poa }
                        opened := s.cycle, opener := g, ops := [o], hold := h, span := span }

/-- A piece that lies in a scratchpad. -/
def Chunk.inScratch (c : Chunk) : Bool := match region c.loc.pa with | .scratch _ _ => true | _ => false

/-- A piece that lies in the scratchpad of a core other than `core`. -/
def Chunk.inPeer (c : Chunk) (core : Nat) : Bool := match region c.loc.pa with | .scratch x _ => x != core | _ => false

/-- What holds back the direct writes of slot `g` to some bytes. -/
def State.holdsOn (s : State) (g : Nat) (pas : List Nat) : List Hold := s.holdsOver (coreOf g) pas (s.holdsFor g ++ s.bodyHolds g pas)

/-- Steps over a list that may each fail. -/
def stepAll {α : Type} (f : State → α → Option State) : List α → State → Option State
  | [], s => some s
  | x :: r, s => (f s x).bind (stepAll f r)

/-- The direct writes of an access: its pieces in one scratchpad together, which are then accepted in one step, every other piece by
itself. DESIGN CHOICE (notes/assumptions/91.md). -/
def directGroups (ws : List (Chunk × List Byte)) : List (List (Chunk × List Byte)) :=
  let (on, off) := ws.partition fun w => w.1.inScratch
  let ports := on.foldl (fun l w => if l.contains w.1.loc.poa then l else l ++ [w.1.loc.poa]) ([] : List Nat)
  (ports.map fun p => on.filter fun w => w.1.loc.poa == p) ++ off.map fun w => [w]

/-- Notes where the pieces of a store lie in scratchpads (R314), and the tile command that made it. -/
def State.notePieces (s : State) (g id : Nat) (ps : List Chunk) (tile : Option (Nat × Nat)) : State :=
  s.modSlot g fun sl => { sl with stores := sl.stores.map fun o =>
    if o.id = id then { o with pieces := o.pieces ++ (ps.filter Chunk.inScratch).map fun p => (p.a, p.loc.pa, p.n), tile := tile } else o }

/-- Stores the pieces of an access: into the write buffer, or straight to their points of acceptance (R219, R242). -/
def State.storePieces (s : State) (g id : Nat) (ps : List Chunk) (bytes : List Byte) (tile : Option (Nat × Nat) := none) : Option State :=
  let h := s.holdsFor g ++ s.bodyHolds g (ps.flatMap Chunk.pas)
  let ws := (withOffsets 0 ps).map fun x => (x.2, (bytes.drop x.1).take x.2.n)
  let (paged, direct) := ws.partition fun w => w.1.loc.buffered
  ((stepAll (fun s w => s.bufferPiece g id h w.1.loc w.2) paged s).bind
    (stepAll (fun s ws => s.storeDirect g id h (ws.map fun w => (w.1.loc, w.2))) (directGroups direct))).map
    (·.notePieces g id ps tile)

/-- The ring-overwrite fault of a write at the scratchpad ports that it has reached: the lowest refused byte (R314). -/
def State.ringTest (s : State) (cs : List Chunk) : Except Stop Unit :=
  match cs.findSome? fun c => (s.refusedIn c.loc.pa c.n).map fun (i, r) => (c.a + word i, r) with
  | some (a, r) => .error (trapAt 0x0B a r)
  | none => .ok ()

/-- Sends the pieces in other cores' scratchpads to their ports to be tested (R314), once nothing holds back the slot's writes. -/
def State.sendTests (s : State) (g id : Nat) (gate : List Hold) (ps : List (Nat × Chunk)) : State :=
  let test (x : Nat × Chunk) : Msg :=
    { core := coreOf g, poa := x.2.loc.poa, tag := none, rank := g, span := x.2.span, gate := gate
      body := .test { s.readReq g id x.1 x.2 false with sectors := [] } }
  { s with net := s.net ++ (shuffle s.tick ps.length ps).map test }

/-- A store of the issuing slot that waits for no port but its core's own: its pieces in the own scratchpad are tested and accepted
there before the next turn, unless something holds them back (R242, R250, R314). DESIGN CHOICE (notes/assumptions/91.md). -/
def State.storeHere (s : State) (g id : Nat) (ps : List Chunk) (bytes : List Byte) : Run := do
  let core := coreOf g
  let mine := ps.filter fun p => p.inScratch && !p.inPeer core
  let go := mine != [] && s.holdsOn g (ps.flatMap Chunk.pas) == []
  if go then s.ringTest mine
  match s.storePieces g id ps bytes with
  | some s => .ok (if go then s.flush core (poaCore core) else s)
  | none => .error (.park .writeBuffer)

/-- Performs a store that has passed its checks: the counter (R16), the rings (R314) and room in the buffer. A store with a piece in
another core's scratchpad is counted as it issues, and waits until every piece has been tested at its port. -/
def State.store (s before : State) (g : Nat) (reads : List Nat) (cs : List Chunk) (bytes : List Byte) : Run := do
  let core := coreOf g
  let ps := piecesOf cs
  if 65535 ≤ (s.slot g).st then .error (.park (.counterLimit 1))
  let (id, s) := s.fresh
  if ps.any (·.inPeer core) then
    let qs := withOffsets 0 ps
    let peers := qs.filter fun x => x.2.inPeer core
    let writes := qs.map fun x => (x.2.loc.pa, x.2.loc.poa, (bytes.drop x.1).take x.2.n)
    let parts : List Part := peers.map fun x => { off := x.1, a := x.2.a, pa := x.2.loc.pa, n := x.2.n }
    let t := writes.foldl (fun s w => s.raiseOp g id 1 w.2.1) s
    let t := t.sendBytes core (ps.flatMap Chunk.pas)
    .error ((t.sendTests g id (s.holdsOn g (ps.flatMap Chunk.pas)) peers).await before reads none
      { id := id, len := 0, finish := .store writes, parts := parts })
  else s.storeHere g id ps bytes

/-- The pieces of a store that has been tested at every port go to be accepted (R314), in a free order (R33). DESIGN CHOICE
(notes/assumptions/91.md). -/
def State.acceptTested (s : State) (g id : Nat) (writes : List (Nat × Nat × List Byte)) : State :=
  (shuffle s.tick writes.length writes).foldl (fun s w => s.sendWrite (coreOf g) w.2.1 (.write (cellsAt w.1 w.2.2))
    [{ slot := g, uid := (s.slot g).uid, id := id, poa := w.2.1 }] g none true) s

/-- The store of recv (R192). DESIGN CHOICE (notes/assumptions/91.md). -/
def State.storeNow (s : State) (g : Nat) (cs : List Chunk) (bytes : List Byte) : Run := do
  if 65535 ≤ (s.slot g).st then .error (.park (.counterLimit 1))
  let (id, s) := s.fresh
  s.storeHere g id (piecesOf cs) bytes

/-- A record that the issuing slot writes as plain writes of its own (R367, R420): it waits until they have all been accepted, and
takes the fault of one that a port refuses (R314). `before` and `reads` are its state and its operands. -/
def State.storeRecord (s before : State) (reads : List Nat) (cs : List Chunk) (bytes : List Byte) : Run := do
  if 65535 ≤ s.me.st then .error (.park (.counterLimit 1))
  let (id, s) := s.fresh
  match s.storePieces s.cur id (piecesOf cs) bytes with
  | none => .error (.park .writeBuffer)
  | some t =>
    .error (.wait (.accepted id) ((t.sendBytes s.myCore (cs.flatMap Chunk.pas)).pend before reads none { id := 0, len := 0, finish := .none }))

end Sys2Proof.Machine
end

