-- ==== Sys2Proof/Machine/Order.lean ====
section
/-! DEFINITION. Release rounds, releases, acquires, fences and promotions (R248 to R258). What a core has to do next is
done by `State.settle`, which the meanings and events call after anything that may let it go on. -/

namespace Sys2Proof.Machine

/-- The query of round `n`, which was open, has completed (R249). -/
def Core.roundDone (c : Core) (n : Nat) : Bool := c.round != n && c.draining.all fun d => d.1 != n

/-- Round `m` is newer than round `n`: rounds are numbered modulo 2^32 and at most 8 are open (R248, R249, N32). -/
def newer (m n : Nat) : Bool := m != n && decide ((m + 2 ^ 32 - n) % 2 ^ 32 < 2 ^ 31)

/-- The bytes that an entry of the write buffer writes. -/
def WbEntry.pas (e : WbEntry) : List Nat :=
  match e.direct with
  | some (.atomic _ t pa _ _) => (List.range (atypeBytes t)).map (pa + ·)
  | _ => e.cells.map (·.pa)

/-- The entry that leaves next of those that need not wait in the buffer: the first direct write, or entry that a read waits for,
that nothing holds, and before it an older one with bytes of it (R29, R261). -/
def Core.freedNext (c : Core) : Option Nat :=
  match c.wb.findIdx? fun e => e.hold == [] && (!e.paged || e.closed) with
  | none => none
  | some j =>
    let pas := ((c.wb[j]?).map (·.pas)).getD []
    match (c.wb.take j).findIdx? fun e => e.hold == [] && pas.any e.covers with
    | some i => some i
    | none => some j

/-- Held writes that go to no page, and those that a read waits for, leave as soon as nothing holds them, in the order in which they
were made (R29, R250, R274). -/
def State.sendFreedN : Nat → State → Nat → State
  | 0, s, _ => s
  | n + 1, s, core =>
    match (s.core core).freedNext with
    | some i => State.sendFreedN n (s.sendEntry core i) core
    | none => s

def State.sendFreed (s : State) (core : Nat) : State := State.sendFreedN (s.core core).wb.length s core

/-- Takes a hold off the write buffer of a core and off its requests. -/
def State.dropHold (s : State) (core : Nat) (h : Hold) : State :=
  { s.modCore core fun c => { c with wb := c.wb.map fun e => { e with hold := e.hold.filter (· != h) } } with
    net := s.net.map fun m => if m.core = core then { m with gate := m.gate.filter (· != h) } else m
    hostReads := s.hostReads.map fun r => if r.core = core then { r with gate := r.gate.filter (· != h) } else r }

/-- A hold ends. -/
def State.unhold (s : State) (core : Nat) (h : Hold) : State := (s.dropHold core h).sendFreed core

/-- Closes the current round (R249): its number and the state after; none while seven rounds drain. -/
def State.tryClose (s : State) (core : Nat) : Option (Nat × State) :=
  if Config.drainingRounds ≤ (s.core core).draining.length then none
  else
    let s := s.sendEntries core fun _ => true
    let n := (s.core core).round
    some (n, (s.modCore core fun c => { c with
      draining := c.draining ++ [(n, Tab.getD c.sent (n % 8) 0)], round := (n + 1) % 2 ^ 32, outside := false
      closeWaits := false }).unhold core .close)

/-- A close waits: writes issued meanwhile are held (R249). -/
def State.closeLater (s : State) (core : Nat) : State := s.modCore core fun c => { c with closeWaits := true }

/-- The invalidation of an acquire (R246, R251): none at core scope. DEDUCED (notes/assumptions/12.md). -/
def State.acquire (s : State) (core : Nat) (sc : Scope) : State :=
  if sc = .core then s else s.modCore core fun c => c.dropSectors fun l _ => !l.ownHome

/-- Appends to the promotion log (R253); none where the close that this needs must wait. -/
def State.logAppend (s : State) (core g : Nat) : Option State :=
  let add (s : State) : State := s.modCore core fun c => { c with log := c.log ++ [(c.round, g)], logged := c.logged + 1 }
  match (s.core core).log with
  | [] => some (add s)
  | (n, _) :: rest =>
    if (s.core core).log.length < Config.promotionLogEntries then some (add s)
    else
      let drop (s : State) : State := s.modCore core fun c => { c with log := rest }
      if n = (s.core core).round then (s.tryClose core).map fun r => add (drop r.2) else some (add (drop s))

/-- A 32-bit count has reached another (N32). -/
def reached32 (bound n : Nat) : Bool := decide ((n + 2 ^ 32 - bound) % 2 ^ 32 < 2 ^ 31)

/-- The commands of a ring below a bound have completed (R455). -/
def State.fabricDone (s : State) (x : Nat × Nat × Nat) : Bool :=
  match Tab.get? (s.die x.1).rings x.2.1 with
  | none => true
  | some f => reached32 x.2.2 f.head && (f.finished.all fun q => reached32 x.2.2 q.1) && f.running.keys.all (reached32 x.2.2)

/-- The points of acceptance that an entry of the write buffer goes to. -/
def WbEntry.poas (e : WbEntry) : List Nat := if e.direct.isSome then [e.key.2] else poasOf e.cells

/-- The write buffer holds a write to a point outside the cluster, or the current round has sent one (R250). -/
def Core.writesOutside (c : Core) (core : Nat) : Bool := c.outside || c.wb.any fun e => e.poas.any (outsideCluster core)

/-- Fabric commands that a release at fabric scope of a core waits for (R455). -/
def State.handedBy (s : State) (core : Nat) : List (Nat × Nat × Nat) :=
  s.dies.flatMap fun d => d.2.rings.flatMap fun r => (r.2.handed.filter fun h => h.2 == core).map fun h => (d.1, r.1, h.1)

/-- The oldest release of a slot completes: its holds end, and a fence acquires (R250 to R252). -/
def State.endRelease (s : State) (g : Nat) (r : Release) : State :=
  let fence := (s.slot g).fenced.contains r.id
  let s := (s.modSlot g fun sl => { sl with releases := sl.releases.drop 1, fenced := sl.fenced.erase r.id }).unhold
    (coreOf g) (.release g r.id)
  if fence then s.acquire (coreOf g) r.scope else s

/-- A release that closes a round: it closes it, waits for its query and for the slot's loads, and at fabric scope then for the
commands that the core's earlier doorbell writes handed over (R250, R455). -/
def State.settleWide (s : State) (g : Nat) (r : Release) (rest : List Release) : State × Bool :=
  let core := coreOf g
  let put (r : Release) (s : State) : State := s.modSlot g fun sl => { sl with releases := r :: rest }
  match r.round with
  | none =>
    match s.tryClose core with
    | none => (s.closeLater core, false)
    | some (n, s) => (put { r with round := some n } s, true)
  | some n =>
    if !(s.core core).roundDone n || r.loads.any (fun i => (s.slot g).outstanding.any fun o => o.id == i) then (s, false)
    else
      match r.fabric with
      | none => if r.scope = .fab then (put { r with fabric := some (s.handedBy core) } s, true) else (s.endRelease g r, true)
      | some l => if l.all s.fabricDone then (s.endRelease g r, true) else (s, false)

/-- A release at cluster scope sends the slot's earlier writes that stand in the buffer (R219). -/
def State.sendStores (s : State) (g : Nat) (ids : List Nat) : State :=
  s.sendEntries (coreOf g) fun e => e.ops.any fun o => o.slot == g && ids.contains o.id

/-- Carries the oldest release of a slot as far as it goes; whether it moved. One at core scope is logged once no write that the core
had issued before it is held back, so that the round of its entry covers them all (R258). DEDUCED (notes/assumptions/14.md). -/
def State.settleSlot (s : State) (g : Nat) : State × Bool :=
  match (s.slot g).releases with
  | [] => (s, false)
  | r :: rest =>
    let core := coreOf g
    let open_ (l : List Nat) : Bool := l.any fun i => (s.slot g).stores.any fun o => o.id == i
    match r.scope with
    | .core =>
      if open_ r.peers || (s.core core).wb.any fun e => e.hold != [] && e.ops.any fun o => r.behind.contains o.id then (s, false)
      else
        match s.logAppend core g with
        | none => (s.closeLater core, false)
        | some s => (s.endRelease g r, true)
    | .clus =>
      if r.round.isSome || (s.core core).writesOutside core then s.settleWide g r rest
      else if open_ r.stores then (s.sendStores g r.stores, false) else (s.endRelease g r, true)
    | _ => s.settleWide g r rest

/-- Answers the requesters of a promotion (R255, R256). -/
def State.answerPromotion (s : State) (core : Nat) (p : Promotion) : State :=
  { s with promReps := s.promReps ++ p.waiters.map fun w => { from_ := w, core := core, launch := none } }

/-- The running promotion has ended: the stall of the next begins with its own start. -/
def State.endPromotion (s : State) (core : Nat) (p : Promotion) : State :=
  ((s.modCore core fun c => { c with promotions := c.promotions.drop 1 }).unhold core .stall).answerPromotion core p

/-- The slots of a core. -/
def slotsOf (core : Nat) : List Nat := (List.range 16).map fun i => core * 16 + i

/-- Releases at core scope of a core that have issued and are not logged. -/
def State.unloggedOf (s : State) (core : Nat) : List Nat :=
  (slotsOf core).flatMap fun g => ((s.slot g).releases.filter fun r => r.scope == .core).map (·.id)

/-- The round up to which a promotion waits; none where there is nothing to wait for (R255, R421). -/
def Core.promotionRound (c : Core) (whole : Bool) : Option Nat :=
  if whole then some c.round
  else match c.log.getLast? with | some e => some e.1 | none => c.draining.getLast?.map (·.1)

/-- Carries the running promotion of a core as far as it goes (R255). It fixes N once the core-scope releases that issued before
its requests arrived stand in the log, so that it covers them (R258). DEDUCED (notes/assumptions/14.md). -/
def State.settlePromotion (s : State) (core : Nat) : State × Bool :=
  match (s.core core).promotions with
  | [] => (s, false)
  | p :: rest =>
    let c := s.core core
    match p.round with
    | none =>
      if p.unlogged.any (s.unloggedOf core).contains then (s, false)
      else
        match c.promotionRound p.whole with
        | none => (s.endPromotion core p, true)
        | some n => (s.modCore core fun c => { c with promotions := { p with round := some n, appended := c.logged } :: rest }, true)
    | some n =>
      if n = c.round then
        match s.tryClose core with
        | none => (s.closeLater core, false)
        | some (_, s) => (s, true)
      else if c.draining.all fun d => newer d.1 n then (s.endPromotion core p, true)
      else (s, false)

/-- One round over the promotion and the releases of a core. -/
def State.settleOnce (s : State) (core : Nat) : State × Bool :=
  (slotsOf core).foldl (fun r g => let (s, b) := r.1.settleSlot g; (s, r.2 || b)) (s.settlePromotion core)

/-- Rounds until nothing moves, `n` at most. -/
def State.settleN : Nat → State → Nat → State
  | 0, s, _ => s
  | n + 1, s, core => let (s, b) := s.settleOnce core; if b then State.settleN n s core else s

/-- Lets the releases and the promotion of a core go on. -/
def State.settle (s : State) (core : Nat) : State := State.settleN 200 s core

/-- Starts a release of slot `g` (R250, R253). DEDUCED (notes/assumptions/14.md). -/
def State.startRelease (s : State) (g : Nat) (sc : Scope) (fence : Bool) : State :=
  let (id, s) := s.fresh
  let sl := s.slot g
  let r : Release := { id := id, scope := sc, round := none, loads := sl.outstanding.map (·.id)
                       stores := sl.stores.map (·.id), peers := (sl.stores.filter (·.peer)).map (·.id)
                       behind := ((s.core (coreOf g)).wb.filter fun e => e.hold != []).flatMap fun e => e.ops.map (·.id) }
  (s.setSlot g { sl with releases := sl.releases ++ [r], fenced := if fence then sl.fenced ++ [id] else sl.fenced }).settle (coreOf g)

/-- A request joins the running promotion where no other waits behind it and it covers every release that has issued (R256). One of
prom.all, whose round is always the current one (R421), joins only a promotion for it that has not fixed its round. -/
def State.joins (s : State) (core : Nat) (x : Promotion) (rest : List Promotion) (whole : Bool) : Bool :=
  rest == [] && (x.whole || !whole) &&
    (x.round == none || (!whole && x.appended == (s.core core).logged && s.unloggedOf core == []))

/-- A promotion request arrives at its target (R255, R256, R421). -/
def State.promotionArrives (s : State) (p : Promote) : State :=
  let core := p.core
  let whole := p.launch.isNone
  let new : Promotion := { round := none, waiters := [p.from_], appended := (s.core core).logged, whole := whole, unlogged := s.unloggedOf core }
  match p.launch with
  | some l =>
    if !s.holdsUnit core l then { s with promReps := s.promReps ++ [{ p with launch := none, sent := none }] } else enter core whole new
  | none => enter core whole new
where
  /-- It joins the running promotion, or waits behind what is there. -/
  enter (core : Nat) (whole : Bool) (new : Promotion) : State :=
    match (s.core core).promotions with
    | [] => (s.modCore core fun c => { c with promotions := [new] }).settle core
    | x :: rest =>
      if s.joins core x rest whole then
        s.modCore core fun c => { c with
          promotions := { x with waiters := x.waiters ++ [p.from_], unlogged := x.unlogged ++ new.unlogged } :: rest }
      else s.modCore core fun c => { c with promotions := c.promotions ++ [new] }

/-- Sum of the arrival counts of a core's tag over all points of acceptance (R249). -/
def State.arrivedTotal (s : State) (core tag : Nat) : Nat :=
  (s.arrivals.foldl (fun n e => if e.1 % 8192 = core * 8 + tag then n + e.2 else n) 0) % 2 ^ 32

/-- A gathered query for the oldest draining round (R249): it asks every die and, where the counts agree, the round is complete
when their sum has come back (R456). -/
def State.queryReturns (s : State) (core : Nat) : Option State :=
  match (s.core core).draining, (s.core core).query with
  | [], _ => none
  | (n, fixed) :: rest, some c =>
    if s.aged (some c) && [0, 1, 2, 3].all (s.wayOpen (dieOfCore core)) then
      some ((s.modCore core fun c => { c with draining := rest, query := none, log := c.log.filter fun e => newer e.1 n }).settle core)
    else if s.arrivedTotal core (n % 8) = fixed then none else some (s.modCore core fun c => { c with query := none })
  | (n, fixed) :: _, none =>
    if s.arrivedTotal core (n % 8) = fixed then some (s.modCore core fun c => { c with query := some s.cycle }) else none

end Sys2Proof.Machine
end

