-- ==== Sys2Proof/Machine/Waits.lean ====
section
/-! DEFINITION. What the reasons for parking wait for (R152), the objects that a unit names by level (R202, R203), the
messages that a unit may receive (R192), and which slots issue (R150). -/

namespace Sys2Proof.Machine

/-- The slot may issue at its turns. -/
def Slot.runs (sl : Slot) : Bool := match sl.status with | .running | .woken _ => true | _ => false

/-! ## Levels (R202, R203) -/

/-- An object of the level table: its completion counter and its status. -/
structure LevelState where
  count : Nat
  status : Nat
  deriving DecidableEq, Repr

/-- A byte of a resident page of an address space with its leaf, as the ridge reads it. -/
def State.ridgeByte (s : State) (asid va : Nat) : Option (Word × Byte) :=
  match s.walk asid va with
  | some (size, w) => if leafTier w = 2 then none else some (w, s.byteAt (s.physical asid va size w))
  | none => none

/-- `n` bytes of an address space; none where one is not resident. -/
def State.ridgeRead (s : State) (asid : Nat) : Nat → Nat → Option (List Byte)
  | _, 0 => some []
  | va, n + 1 =>
    match s.ridgeByte asid va, s.ridgeRead asid (va + 1) n with
    | some (_, b), some r => some (b :: r)
    | _, _ => none

/-- A number in an image. -/
def State.imageNat (s : State) (asid image o n : Nat) : Nat :=
  match s.ridgeRead asid (image + o) n with | some bs => numLe bs | none => 0

/-- The counter of a launch whose record is not taken (R154): the stages of its image, where that is resident, and 1 at least.
DEDUCED (notes/assumptions/23.md). -/
def State.untakenCount (s : State) (x : Untaken) : Nat := Nat.max 1 (s.imageNat x.asid (fieldLe x.bytes 0 8) 6 1)

/-- The object that X(a) names for a unit, with its key; none where X(a) is not allowed. The inner option is none for
an object that is absent: nothing of it has been enqueued (R203). -/
def State.levelKey (s : State) (la : Launch) (own : Nat) (v : Level) (x : Word) : Option (Option Nat) :=
  let minus := x == wordOfInt (-1)
  match v with
  | .launch =>
    if minus then some (some own)
    else if x.toNat < 2 ^ 16 then
      let k := tagKey la.job la.graph x.toNat
      some (if s.launchKey k ≠ k then some (s.launchKey k) else if s.untakenOf .launch k = 0 then none else some k)
    else none
  | .graph =>
    if minus then some (some (graphKey la.job la.graph))
    else if x.toNat < 2 ^ 32 then
      let k := graphKey la.job x.toNat
      some (if (Tab.get? s.graphs k).isSome || s.untakenOf .graph k != 0 then some k else none)
    else none
  | .phase =>
    if minus then some (some (phaseKey la.job la.phase))
    else if x.toNat < 2 ^ 16 then
      let k := phaseKey la.job x.toNat
      some (if (Tab.get? s.phases k).isSome || s.untakenOf .phase k != 0 then some k else none)
    else none
  | .job => if minus then some (some la.job) else none

/-- Graphs and phases whose records have all not been taken: they have no object yet. -/
def State.unborn (s : State) (level : Level) : List Nat :=
  (match level with
    | .graph => (s.untaken.filter s.newGraph).map fun x : Untaken => x.graph
    | .phase => (s.untaken.filter s.newPhase).map fun x : Untaken => x.phase
    | _ => []).eraseDups

/-- The level table as it stands, with what is enqueued and not taken (R154, R203). -/
def State.levelTable (s : State) : LevelCopy :=
  { taken := s.cycle
    launches := s.launches.map (fun e => (e.1, (e.2.count, e.2.status))) ++ s.untaken.map fun x => (x.launch, (s.untakenCount x, 0))
    graphs := s.graphs.map (fun e => (e.1, (e.2.count + s.untakenOf .graph e.1, e.2.status))) ++
      (s.unborn .graph).map fun k => (k, (s.untakenOf .graph k, 0))
    phases := s.phases.map (fun e => (e.1, (e.2.count + s.untakenOf .phase e.1, e.2.status))) ++
      (s.unborn .phase).map fun k => (k, (s.untakenOf .phase k, 0))
    jobs := s.jobs.map fun e => (e.1, (e.2.count + s.untakenOf .job e.1, e.2.status)) }

/-- An object of a copy. -/
def LevelCopy.find (c : LevelCopy) (v : Level) (k : Nat) : Option LevelState :=
  (Tab.get? (match v with | .launch => c.launches | .graph => c.graphs | .phase => c.phases | .job => c.jobs) k).map
    fun x => { count := x.1, status := x.2 }

/-- The copies of the level table are renewed at moments that the manual leaves open, before they are 1,024 cycles old (R203).
DESIGN CHOICE (notes/assumptions/23.md). -/
def State.renewLevels (s : State) : State :=
  let cs := s.levelCopies.keys ++ ((s.slots.filter fun e => e.2.unit.isSome && !isRidgeCore (coreOf e.1)).map fun e => clusterOf (coreOf e.1)).filter fun c =>
    !s.levelCopies.keys.contains c
  cs.foldl (fun s c => match Tab.get? s.levelCopies c with
    | some x => if x.taken + 1023 ≤ s.cycle || Config.schedule (s.tick + c) % 2 == 1 then
        { s with levelCopies := Tab.set s.levelCopies c s.levelTable } else s
    | none => { s with levelCopies := Tab.set s.levelCopies c s.levelTable }) s

/-- What a slot's unit sees of the object that X(a) names, in its cluster's copy of the level table: not allowed, absent, or its
state. DEDUCED (notes/assumptions/23.md). -/
def State.seeLevel (s : State) (g : Nat) (v : Level) (x : Word) : Option (Option LevelState) :=
  let l := (s.slot g).launch
  let copy := (Tab.get? s.levelCopies (clusterOf (coreOf g))).getD s.levelTable
  (s.levelKey (s.launch l) l v x).map fun k => k.bind fun k =>
    (copy.find v k).orElse fun _ => if v = .launch then copy.find v (tagKey (s.launch l).job (s.launch l).graph x.toNat) else none

/-- The condition of lvl.wait (R204). -/
def State.levelReached (s : State) (g : Nat) (v : Level) (x : Word) (limit : Nat) : Bool :=
  match s.seeLevel g v x with
  | some (some st) => decide (st.count ≤ limit) || st.status != 0
  | _ => false

/-! ## Mailboxes (R191, R192) -/

/-- A message that a slot may receive: of its own launch, or a fabric message of its launch's job. -/
def State.entitled (s : State) (g : Nat) (m : Mail) : Bool :=
  match m.fabric with
  | none => m.launch == (s.slot g).launch && (s.slot g).unit.isSome
  | some _ => m.launch == (s.launch (s.slot g).launch).job && (s.slot g).unit.isSome

/-- A lower slot of the core waits in recv for the mailbox and takes its message. DEDUCED (notes/assumptions/16.md). -/
def State.claimedBefore (s : State) (g box : Nat) (m : Mail) (waits : Bool) : Bool :=
  (slotsOf (coreOf g)).any fun h => h != g && (!waits || decide (h < g)) && s.entitled h m &&
    match (s.slot h).status with
    | .parked (.mailbox mask) | .woken (.mailbox mask) => mask / 2 ^ box % 2 == 1
    | _ => false

/-- The lowest mailbox in a mask with a message that slot `g` takes. DEDUCED (notes/assumptions/16.md). -/
def State.mailFor (s : State) (g mask : Nat) : Option (Nat × Mail) :=
  let waits := match (s.slot g).status with | .parked (.mailbox _) | .woken (.mailbox _) => true | _ => false
  (s.core (coreOf g)).mail.find? fun e =>
    mask / 2 ^ e.1 % 2 == 1 && s.entitled g e.2 && !s.claimedBefore g e.1 e.2 waits

/-! ## Rings, counters -/

/-- Room of an operand ring, every claimed push counted (R357). -/
def Ring.room (r : Ring) : Nat := r.count - (diff16 r.tail r.head + r.claims.length)

/-- The limits of waitc hold; 15 means none (R193). -/
def Slot.within (sl : Slot) (ld st cp tb : Nat) : Bool :=
  (ld == 15 || decide (sl.ld ≤ ld)) && (st == 15 || decide (sl.st ≤ st)) &&
  (cp == 15 || decide (sl.cp ≤ cp)) && (tb == 15 || decide (sl.tb ≤ tb))

/-- Counter of class 0 LD, 1 ST, 2 CP, 3 TB. -/
def Slot.counter (sl : Slot) (k : Nat) : Nat :=
  match k with | 0 => sl.ld | 1 => sl.st | 2 => sl.cp | _ => sl.tb

/-- The target of slot.ctl stands in the state that it asks for (R419). -/
def targetReady (sl : Slot) (op : SlotOp) : Bool :=
  match op with
  | .stop | .kill => sl.status == .stopped || sl.status == .empty
  | .run => true

/-! ## Asynchronous errors (R298, R398) -/

/-- A closed batch that a limit on TB covers: all but the `n` newest. -/
def Slot.coversBatch (sl : Slot) (n k : Nat) : Bool := decide (k + n < sl.batch)

/-- The error that a wait reports: of the copy class where `cp`, of a covered batch where `tb` gives a limit; the one
whose command issued first. -/
def Slot.reported (sl : Slot) (cp : Bool) (tb : Option Nat) : Option AsyncError :=
  let mine := sl.pend.filter fun e => match e.batch, tb with
    | none, _ => cp
    | some k, some n => sl.coversBatch n k
    | some _, none => false
  mine.foldl (fun b e => match b with
    | none => some e
    | some x => if e.order < x.order then some e else some x) none

/-- Limit of waitc as covering of a class: 15 covers nothing. -/
def limitOf (n : Nat) : Option Nat := if n = 15 then none else some n

/-! ## Whether a reason has cleared (R152) -/

def State.reasonClear (s : State) (g : Nat) (r : Reason) : Bool :=
  let sl := s.slot g
  let c := s.core (coreOf g)
  (sl.late.isSome && sl.pending.isNone) ||
  match r with
  | .portEmpty p pos => match s.headAt g p pos with | .empty => false | _ => true
  | .portFull p => s.portRoom g p
  | .mailbox mask => (s.mailFor g mask).isSome
  | .counters ld st cp tb => sl.within ld st cp tb || (sl.reported (cp != 15) (limitOf tb)).isSome
  | .counterLimit k => decide (sl.counter k < 65535)
  | .batches n => decide (sl.tb ≤ n) || (sl.reported false (some n)).isSome
  | .lead n => let v := Tab.getD sl.views n {}; decide (v.p < v.c + 3)
  | .phase n => let v := Tab.getD sl.views n {}; decide (v.p ≤ v.c)
  | .writeBuffer => decide (c.wb.length < Config.writeBufferEntries) || c.wb.any fun e => e.hold == []
  | .level v x limit => s.levelReached g v x limit
  | .children => match sl.unit with | some u => u.children == 0 | none => true
  | .lease => sl.lease.isSome
  | .ringRoom n w => decide (w ≤ (Tab.getD c.rings n {}).room)
  | .commandQueue => decide (c.cmdQueue < Config.commandQueueEntries)
  | .copySlots => decide (c.copies.length < Config.copiesInFlight)
  | .tilesDone b => (s.bank (clusterOf (coreOf g)) b).order.all fun k => k.slot != g
  | .release => sl.fenced == []
  | .own => false
  | .accepted id => sl.stores.all (·.id != id)
  | .eligible => true
  | .target h op => targetReady (s.slot h) op

/-! ## Who issues (R150) -/

/-- The slot that issues on a core in the current turn. DEDUCED (notes/assumptions/6.md). -/
def State.issuer (s : State) (c : Nat) : Option Nat :=
  let own := c * 16 + s.cycle % 16
  let partner := c * 16 + (s.cycle % 16 ^^^ 8)
  let x := s.slot own
  if x.runs && !(x.yielded.isSome && (s.slot partner).runs) then some own
  else if (s.slot partner).runs then some partner
  else none

/-- The first core from `c` on, `n` cores at most, on which a slot issues. DEDUCED (notes/assumptions/6.md). -/
def State.nextIssuer (s : State) : Nat → Nat → Option Nat
  | 0, _ => none
  | n + 1, c => match s.issuer c with | some g => some g | none => s.nextIssuer n (c + 1)

end Sys2Proof.Machine
end

