-- ==== Sys2Proof/Machine/Mem.lean ====
section
/-! DEFINITION. Meanings of page 3 and of ld and st (R135, R268 to R288). -/

namespace Sys2Proof.Machine

open Host

/-! ## Shared operations -/

/-- A load into a register or a port (R273): its checks (R271), and its bytes at once or later. -/
def loadTo (s : State) (d : Nat) (reads : List Nat) (addr : List Word → Word) (z : Size) : Outcome State Fault Refusal :=
  conclude s do
    let (vs, s') ← s.operands reads (some d)
    let (cs, es) ← s'.check (s'.accessor s.cur) (addr vs) (sizeBytes z) 0 .load
    s'.loadThen s reads (some d) cs es .cached (.load z d) fun bs t => .ok (t.writeX d (extend z (numLe bs)))

/-- A store of the low bytes of the last operand. -/
def storeFrom (s : State) (reads : List Nat) (addr : List Word → Word) (n : Nat) : Outcome State Fault Refusal :=
  conclude s do
    let (vs, s') ← s.operands reads none
    let (cs, es) ← s'.check (s'.accessor s.cur) (addr vs) n 0 .store
    (s'.installAll s.myCore es).store s s.cur reads cs (bytesLe n (vs.getLastD 0).toNat)

/-- Numbers of a group of registers. -/
def group (d n : Nat) : List Nat := (List.range n).map (d + ·)

/-- The registers of a group from the bytes loaded. -/
def groupWords (n : Nat) (bs : List Byte) : List Word := (List.range n).map fun j => word (fieldLe bs (8 * j) 8)

/-- A load of a group of registers (R273). -/
def loadGroup (s : State) (d a : Nat) (i : Int) (n : Nat) : Outcome State Fault Refusal :=
  conclude s do
    let (vs, s') ← s.operands [a] none (group d n)
    let (cs, es) ← s'.check (s'.accessor s.cur) (vs.getD 0 0 + wordOfInt i) (8 * n) 0 .load
    s'.loadThen s [a] none cs es .cached (.group d n) fun bs t => .ok (t.modMe (·.setXs d (groupWords n bs)))

/-- A store of a group of registers (R273). -/
def storeGroup (s : State) (d a : Nat) (i : Int) (n : Nat) : Outcome State Fault Refusal :=
  conclude s do
    let (vs, s') ← s.operands [a] none (group d n)
    let (cs, es) ← s'.check (s'.accessor s.cur) (vs.getD 0 0 + wordOfInt i) (8 * n) 0 .store
    (s'.installAll s.myCore es).store s s.cur [a] cs ((group d n).flatMap fun r => bytesLe 8 (s.me.x r).toNat)

/-! ## Loads and stores (R135, R273) -/

def execLd (d a : Nat) (i : Int) (s : State) : Outcome State Fault Refusal :=
  loadTo s d [a] (fun vs => vs.getD 0 0 + wordOfInt (8 * i)) .i64

def execSt (d a : Nat) (i : Int) (s : State) : Outcome State Fault Refusal :=
  storeFrom s [a, d] (fun vs => vs.getD 0 0 + wordOfInt (8 * i)) 8

def execLdS (z : Size) (d a : Nat) (i : Int) (s : State) : Outcome State Fault Refusal :=
  loadTo s d [a] (fun vs => vs.getD 0 0 + wordOfInt i) z

def execStS (z : Size) (d a : Nat) (i : Int) (s : State) : Outcome State Fault Refusal :=
  storeFrom s [a, d] (fun vs => vs.getD 0 0 + wordOfInt i) (sizeBytes z)

def execLdx (z : Size) (d a b : Nat) (s : State) : Outcome State Fault Refusal :=
  loadTo s d [a, b] (fun vs => vs.getD 0 0 + vs.getD 1 0) z

def execStx (z : Size) (d a b : Nat) (s : State) : Outcome State Fault Refusal :=
  storeFrom s [a, b, d] (fun vs => vs.getD 0 0 + vs.getD 1 0) (sizeBytes z)

def execLdQ (d a : Nat) (i : Int) (s : State) : Outcome State Fault Refusal := loadGroup s d a i 4
def execStQ (d a : Nat) (i : Int) (s : State) : Outcome State Fault Refusal := storeGroup s d a i 4
def execLdO (d a : Nat) (i : Int) (s : State) : Outcome State Fault Refusal := loadGroup s d a i 8
def execStO (d a : Nat) (i : Int) (s : State) : Outcome State Fault Refusal := storeGroup s d a i 8

/-! ## Asynchronous loads, step and home (R274, R285, R287) -/

/-- Counts an asynchronous operation that will write x(d): an earlier one to x(d) writes nothing any more (R274). -/
def State.openLoad (s : State) (id d : Nat) (z : Size) (parts : List Part) : State :=
  s.modMe fun sl => { sl with
    ld := sl.ld + 1
    outstanding := (sl.outstanding.map fun o => if o.d = d then { o with live := false } else o) ++
      [{ id := id, d := d, z := z, parts := parts, live := true }] }

/-- An operation of class LD whose value is already known: its reply is on its way. -/
def State.replyLater (s : State) (d : Nat) (v : Word) : Run :=
  if 65535 ≤ s.me.ld then .error (.park (.counterLimit 0))
  else
    let (id, s) := s.fresh
    .ok ((s.openLoad id d .i64 [{ off := 0, a := 0, pa := 0, n := 8 }]).answer s.cur s.me.uid id v)

/-- The sector address of the first byte of the pieces that an uncorrectable error has taken, at home where the core
does not hold it, or in the core's L1 (R399, R472). -/
def State.lostPiece (s : State) (core g : Nat) (ps : List Chunk) : Option Word :=
  (ps.find? fun p => (s.l1Lost core p).isSome || ((s.pieceInCore core p).isNone && s.lostAt (s.readReq g 0 0 p false) p.loc.pa)).map fun p =>
    word (p.a.toNat / 32 * 32)

/-- An asynchronous load (R274). A piece that the core holds is captured at issue; the others are read at their points of
acceptance. Behind a pending fence no piece is captured, and the reads leave when its release has completed (R252).
DESIGN CHOICE (notes/assumptions/10.md). -/
def execLdA (z : Size) (d a : Nat) (i : Int) (s : State) : Outcome State Fault Refusal :=
  conclude s do
    let (vs, s') ← if isPort d then .error (s.illegal 3) else s.operands [a] (some d)
    let (cs, es) ← s'.check (s'.accessor s.cur) (vs.getD 0 0 + wordOfInt i) (sizeBytes z) 0 .load
    let core := s.myCore
    if 65535 ≤ s.me.ld then .error (.park (.counterLimit 0))
    let s' := s'.installAll core es
    let ps := piecesOf cs
    match s'.lostPiece core s.cur ps with
    | some t => .error (trapAt 0x11 t 0)
    | none =>
      let (id, s') := s'.fresh
      let (parts, s') := s'.readLater s.cur id ps
      .ok (s'.openLoad id d z parts)

def execStepCtr (d : Nat) (s : State) : Outcome State Fault Refusal :=
  conclude s do
    let (_, s') ← if isPort d then .error (s.illegal 3) else s.operands [] (some d)
    ({ s' with stepctr := (s'.stepctr + 1) % 2 ^ 64 }).replyLater d (word s'.stepctr)

/-- The word of home for a byte of a page (R287). -/
def homeOfLoc (l : Loc) (w : Word) : Word :=
  match l.cls with
  | some .host => word (2 ^ 62 + (l.poa - 1000))
  | some .device =>
    match region l.pa with
    | .device _ => word (3 * 2 ^ 62)
    | .bank cl _ | .residue cl _ => word (2 * 2 ^ 62 + 8 * cl)
    | _ => word (2 * 2 ^ 62 + (l.poa - 2000))
  | c => word (leafTier w * 2 ^ 18 + (if c = some .seal then 2 ^ 17 + ofBool l.sealed * 2 ^ 16 else 0) + l.poa)

/-- The word of home for a byte that is reached without translation (R287). DEDUCED (notes/assumptions/20.md). -/
def homeOfRegion : Region → Word
  | .fast c => word c
  | .cap c => word (2 ^ 18 + 96 * c)
  | .hostWindow p => word (2 ^ 62 + p)
  | .scratch c _ | .queueStore c _ | .pushReg c _ | .mailbox c _ => word (2 * 2 ^ 62 + c)
  | .bank cl _ | .residue cl _ => word (2 * 2 ^ 62 + 8 * cl)
  | .device _ | .none => word (3 * 2 ^ 62)

/-- The word of home for a translation. -/
def State.homeOfEntry (s : State) (asid va : Nat) (e : TlbEntry) : Word :=
  let w := e.leaf
  let pa := s.physical asid va e.size w
  let cls := leafCls w
  let port := match region pa with | .hostWindow p => p | _ => 0
  let poa := match cls with
    | .host => poaHost port
    | .device => poaOfRegion (region pa)
    | _ => s.homeOf asid va e.size w
  homeOfLoc { directLoc pa 0 0 0 with poa := poa, cls := some cls, sealed := e.sealed } w

/-- What home finds in a TLB or by a walk at virtual address `va`: the word, or the walk's start. -/
def State.homeVirtual (s : State) (d va : Nat) : Run :=
  let core := s.myCore
  let asid := s.me.asidNo
  let gen := (s.asidOf asid).gen
  let l2 := if isRidgeCore core then [] else (s.cluster (clusterOf core)).tlb
  match ((s.core core).tlb ++ l2).find? (·.hits asid gen va) with
  | some e => s.replyLater d (s.homeOfEntry asid va e)
  | none =>
    if 65535 ≤ s.me.ld then .error (.park (.counterLimit 0))
    else
      let (id, s) := s.fresh
      let s := s.openLoad id d .i64 [{ off := 0, a := 0, pa := 0, n := 8 }]
      .ok { s with walks := s.walks ++ [{ core := core, asid := asid, gen := gen, va := va, slot := s.cur, uid := s.me.uid, id := id }] }

/-- DEDUCED (notes/assumptions/20.md). -/
def execHome (d a : Nat) (s : State) : Outcome State Fault Refusal :=
  conclude s do
    let (vs, s') ← if isPort d then .error (s.illegal 3) else s.operands [a] (some d)
    let x := vs.getD 0 0
    match aperture s.myCore x with
    | .unmapped => .error (trapAt 0x13 x 0)
    | .virt va => s'.homeVirtual d va
    | .stack o => s'.homeVirtual d (s.me.stackBase + o)
    | .scratch c o => s'.replyLater d (homeOfRegion (.scratch c o))
    | .window pa => s'.replyLater d (homeOfRegion (region pa))

/-! ## Ordering instructions (R275, R276) -/

def execLdAcq (z : Size) (sc : Scope) (d a : Nat) (s : State) : Outcome State Fault Refusal :=
  conclude s do
    let (vs, s') ← s.operands [a] (some d)
    let (cs, es) ← s'.check (s'.accessor s.cur) (vs.getD 0 0) (sizeBytes z) (sizeBytes z) .load
    s'.loadThen s [a] (some d) cs es .cached (.acquire z sc d) fun bs t =>
      .ok ((t.acquire s.myCore sc).writeX d (extend z (numLe bs)))

/-- A release and its store, the first write that it holds; no release parks the slot (R250, R275). -/
def execStRel (z : Size) (sc : Scope) (d a : Nat) (s : State) : Outcome State Fault Refusal :=
  conclude s do
    let n := sizeBytes z
    let (vs, s') ← s.operands [a, d] none
    let (cs, es) ← s'.check (s'.accessor s.cur) (vs.getD 0 0) n n .store
    ((s'.installAll s.myCore es).startRelease s.cur sc false).store s s.cur [a, d] cs (bytesLe n (vs.getD 1 0).toNat)

def execRel (sc : Scope) (s : State) : Outcome State Fault Refusal := conclude s (.ok (s.startRelease s.cur sc false))

def execAcq (sc : Scope) (s : State) : Outcome State Fault Refusal := conclude s (.ok (s.acquire s.myCore sc))

def execFence (sc : Scope) (s : State) : Outcome State Fault Refusal := conclude s (.ok (s.startRelease s.cur sc true))

/-! ## Remote-promoting acquire (R254, R277) -/

/-- The targets of an acq.prom: every core that holds a unit of the launch, or one core. -/
def State.promTargets (s : State) (x : Word) : List Nat :=
  if x = wordOfInt (-1) then
    ((s.unitsOf s.me.launch).map fun e => coreOf e.1).foldl (fun l c => if l.contains c then l else l ++ [c]) []
  else [x.toNat]

/-- Sends promote requests. -/
def State.promote (s : State) (ts : List Nat) (launch : Option Nat) : State :=
  { s with promReqs := s.promReqs ++ ts.map fun c => ({ from_ := s.cur, core := c, launch := launch } : Promote) }

/-- The load of acq.prom, after the replies (R254): its checks again, then a read at the points of acceptance. -/
def State.promLoad (s' s : State) (reads : List Nat) (a : Word) (z : Size) (d : Nat) : Run := do
  let n := sizeBytes z
  let (cs, es) ← s'.check (s'.accessor s.cur) a n n .load
  let s' := s'.installAll s.myCore es
  let ps := withOffsets 0 (piecesOf cs)
  let (id, s') := s'.fresh
  let parts := s'.partsFor s.myCore .home ps
  .error ((s'.sendReads s.cur id .home (s.fenceGate s.cur) ps parts).await s reads (some d) { id := id, len := 0, finish := .acquire z .dev d, parts := parts })

def execAcqProm (z : Size) (d a b : Nat) (s : State) : Outcome State Fault Refusal :=
  conclude s do
    let n := sizeBytes z
    let (vs, s') ← s.operands [a, b] (some d)
    let x := vs.getD 1 0
    if !(x == wordOfInt (-1) || decide (x.toNat ≤ 767)) then .error (s.illegal 3)
    let _ ← s'.check (s'.accessor s.cur) (vs.getD 0 0) n n .load
    match s'.promTargets x with
    | [] => s'.promLoad s [a, b] (vs.getD 0 0) z d
    | ts =>
      .error ((s'.promote ts (some s.me.launch)).await s [a, b] (some d)
        { id := 0, len := 0, finish := .prom (vs.getD 0 0) z d, left := ts.length })

/-! ## Atomics (R261, R278 to R280) -/

/-- The result of a returning atomic: the old value, extended by the type. -/
def amoOld (t : AType) (old : Nat) : Word :=
  match t with
  | .i32 => extend .i32 old | .n32 => extend .n32 old | _ => extend .i64 old

/-- Host pages take add, swp and cas (R280). -/
def hostAtomic : AmoOp → Bool
  | .add | .swp | .cas _ => true
  | _ => false

/-- A returning atomic at a located word: performed at once at the core's own port, else sent to its point of acceptance, behind what
holds back the slot's writes and behind held writes of the core to its bytes (R242, R250, R261). `k` takes the old value. -/
def State.amoReturn (s' s : State) (reads : List Nat) (d : Nat) (op : AmoOp) (t : AType) (c : Chunk) (b : Word) (k : Nat → State → Run) : Run :=
  let core := s.myCore
  let w := atypeBytes t
  let wait (id : Nat) (x : State) : Run := .error (x.await s reads (some d)
    { id := id, len := 0, finish := .atomic t d, parts := [{ off := 0, a := c.a, pa := c.loc.pa, n := w }] })
  let h := s'.holdsFor s.cur
  let (id, s') := (s'.sendBytes core c.pas).fresh
  if h = [] && !s'.heldOver core c && c.loc.poa == poaCore core then do
    let s' := s'.flush core c.loc.poa
    match s'.lostByte c with
    | some x => .error (trapAt 0x11 x 0)
    | none =>
      s'.ringTest [c]
      let (old, u) := s'.doAtomic core c.loc.poa c.loc.pa op t b
      k old (u.noteIssued c.loc.poa s.cur)
  else
    let m : Msg := { core := core, poa := c.loc.poa, tag := none, span := c.span, gate := h, rank := s.cur
                     body := .atomic op t c.loc.pa b (some (s.cur, s.me.uid, id)) }
    let s' := s'.closeFor core c
    wait id { s' with net := s'.net ++ [m] }

/-- A no-return atomic leaves as a tagged write, or stands in the write buffer while something holds it back (R242, R279). -/
def State.amoPut (s : State) (g id : Nat) (op : AmoOp) (t : AType) (pa poa : Nat) (b : Word) (h : List Hold) (span : Option Span) : Run :=
  let core := coreOf g
  let o : OpRef := { slot := g, uid := (s.slot g).uid, id := id, poa := poa }
  let body : Body := .atomic op t pa b none
  let s := (s.raiseOp g id 1 poa).modCore core fun x => x.forget pa (atypeBytes t)
  if h = [] then .ok (s.sendWrite core poa body [o] g span)
  else
    match s.newEntry core { key := (4096, poa), cells := [], opened := s.cycle, opener := g, ops := [o], hold := h, direct := some body, span := span } with
    | some s => .ok s
    | none => .error (.park .writeBuffer)

/-- What holds back an atomic of slot `g` on some bytes: what holds back its writes, and the entries that hold the bytes, which leave
before it (R261). -/
def State.holdsAmo (s : State) (g : Nat) (pas : List Nat) : List Hold :=
  (s.holdsFor g ++ ((s.core (coreOf g)).wb.filter fun e => pas.any e.covers).flatMap (·.hold)).eraseDups

/-- A no-return atomic: a tagged write, held back like a store (R242, R279). In the own scratchpad it is tested and performed before
the slot's next turn, unless something holds it back; in another core's the slot waits until its piece has been tested (R314).
DESIGN CHOICE (notes/assumptions/91.md). -/
def State.amoSend (s' s : State) (reads : List Nat) (op : AmoOp) (t : AType) (c : Chunk) (b : Word) : Run := do
  let core := s.myCore
  if 65535 ≤ s.me.st then .error (.park (.counterLimit 1))
  let (id, s') := (s'.sendBytes core c.pas).fresh
  let h := s'.holdsAmo s.cur c.pas
  if c.inPeer core then
    .error (((s'.raiseOp s.cur id 1 c.loc.poa).sendTests s.cur id h [(0, c)]).await s reads none
      { id := id, len := 0, finish := .amo op t c.loc.pa c.loc.poa b, parts := [{ off := 0, a := c.a, pa := c.loc.pa, n := c.n }] })
  else
    let go := c.inScratch && h == []
    if go then s'.ringTest [c]
    let u ← s'.amoPut s.cur id op t c.loc.pa c.loc.poa b h c.span
    let u := u.notePieces s.cur id [c] none
    .ok (if go then u.flush core c.loc.poa else u)

/-- An atomic instruction: `nr` is its no-return form. -/
def atomic (s : State) (op : Word → AmoOp) (t : AType) (nr : Bool) (d a b : Nat) (cas : Bool) : Outcome State Fault Refusal :=
  conclude s do
    let w := atypeBytes t
    let (vs, s') ← if cas then (if isPort d then .error (s.illegal 3) else s.operands [a, b, d] (some d))
      else s.operands [a, b] (if nr then none else some d)
    let o := op (vs.getD 2 0)
    let (cs, es) ← s'.check (s'.accessor s.cur) (vs.getD 0 0) w w (.atomic (hostAtomic o))
    let reads := if cas then [a, b, d] else [a, b]
    match cs with
    | [c] =>
      let s' := s'.installAll s.myCore es
      if nr then s'.amoSend s reads o t c (vs.getD 1 0)
      else s'.amoReturn s reads d o t c (vs.getD 1 0) fun old u => .ok (u.writeX d (amoOld t old))
    | _ => .ok s'

def execAmoAdd (t : AType) (nr : Bool) (d a b : Nat) (s : State) : Outcome State Fault Refusal := atomic s (fun _ => .add) t nr d a b false
def execAmoMin (t : AType) (nr : Bool) (d a b : Nat) (s : State) : Outcome State Fault Refusal := atomic s (fun _ => .min) t nr d a b false
def execAmoMax (t : AType) (nr : Bool) (d a b : Nat) (s : State) : Outcome State Fault Refusal := atomic s (fun _ => .max) t nr d a b false
def execAmoAnd (t : AType) (nr : Bool) (d a b : Nat) (s : State) : Outcome State Fault Refusal := atomic s (fun _ => .and) t nr d a b false
def execAmoOr (t : AType) (nr : Bool) (d a b : Nat) (s : State) : Outcome State Fault Refusal := atomic s (fun _ => .or) t nr d a b false
def execAmoXor (t : AType) (nr : Bool) (d a b : Nat) (s : State) : Outcome State Fault Refusal := atomic s (fun _ => .xor) t nr d a b false
def execAmoSwp (t : AType) (nr : Bool) (d a b : Nat) (s : State) : Outcome State Fault Refusal := atomic s (fun _ => .swp) t nr d a b false
def execAmoInc (t : AType) (nr : Bool) (d a b : Nat) (s : State) : Outcome State Fault Refusal := atomic s (fun _ => .inc) t nr d a b false
def execAmoCas (t : AType) (d a b : Nat) (s : State) : Outcome State Fault Refusal := atomic s .cas t false d a b true

/-! ## Append, seal and tail (R281, R282) -/

def recBytes : RecSize → Nat
  | .b8 => 8 | .b16 => 16 | .b32 => 32 | .b64 => 64

/-- A request to the home of a seal-class page; the slot waits for its reply (R152, R231). A write leaves when nothing holds back the
slot's writes (R250), a read when its fences have completed (R252). -/
def State.sealRequest (s' s : State) (reads : List Nat) (d : Nat) (c : Chunk) (es : List TlbEntry) (write : Bool)
    (body : Nat → Nat → Body) : Run :=
  let page := s.physical c.loc.asid (c.loc.va / c.loc.pageSize * c.loc.pageSize) c.loc.pageSize c.loc.leaf
  let gate := if write then s'.holdsFor s.cur else s.fenceGate s.cur
  let (id, s') := (s'.installAll s.myCore es).fresh
  let m : Msg := { core := s.myCore, poa := c.loc.poa, tag := none, body := body page id, span := c.span, gate := gate, rank := s.cur }
  .error ({ s' with net := s'.net ++ [m] }.await s reads (some d)
    { id := id, len := 0, finish := .word d, parts := [{ off := 0, a := c.a, pa := c.loc.pa, n := 8 }] })

/-- DEDUCED (notes/assumptions/15.md). -/
def execAppend (z : RecSize) (d a b : Nat) (s : State) : Outcome State Fault Refusal :=
  conclude s do
    let n := recBytes z
    let (vs, s') ← s.operands [a] (some d) (group b (n / 8))
    let (cs, es) ← s'.check (s'.accessor s.cur) (vs.getD 0 0) n n .append
    match cs with
    | c :: _ =>
      let bytes := (group b (n / 8)).flatMap fun r => bytesLe 8 (s.me.x r).toNat
      s'.sealRequest s [a] d c es true fun page id => .append page c.loc.pa bytes s.cur s.me.uid id
    | [] => .ok s'

/-- DEDUCED (notes/assumptions/15.md). -/
def execSealPage (d a : Nat) (s : State) : Outcome State Fault Refusal :=
  conclude s do
    let (vs, s') ← s.operands [a] (some d)
    let (cs, es) ← s'.check (s'.accessor s.cur) (vs.getD 0 0) 8 8 .sealOp
    match cs with
    | c :: _ => s'.sealRequest s [a] d c es true fun page id => .sealReq page c.loc.pa s.cur s.me.uid id
    | [] => .ok s'

def execTail (d a : Nat) (s : State) : Outcome State Fault Refusal :=
  conclude s do
    let (vs, s') ← s.operands [a] (some d)
    let (cs, es) ← s'.check (s'.accessor s.cur) (vs.getD 0 0) 8 8 .tailOp
    match cs with
    | c :: _ => s'.sealRequest s [a] d c es false fun page id => .tailReq page c.loc.pa s.cur s.me.uid id
    | [] => .ok s'

/-! ## Ranges (R283, R284, R286) -/

/-- Virtual address of an address in the global or stack aperture of the issuing slot. -/
def State.virtualOf (s : State) (a : Word) : Option Nat :=
  match aperture s.myCore a with
  | .virt va => some va
  | .stack o => some (s.me.stackBase + o)
  | _ => none

/-- The pages from `va` on that translate, `n` blocks of 64 KiB at most: their entries. One that is not resident does not. -/
def State.pagesFrom (s : State) (core asid : Nat) : Nat → Nat → List TlbEntry
  | 0, _ => []
  | n + 1, va =>
    match s.translate core asid va with
    | some (e, _) =>
      let r := s.pagesFrom core asid n (va / 65536 * 65536 + 65536)
      if leafTier e.leaf = 2 then r else e :: r.filter (· != e)
    | none => s.pagesFrom core asid n (va / 65536 * 65536 + 65536)

/-- The pages of a range of `len` bytes. -/
def State.pagesOf (s : State) (core asid va len : Nat) : List TlbEntry :=
  if len = 0 then [] else s.pagesFrom core asid ((va + len - 1) / 65536 - va / 65536 + 1) va

/-- Virtual address of a physical byte in a page; none where the page does not hold it (R216). -/
def State.addressIn (s : State) (asid : Nat) (e : TlbEntry) (pa : Nat) : Option Nat :=
  let w := e.leaf
  let fr := leafFrame w * 65536
  if leafHashed w && leafTier w == 0 && leafCls w != .host then
    let ms := s.members asid (bits w 54 47)
    let n := ms.length
    match ms.findIdx? fun m => decide (pcbase m + fr ≤ pa) && decide (pa < pcbase m + fr + chunkBytes e.size n) with
    | none => none
    | some i =>
      let q := (pa - (pcbase (ms.getD i 0) + fr)) / 256
      let j := q * n + (i + n - e.va / e.size % n) % n
      if j * 256 < e.size then some (e.va + j * 256 + pa % 256) else none
  else if fr ≤ pa ∧ pa < fr + e.size then some (e.va + (pa - fr)) else none

/-- One of `n` bytes from `pa` on lies in a range of `len` bytes at `va`. -/
def State.overlaps (s : State) (asid : Nat) (ps : List TlbEntry) (va len pa n : Nat) : Bool :=
  (List.range n).any fun i => ps.any fun e => match s.addressIn asid e (pa + i) with
    | some a => decide (va ≤ a) && decide (a < va + len)
    | none => false

/-- The operands of a range instruction: the range; none where it has no effect. -/
def State.rangeOf (s : State) (a len : Word) : Except Stop (Option (Nat × Nat)) :=
  if 2 ^ 30 < len.toNat then .error (s.illegal 3)
  else .ok (if len.toNat = 0 then none else (s.virtualOf a).map fun va => (va, len.toNat))

def execCinv (r : CacheRange) (s : State) : Outcome State Fault Refusal :=
  conclude s (match r with
    | .all => .ok (s.modCore s.myCore fun c => c.dropSectors fun _ _ => true)
    | .range a b => do
      let (vs, s') ← s.operands [a, b] none
      match ← s.rangeOf (vs.getD 0 0) (vs.getD 1 0) with
      | none => .ok s'
      | some (va, len) =>
        let asid := s.me.asidNo
        let ps := s'.pagesOf s.myCore asid va len
        .ok (s'.modCore s.myCore fun c => c.dropSectors fun _ sec => s'.overlaps asid ps va len (sec * 32) 32))

def execCwb (r : CacheRange) (s : State) : Outcome State Fault Refusal :=
  conclude s (match r with
    | .all => .ok (s.sendEntries s.myCore fun _ => true)
    | .range a b => do
      let (vs, s') ← s.operands [a, b] none
      match ← s.rangeOf (vs.getD 0 0) (vs.getD 1 0) with
      | none => .ok s'
      | some (va, len) =>
        let asid := s.me.asidNo
        let ps := s'.pagesOf s.myCore asid va len
        .ok (s'.sendEntries s.myCore fun e => e.pas.any fun pa => s'.overlaps asid ps va len pa 1))

/-- Requests of pf for the pages of a range that are mapped and readable (R283). -/
def State.prefetch (s : State) (t : PfTarget) (va len : Nat) : State :=
  let core := s.myCore
  let asid := s.me.asidNo
  let ps := (s.pagesOf core asid va len).filter fun e => leafR e.leaf
  match t with
  | .l1 | .l2 => { s with prefetches := s.prefetches ++ [{ core := core, asid := asid, va := va, left := len, toL2 := t == .l2 }] }
  | .fast | .cap =>
    let ids := s.pages.filter fun e => e.2.asid == asid && decide (e.2.va < va + len) && decide (va < e.2.va + e.2.size) && leafR (s.leafOfPage e.2)
    { s with steers := s.steers ++ ids.map fun e => (e.1, t == .fast) }
  | .shadow die =>
    let es := ps.filter fun e => leafCls e.leaf == .seal && leafTier e.leaf != 2 && dieOfCore (s.homeOf asid e.va e.size e.leaf) != die
    let page (e : TlbEntry) : Nat := s.physical asid e.va e.size e.leaf
    let blocks (e : TlbEntry) : List Nat := (List.range (e.size / 65536)).filter fun i =>
      decide (e.va + 65536 * i < va + len) && decide (va < e.va + 65536 * (i + 1))
    let new := (es.filter fun e => (s.sealAt (page e)).sealed).flatMap fun e =>
      (blocks e).map fun i => (die, page e + 65536 * i, (s.sealAt (page e)).gen)
    { s with shadowFills := s.shadowFills ++ new }

/-- DEDUCED (notes/assumptions/21.md). -/
def execPf (t : PfTarget) (a b : Nat) (s : State) : Outcome State Fault Refusal :=
  conclude s do
    let (vs, s') ← s.operands [a, b] none
    let x := vs.getD 0 0
    match ← s.rangeOf x (vs.getD 1 0) with
    | none => if vs.getD 1 0 ≠ 0 ∧ aperture s.myCore x = .unmapped then .error (trapAt 0x13 x 0) else .ok s'
    | some (va, len) => .ok (s'.prefetch t va len)

def execHint (a b : Nat) (s : State) : Outcome State Fault Refusal :=
  conclude s do
    let (vs, s') ← s.operands [a, b] none
    let x := vs.getD 1 0
    match s.virtualOf (vs.getD 0 0) with
    | none => .error (s.illegal 3)
    | some va =>
      let len := bits x 63 40 * 65536
      let asid := s.me.asidNo
      .ok { s' with pages := s'.pages.each fun _ p =>
        if p.asid = asid ∧ len ≠ 0 ∧ p.va < va + len ∧ va < p.va + p.size ∧ s.pageValid p then
          { p with prio := bits x 39 37, nextUse := (s.stepctr + bits x 36 0) % 2 ^ 64 } else p }

end Sys2Proof.Machine
end

