-- ==== Sys2Proof/Machine/Pages.lean ====
section
/-! DEFINITION. The ridge's work on pages: frames, page tables, maps and unmaps, page moves, evictions and the service of
page faults (R215, R216, R223 to R225, R234 to R238, R391, R393, R400, R469, R475). -/

namespace Sys2Proof.Machine

/-! ## Frames -/

/-- The key slot of an ASID, loaded with a key of the ridge's generator where it is not (R469).
DESIGN CHOICE (notes/assumptions/32.md). -/
def State.keyFor (s : State) (asid : Nat) : Nat × State :=
  let k := asid % 1024
  match Tab.get? s.keys k with
  | some _ => (k, s)
  | none => (k, { s with keys := Tab.set s.keys k (bytesLe 64 (Config.randomKey s.tick).toNat) })

/-- Hands out the 64 KiB frame at `pa`: every byte is zero under the key of the new mapping (R469).
DESIGN CHOICE (notes/assumptions/38.md). -/
def State.giveFrame (s : State) (pa asid key : Nat) : State :=
  { s.zeroFrame pa 65536 key with
    cores := s.cores.each fun _ c => c.forget pa 65536
    lost := s.lost.filter fun x => x * 32 < pa || pa + 65536 ≤ x * 32
    found := s.found.filter fun x => x * 32 < pa || pa + 65536 ≤ x * 32
    frames := Tab.set s.frames pa (65536, asid) }

/-- Where the capacity tier lies (R212). -/
def capacityLow : Nat := 0x010000000000
def capacityHigh : Nat := 0x028000000000

/-- Hands out the frames of a 64 KiB page with these parts: the frame field of its leaf (R216).
DESIGN CHOICE (notes/assumptions/33.md). -/
def State.placePage (s : State) (asid key : Nat) (p : LeafParts) : Option (Nat × State) :=
  if p.tier = 1 then
    (firstFit 0 (capacityHigh - capacityLow) 65536 (s.usedIn capacityLow capacityHigh)).map fun o =>
      ((capacityLow + o) / 65536, s.giveFrame (capacityLow + o) asid key)
  else
    let n := Config.pseudoChannelBytes
    if p.hashed then
      let ms := s.members asid p.home
      if ms = [] then none
      else (firstFit 0 n 65536 (ms.flatMap fun m => s.usedIn (pcbase m) (pcbase m + n))).map fun o =>
        (o / 65536, ms.foldl (fun s m => s.giveFrame (pcbase m + o) asid key) s)
    else (firstFit 0 n 65536 (s.usedIn (pcbase p.home) (pcbase p.home + n))).map fun o =>
      ((pcbase p.home + o) / 65536, s.giveFrame (pcbase p.home + o) asid key)

/-- The frames that a leaf of normal or seal class names (R216). -/
def State.framesOf (s : State) (asid : Nat) (w : Word) : List Nat :=
  let a := leafFrame w * 65536
  if (leafCls w == .normal || leafCls w == .seal) && leafTier w != 2 then
    if leafHashed w && leafTier w == 0 then (s.members asid (bits w 54 47)).map fun m => pcbase m + a else [a]
  else []

/-- Frees frames; a seal-class page among them is freed as R234 says. -/
def State.freeFrames (s : State) (fs : List Nat) : State :=
  { s with
    frames := s.frames.filter fun f => !fs.contains f.1
    seals := s.seals.each fun pa x => if fs.contains pa then x.free else x }

/-! ## Page tables (R223) -/

/-- Writes an entry of a page table. -/
def State.writeEntry (s : State) (at_ : Nat) (w : Word) : State := { s with mem := s.mem.write at_ (bytesLe 8 w.toNat) }

/-- The table that an entry points to; a new one, in a frame of its own homed on core 0, where it points to none. -/
def State.tableAt (s : State) (asid key at_ : Nat) : Option (Nat × State) :=
  let w := word (numLe (s.mem.read at_ 8))
  if pointerOk w then some (bits w 37 0 * 256, s)
  else (s.placePage asid key {}).map fun (f, s) => (f * 65536, s.writeEntry at_ (word (2 ^ 63 + f * 256)))

/-- The root table of an ASID, with a new one where it has none. -/
def State.rootTable (s : State) (asid key : Nat) : Option (Nat × State) :=
  let r := (s.asidOf asid).root
  if bit r 63 then some (bits r 45 13 * 8192, s)
  else (s.placePage asid key {}).map fun (f, s) =>
    (f * 65536, s.modAsid asid fun a => { a with root := word (2 ^ 63 + f * 65536) })

/-- The address of the leaf entry of a 64 KiB page, with the tables above it in place. -/
def State.entryFor (s : State) (asid key va : Nat) : Option (Nat × State) := do
  let (t, s) ← s.rootTable asid key
  let (t, s) ← s.tableAt asid key (t + va / 2 ^ 39 % 1024 * 8)
  let (t, s) ← s.tableAt asid key (t + va / 2 ^ 30 % 512 * 8)
  let (t, s) ← s.tableAt asid key (t + va / 2 ^ 21 % 512 * 8)
  some (t + va / 2 ^ 16 % 32 * 8, s)

/-! ## Maps (R235, R447) -/

/-- Maps one 64 KiB page: its entry, its frames and its lifetime record. The frame of a host or device page is the one that
`p` names; a page of tier 2 has its contents, all zero, in host memory (R238). DESIGN CHOICE (notes/assumptions/37.md). -/
def State.mapPage (s : State) (asid va : Nat) (p : LeafParts) (prio nextUse : Nat) : Option State := do
  let (key, s) := s.keyFor asid
  let (at_, s) ← s.entryFor asid key va
  let dram := p.cls < 2
  let (f, s) ← if dram && p.tier < 2 then s.placePage asid key p else some (if dram then 0 else p.frame, s)
  let w := leafOf { p with key := key, frame := f }
  if !s.leafValid asid 65536 w then none
  else
    let s := s.writeEntry at_ w
    let base := s.physical asid va 65536 w
    let s := if p.cls = 1 ∧ p.tier < 2 then
        { s with seals := Tab.set s.seals base { Tab.getD s.seals base { size := 65536 } with size := 65536, tail := 0, sealed := false } }
      else s
    let s := { s with withdrawn := s.withdrawn.filter fun r => !(r.1 == asid && decide (r.2.1 < va + 65536) && decide (va < r.2.1 + r.2.2)) }
    if dram then
      let (id, s) := s.fresh
      let host : Option (List Host.Cell × Option SealInfo) :=
        if p.tier = 2 then some ([], if p.cls = 1 then some { size := 65536 } else none) else none
      some { s with pages := Tab.set s.pages id { asid := asid, va := va, size := 65536, prio := prio, nextUse := nextUse, onHost := host } }
    else some s

/-- Maps `n` pages from `va` on; none where one cannot be mapped. -/
def State.mapPages (asid : Nat) (p : LeafParts) (prio nextUse : Nat) : Nat → Nat → State → Option State
  | 0, _, s => some s
  | n + 1, va, s =>
    match s.mapPage asid va p prio nextUse with
    | some s => State.mapPages asid { p with frame := p.frame + 1 } prio nextUse n (va + 65536) s
    | none => none

/-! ## Accesses under way to frames -/

/-- A request touches the range of `n` bytes at `lo`. -/
def Body.touches (b : Body) (lo n : Nat) : Bool :=
  let inside (a : Nat) : Bool := decide (lo ≤ a) && decide (a < lo + n)
  match b with
  | .write cs => cs.any fun c => inside c.1
  | .atomic _ _ pa _ _ => inside pa
  | .read r | .test r => inside r.pa || r.sectors.any fun x => inside (x * 32)
  | .append p _ _ _ _ _ | .sealReq p _ _ _ _ | .tailReq p _ _ _ _ => inside p

/-- An entry of a write buffer touches a range. -/
def WbEntry.touches (e : WbEntry) (lo n : Nat) : Bool :=
  (e.cells.any fun c => decide (lo ≤ c.pa) && decide (c.pa < lo + n)) ||
  match e.direct with | some b => b.touches lo n | none => false

/-- Every core sends its buffered stores to these frames (R237 step 2). -/
def State.sendFrames (s : State) (fs : List Nat) : State :=
  s.cores.foldl (fun s c => s.sendEntries c.1 fun e => fs.any fun f => e.touches f 65536) s

/-- No access to these frames is under way (R227). -/
def State.drained (s : State) (fs : List Nat) : Bool :=
  fs.all fun f => (s.net.all fun m => !m.body.touches f 65536) && s.cores.all fun c => c.2.wb.all fun e => !e.touches f 65536

/-! ## Unmaps (R234, R447) -/

/-- The pages of an ASID that lie in a range. -/
def State.pagesIn (s : State) (asid va bytes : Nat) : Tab Page :=
  s.pages.filter fun p => p.2.asid == asid && decide (va ≤ p.2.va) && decide (p.2.va < va + bytes)

/-- Clears the entries of the 64 KiB pages of a range. -/
def State.clearEntries (s : State) (asid va : Nat) : Nat → State
  | 0 => s
  | n + 1 =>
    let s := match s.leafAddr asid (va + n * 65536) 65536 with | some a => s.writeEntry a 0 | none => s
    s.clearEntries asid va n

/-- Frames of the pages of a range. -/
def State.framesIn (s : State) (asid va bytes : Nat) : List Nat :=
  (s.pagesIn asid va bytes).flatMap fun p => s.framesOf asid (s.leafOfPage p.2)

/-- Unmaps a range whose accesses have drained: its entries, its frames, its records. Launches of the ASID that run have it
withdrawn (R400). DESIGN CHOICE (notes/assumptions/35.md). -/
def State.unmapNow (s : State) (asid va bytes : Nat) : State :=
  let fs := s.framesIn asid va bytes
  let gone := (s.pagesIn asid va bytes).keys
  let s := ((s.clearEntries asid va (bytes / 65536)).raiseGen asid).freeFrames fs
  let runs := s.launches.any fun l => l.2.asid == asid && l.2.placed && l.2.status == 0
  { s with
    pages := s.pages.filter fun p => !gone.contains p.1
    withdrawn := if runs then (asid, va, bytes) :: s.withdrawn else s.withdrawn }

/-! ## Stack windows (R475) -/

/-- Lowest address of the stack range. -/
def stackRange : Nat := 0x1FC0000000000
def stackRangeEnd : Nat := 0x2000000000000

/-- The windows of an ASID: address and bytes. -/
def State.windowPages (s : State) (asid : Nat) : List (Nat × Nat) :=
  (s.pages.filter fun p => p.2.asid == asid && decide (stackRange ≤ p.2.va)).map fun p => (p.2.va, p.2.size)

/-- Where a new window of `n` bytes lies. DESIGN CHOICE (notes/assumptions/34.md). -/
def State.pickWindow (s : State) (asid n : Nat) : Option Nat :=
  let used := s.windowPages asid
  let c := stackRange + Config.stackPick s.tick % 2 ^ 26 * 65536
  (firstFit stackRange stackRangeEnd n used).map fun f =>
    if c + n ≤ stackRangeEnd ∧ used.all fun u => u.1 + u.2 ≤ c ∨ c + n ≤ u.1 then c else f

/-- Maps a stack window of `n` bytes (rounded up to pages) for a root unit that starts on a core: its base. -/
def State.mapStack (s : State) (asid core n : Nat) : Option (Nat × State) :=
  let pages := ceilDiv n 65536
  match s.pickWindow asid (pages * 65536) with
  | none => none
  | some base =>
    (State.mapPages asid { home := core, r := true, w := true } 0 0 pages base s).map fun s => (base, s)

/-! ## Moves and evictions (R236 to R238) -/

/-- Host memory of the port that an ASID's job belongs to can be reached (R400). -/
def State.hostReachable (s : State) (asid : Nat) : Bool :=
  s.jobs.any fun j => j.2.asid == asid && j.2.status == 0 && !(s.port j.2.port).d3

/-- The entry of a page in another tier: a new frame in the fast or the capacity tier; none where there is none. In host memory
(tier 2) a page has no frame. -/
def State.placeMoved (s : State) (asid : Nat) (w : Word) (tier : Nat) : Option (Word × State) :=
  if tier = 2 then if s.hostReachable asid then some (leafMoved w 2 0, s) else none
  else
    (s.placePage asid (leafKey w) { tier := tier, hashed := leafHashed w, home := bits w (if leafHashed w then 54 else 56) 47 }).map
      fun (f, s) => (leafMoved w tier f, s)

/-- Starts the move of a page into a tier; none where it moves already or finds no frame.
DESIGN CHOICE (notes/assumptions/35.md). -/
def State.startMove (s : State) (id tier : Nat) : Option State :=
  match Tab.get? s.pages id with
  | none => none
  | some p =>
    match s.leafAddr p.asid p.va p.size with
    | none => none
    | some at_ =>
      let w := word (numLe (s.mem.read at_ 8))
      if p.moving then none
      else
        (s.placeMoved p.asid w tier).map fun (new, s) =>
          let m : Move := { page := id, tier := tier, step := 1, leafAt := at_, old := w, new := new }
          { s.modPage id fun p => { p with moving := true } with moves := s.moves ++ [m] }

/-- A page leaves the fast tier for the capacity tier, and where that has no frame, for host memory (R236, R238).
DESIGN CHOICE (notes/assumptions/35.md). -/
def State.evict (s : State) (id : Nat) : Option State :=
  match s.startMove id 1 with
  | some t => some t
  | none => s.startMove id 2

/-- The seal state that stands at one frame goes to another (R237). -/
def State.moveSeal (s : State) (a b : Nat) : State :=
  match Tab.get? s.seals a with
  | some x => { s with seals := Tab.set s.seals b x }
  | none => s

/-- Shadow frames of one block are those of another; what was a shadow of that one is none any more. -/
def State.retagShadows (s : State) (a b : Nat) : State :=
  let retag (f : Shadow) : Shadow := if f.pa = a then { f with pa := b } else f
  { s with dies := s.dies.each fun _ d => { d with shadows := (d.shadows.filter fun f => f.pa != b).map retag } }

/-- Copies a page from its old frames to its new ones, with its seal state and the tags of its shadow frames (R237). -/
def State.copyPage (s : State) (p : Page) (old new : Word) : State :=
  let s := (List.range p.size).foldl (fun s i =>
    s.putByte (s.physical p.asid (p.va + i) p.size new) (s.byteAt (s.physical p.asid (p.va + i) p.size old))) s
  let a := s.physical p.asid p.va p.size old
  let b := s.physical p.asid p.va p.size new
  if leafCls old = Cls.seal then (s.moveSeal a b).retagShadows a b else s

/-- Sends a page to host memory (R238): its bytes that are not zero, and its seal state. DESIGN CHOICE (notes/assumptions/37.md). -/
def State.sendPage (s : State) (id : Nat) (p : Page) (old : Word) : State :=
  let cells : List Host.Cell := (List.range p.size).filterMap fun i =>
    let b := s.byteAt (s.physical p.asid (p.va + i) p.size old)
    if b = blank then none else some (i, b)
  let info := if leafCls old = Cls.seal then Tab.get? s.seals (s.physical p.asid p.va p.size old) else none
  s.modPage id fun p => { p with onHost := some (cells, info) }

/-- Brings a page back from host memory into its new frames (R238). DESIGN CHOICE (notes/assumptions/37.md). -/
def State.bringPage (s : State) (p : Page) (cells : List Host.Cell) (info : Option SealInfo) (new : Word) : State :=
  let s := cells.foldl (fun s c => s.putByte (s.physical p.asid (p.va + c.1) p.size new) c.2) s
  let b := s.physical p.asid p.va p.size new
  match info with
  | some x => { s with seals := Tab.set s.seals b x }.retagShadows b b
  | none => s

/-- Step 3 of a move: the contents of the page go where its new entry says. -/
def State.carryPage (s : State) (m : Move) (p : Page) : State :=
  match p.onHost with
  | some (cells, info) => s.bringPage p cells info m.new
  | none => if m.tier = 2 then s.sendPage m.page p m.old else s.copyPage p m.old m.new

/-- Sectors of a page that hold an uncorrectable error. -/
def State.pageLost (s : State) (fs : List Nat) : Bool :=
  s.lost.any fun x => fs.any fun f => decide (f ≤ x * 32) && decide (x * 32 < f + 65536)

/-- Takes the next of steps 1 to 3 of a move (R237); none while step 3 waits for accesses to drain.
DESIGN CHOICE (notes/assumptions/35.md). DESIGN CHOICE (notes/assumptions/37.md). -/
def State.moveStep (s : State) (m : Move) : Option State :=
  match Tab.get? s.pages m.page with
  | none => some { s with moves := s.moves.erase m }
  | some p =>
    let fs := s.framesOf p.asid m.old
    let next (s : State) (k : Nat) : State := { s with moves := s.moves.map fun x => if x = m then { x with step := k } else x }
    match m.step with
    | 1 => some (next (s.writeEntry m.leafAt (leafMoved m.old 2 (leafFrame m.old))) 2)
    | 2 => some (next ((s.raiseGen p.asid).sendFrames fs) 3)
    | _ =>
      if !s.drained fs then none
      else if s.pageLost fs then
        let s := (s.freeFrames (s.framesOf p.asid m.new)).modPage m.page fun p => { p with moving := false, fate := 3 }
        some { s with moves := s.moves.erase m }
      else some (next (s.carryPage m p) 4)

/-- Steps 4 and 5 of a move: the new entry, and the old frames are free, a seal-class one as R234 says. -/
def State.moveEnd (s : State) (m : Move) : State :=
  match Tab.get? s.pages m.page with
  | none => { s with moves := s.moves.erase m }
  | some p =>
    let old := s.framesOf p.asid m.old
    let s := (s.writeEntry m.leafAt m.new).freeFrames old
    { s.modPage m.page fun p => { p with moving := false, onHost := if m.tier = 2 then p.onHost else none } with moves := s.moves.erase m }

/-- Frames of a leaf that lie in a stack of the fast tier, ascending. -/
def framesInStack (fs : List Nat) (stack : Nat) : List Nat := fs.filter fun f => f / 2 ^ 36 == stack && decide (f < 0x00C000000000)

/-- The victim of an eviction from a stack (R236). -/
def State.victim (s : State) (stack : Nat) : Option Nat :=
  let cands := s.pages.filterMap fun p =>
    let w := s.leafOfPage p.2
    match framesInStack (s.framesOf p.2.asid w) stack with
    | f :: r => if p.2.moving || leafTier w != 0 then none else some (p.1, p.2.prio, p.2.nextUse - s.stepctr, (f :: r).foldl Nat.min f)
    | [] => none
  (cands.foldl (fun b c => match b with
    | none => some c
    | some x =>
      let (_, p, d, f) := c
      let (_, p', d', f') := x
      if p < p' || (p == p' && (decide (d' < d) || (d == d' && decide (f < f')))) then some c else some x) none).map (·.1)

/-- Free 64 KiB frames of a stack. -/
def State.freeIn (s : State) (stack : Nat) : Nat :=
  64 * (Config.pseudoChannelBytes / 65536) - (s.frames.filter fun f => f.1 / 2 ^ 36 == stack && decide (f.1 < 0x00C000000000)).length

/-- The low mark of a stack (R425). -/
def State.lowMark (s : State) (stack : Nat) : Nat := Tab.getD s.lowmark stack 1024

/-- The stacks that are to hold a page of the fast tier. -/
def State.stacksFor (s : State) (p : Page) (w : Word) : List Nat :=
  if leafHashed w then (s.members p.asid (bits w 54 47)).map stackOf else [stackOf (bits w 56 47)]

/-- The homes of a page in the fast tier. -/
def State.homesFor (s : State) (p : Page) (w : Word) : List Nat := if leafHashed w then s.members p.asid (bits w 54 47) else [bits w 56 47]

/-- The pseudo-channels of some cores have a frame free at one offset. -/
def State.roomIn (s : State) (ms : List Nat) : Bool :=
  (firstFit 0 Config.pseudoChannelBytes 65536 (ms.flatMap fun m => s.usedIn (pcbase m) (pcbase m + Config.pseudoChannelBytes))).isSome

/-- The stacks that have no free frame for a page that is to come into the fast tier (R236); all of its stacks where each by itself
has one. -/
def State.fullStacks (s : State) (p : Page) (w : Word) : List Nat :=
  let ms := s.homesFor p w
  let full := (s.stacksFor p w).filter fun st => !s.roomIn (ms.filter fun m => stackOf m == st)
  if full = [] then s.stacksFor p w else full

/-- Frees frames for a page that is to come into the fast tier: an eviction starts, or one under way is waited for; none
where nothing can be freed (R236). -/
def State.makeRoom (s : State) (p : Page) (w : Word) : Option State :=
  let inStacks := s.fullStacks p w
  if s.moves.any fun m => m.tier != 0 && (inStacks.any fun st => match Tab.get? s.pages m.page with
      | some q => framesInStack (s.framesOf q.asid m.old) st != []
      | none => false) then some s
  else inStacks.findSome? fun st => (s.victim st).bind s.evict

/-! ## Service of page faults (R391, R393, R400) -/

/-- How the service of a faulting piece stands. -/
inductive Service where
  | ready
  | wait (s : State)
  | reject (reason : Nat)

/-- Why an access to an address is rejected that no page of an allocation holds (R400): it was withdrawn, its entry is one that no
service mends, or nothing is allocated there. DESIGN CHOICE (notes/assumptions/35.md). -/
def State.unallocated (s : State) (asid va : Nat) : Nat :=
  let r := (s.asidOf asid).root
  if s.withdrawn.any fun w => w.1 == asid && decide (w.2.1 ≤ va) && decide (va < w.2.1 + w.2.2) then 1
  else if s.entryStands va levels (bits r 45 13 * 8192) then 4
  else 0

/-- The service of a page that is not in reach: it is waited for while it moves, and brought into the fast tier else (R391). -/
def State.servePage (s : State) (id : Nat) (p : Page) : Service :=
  let w := s.leafOfPage p
  if p.moving then .wait s
  else if p.fate ≠ 0 then .reject p.fate
  else if p.onHost.isSome && !s.hostReachable p.asid then .reject 2
  else if leafTier w ≠ 2 then .reject 4
  else
    match s.startMove id 0 with
    | some s => .wait s
    | none => match s.makeRoom p w with | some s => .wait s | none => .reject 4

/-- The service of a global virtual address. -/
def State.serveVa (s : State) (asid va : Nat) : Service :=
  let absent : Service :=
    match s.pages.find? fun p => p.2.asid == asid && decide (p.2.va ≤ va) && decide (va < p.2.va + p.2.size) with
    | none => .reject (s.unallocated asid va)
    | some (id, p) => s.servePage id p
  if !bit (s.asidOf asid).root 63 then .reject 0
  else
    match s.walk asid va with
    | some (_, w) => if leafTier w = 2 then absent else .ready
    | none => absent

/-- The virtual address of a generic address in the global or stack aperture. -/
def vaOf (core stackBase : Nat) (a : Word) : Option Nat :=
  match aperture core a with
  | .virt va => some va
  | .stack o => some (stackBase + o)
  | _ => none

/-- The service of a generic address for a slot or an engine. -/
def State.serve (s : State) (x : Accessor) (a : Word) : Service :=
  match vaOf x.core x.stackBase a with
  | some va => s.serveVa x.asid va
  | none => .ready

end Sys2Proof.Machine
end

