-- ==== Sys2Proof/Machine/Work.lean ====
section
/-! DEFINITION. Threads and the places they stand in: empty slots, the launch order (R181), eligibility for migration
(R178), moving a thread, and messages to mailboxes (R191, R192). -/

namespace Sys2Proof.Machine

/-- A pre-emption stops or has saved the launch (R405), which is not cancelled: no thread of it starts.
DESIGN CHOICE (notes/assumptions/57.md). -/
def State.frozen (s : State) (l : Nat) : Bool :=
  !(s.launch l).cancelled && s.preempts.any fun p => (s.launchesOf p.level p.key).contains l

/-- Its engines rest: a pre-emption has come to step 4 (R405). -/
def State.enginesRest (s : State) (l : Nat) : Bool :=
  !(s.launch l).cancelled && s.preempts.any fun p => decide (4 ≤ p.phase) && (s.launchesOf p.level p.key).contains l

/-! ## Threads -/

/-- Every thread that the device holds: in slots, waiting, resting, saved or moving. -/
def State.threads (s : State) : List Slot :=
  s.slots.map (·.2) ++
  (s.launches.flatMap fun e =>
    (e.2.tasks ++ e.2.resting.map (·.2) ++ (match e.2.saved with | some l => l | none => [])).map (·.slot)) ++
  s.migrations.map (·.thread)

/-- Changes a thread's unit. -/
def Slot.modUnit (sl : Slot) (uid : Nat) (f : UnitInfo → UnitInfo) : Slot :=
  match sl.unit with
  | some u => if u.uid = uid then { sl with unit := some (f u) } else sl
  | none => sl

/-- Changes a unit wherever its thread stands. -/
def State.modUnit (s : State) (uid : Nat) (f : UnitInfo → UnitInfo) : State :=
  let onThread (t : Thread) : Thread := { t with slot := t.slot.modUnit uid f }
  { s with
    slots := s.slots.each fun _ x => x.modUnit uid f
    launches := s.launches.each fun _ l => { l with
      tasks := l.tasks.map onThread
      resting := l.resting.each fun _ t => onThread t
      saved := l.saved.map (·.map onThread) }
    migrations := s.migrations.map fun m => { m with thread := m.thread.modUnit uid f } }

/-- The slot that holds a unit. -/
def State.slotOfUnit (s : State) (uid : Nat) : Option Nat :=
  (s.slots.find? fun e => match e.2.unit with | some u => u.uid == uid | none => false).map (·.1)

/-! ## Places -/

/-- The lowest-numbered empty slot of a core. -/
def State.emptyOn (s : State) (c : Nat) : Option Nat := (slotsOf c).find? fun g => (s.slot g).status == .empty

/-- The scratchpad of a core that a stage of a launch may use: no other launch holds it (R165). -/
def State.scratchFor (s : State) (l : Nat) (st : Stage) (c : Nat) : Bool :=
  st.scratch == 0 || (s.core c).scratchOwner == none || (s.core c).scratchOwner == some l

/-- A core's scratchpad comes to a launch: every byte is zero (R165). -/
def State.takeScratch (s : State) (l c : Nat) (st : Stage) : State :=
  if st.scratch = 0 ∨ (s.core c).scratchOwner = some l then s
  else
    let pa := scratchPa c 0
    { s.modCore c fun k => { k with scratchOwner := some l } with
      mem := s.mem.zero pa (pa + 0x40000)
      lost := s.lost.filter fun x => x * 32 < pa || pa + 0x40000 ≤ x * 32 }

/-- Number of empty slots of a core. -/
def State.emptyCount (s : State) (c : Nat) : Nat := ((slotsOf c).filter fun g => (s.slot g).status == .empty).length

/-- Number of running slots of a core (R177). -/
def State.loadOf (s : State) (c : Nat) : Nat := ((slotsOf c).filter fun g => (s.slot g).runs).length

/-- Cores of a die, ascending. -/
def coresOfDie (d : Nat) : List Nat := (List.range 192).map (d * 192 + ·)

/-- The launch order of a core (R181). -/
def State.launchOrder (s : State) (l c : Nat) : List Nat :=
  [c] ++ (chainAfter c).filter (s.holdsUnit · l) ++
  ((diesFrom (dieOfCore c)).drop 1).flatMap fun d => (coresOfDie d).filter (s.holdsUnit · l)

/-- A thread starts or goes on in an empty slot. Releases that the slot's last unit has left running go on there.
DEDUCED (notes/assumptions/14.md). -/
def State.putThread (s : State) (g : Nat) (t : Slot) : State :=
  s.setSlot g { t with status := .running, blocks := [], yielded := none, releases := (s.slot g).releases }

/-- The slot becomes empty; the releases that its unit has left running go on. -/
def State.vacate (s : State) (g : Nat) : State := s.setSlot g { releases := (s.slot g).releases }

/-- The thread of a slot as it leaves it: what belongs to the core stays there. -/
def Slot.leaving (sl : Slot) : Slot :=
  { sl with status := .running, blocks := [], yielded := none, releases := [], fenced := [] }

/-- The release that a thread waits for has completed (R179, R199). -/
def State.mayStart (s : State) (t : Thread) : Bool :=
  match t.after with
  | none => true
  | some (g, id) => (s.slot g).releases.all (·.id != id)

/-! ## Eligibility for migration (R178) -/

def Slot.noLocalPort (s : State) (sl : Slot) : Bool :=
  sl.ports.toList.all fun p => match p with
    | .unbound => true
    | .pop q _ | .push q _ => match Tab.get? s.queues q with | some x => x.ring | none => true
    | _ => false

/-- The first four conditions of R178. DEDUCED (notes/assumptions/24.md). -/
def State.movable (s : State) (sl : Slot) : Bool :=
  sl.noLocalPort s && sl.lease == none && sl.ld == 0 && sl.st == 0 && sl.cp == 0 && sl.tb == 0 &&
  match sl.unit with
  | some u => ((s.launch u.launch).stage u.stage).scratch == 0
  | none => false

/-- The state in which a slot is reserved while its thread moves (R179): it keeps its unit and issues nothing. -/
def Slot.reserved (sl : Slot) : Slot := { sl with status := .stopped, blocks := [] }

/-- Starts the migration of slot `g` to a core (R179): it issues no more, and its core performs a device-scope release of all
its earlier stores before the message leaves. DEDUCED (notes/assumptions/24.md). -/
def State.startMigration (s : State) (g target : Nat) : State :=
  let rid := s.nextId
  let m : Migration := { origin := g, release := rid, target := target, thread := (s.slot g).leaving, back := false }
  { (s.modSlot g Slot.reserved).startRelease g .dev false with migrations := s.migrations ++ [m] }

/-! ## Completion of stores (R16) -/

/-- One piece of a store has been accepted: ST falls with the last one. -/
def Slot.accept (sl : Slot) (id : Nat) : Slot :=
  match sl.stores.find? (·.id == id) with
  | none => sl
  | some o =>
    if o.left ≤ 1 then { sl with st := sl.st - 1, stores := sl.stores.filter (·.id != id) }
    else { sl with stores := sl.stores.map fun x => if x.id = id then { x with left := x.left - 1 } else x }

def State.accept (s : State) (o : OpRef) : State :=
  if s.stillUnit o.slot o.uid || (s.slot o.slot).unit == none then
    (s.modSlot o.slot (·.accept o.id)).settle (coreOf o.slot)
  else s

/-! ## Mailboxes -/

/-- A message is discarded (R191, R474): it leaves its sender's ST, and a record of kind 2 is posted.
DEDUCED (notes/assumptions/28.md). -/
def State.discard (s : State) (m : Mail) : State :=
  let s := match m.op with | some o => s.accept o | none => s
  let dest := word (m.box * 65536 + m.core)
  match m.fabric with
  | none => s.faultRecord { source := m.sender, kind := 2, tip := m.tip, tinfo := dest } (s.launch m.launch)
  | some _ =>
    s.faultRecord { source := 13408 + 4 * dieOfCore m.core, kind := 2, tinfo := dest } { job := m.launch, asid := (s.job m.launch).asid }

/-- A message of a launch, which leaves with the launch's last unit on the core. -/
def Mail.ofLaunch (m : Mail) (l : Nat) : Bool := m.fabric == none && m.launch == l

/-- The next waiting message enters an empty mailbox (R191). DEDUCED (notes/assumptions/26.md). -/
def State.fillMailbox (s : State) (c box : Nat) : State :=
  let x := s.core c
  if (Tab.get? x.mail box).isSome then s
  else
    match x.waitMail.find? fun m => m.box == box with
    | none => s
    | some m =>
      let s := { s with mem := s.mem.write (mailboxPa c box 0) m.body }.modCore c fun x =>
        { x with mail := Tab.set x.mail box m, waitMail := x.waitMail.erase m }
      let s := match m.op with | some o => s.accept o | none => s
      if m.counted && m.fabric == none then s.traffic m.launch false m.dieFrom (dieOfCore c) else s

/-- Lets waiting messages enter every mailbox of a core. -/
def State.fillMailboxes (s : State) (c : Nat) : State := (List.range 16).foldl (fun s b => s.fillMailbox c b) s

/-- Discards a launch's messages on a core that holds none of its units any more (R192). -/
def State.sweepMail (s : State) (c l : Nat) : State :=
  if s.holdsUnit c l then s
  else
    let x := s.core c
    let gone := (x.mail.filter fun e => e.2.ofLaunch l).map (fun e => { e.2 with op := none }) ++ x.waitMail.filter (·.ofLaunch l)
    let s := s.modCore c fun x => { x with
      mail := x.mail.filter fun e => !e.2.ofLaunch l, waitMail := x.waitMail.filter fun m => !m.ofLaunch l }
    (gone.foldl State.discard s).fillMailboxes c

end Sys2Proof.Machine
end

