-- ==== Sys2Proof/Machine/Engine.lean ====
section
/-! DEFINITION. What the engines beside the slots do: reads and writes of memory on behalf of a slot (R263, R393), copies
(R299 to R302), generators (R303 to R305) and the reference accelerator (R306, R307). -/

namespace Sys2Proof.Machine

/-! ## Errors (R298) -/

/-- A pending error of a unit's command; an uncorrectable one is counted (R472). -/
def State.pendError (s : State) (g uid : Nat) (e : AsyncError) : State :=
  let s := if e.cause = 0x11 then s.countLost else s
  if s.stillUnit g uid ∨ (s.slot g).unit = none then s.modSlot g fun sl => { sl with pend := sl.pend ++ [e] } else s

/-! ## Memory -/

/-- What an engine's read gives. -/
inductive Pull where
  | bytes (bs : List Byte) (s : State)
  /-- It waits; the new state where something was asked for. -/
  | wait (s : Option State)
  | fail (cause : Nat) (addr : Word) (tinfo : Nat)

/-- What an engine's write gives. -/
inductive Put where
  | done (s : State)
  | wait (s : Option State)
  | fail (addr : Word)

/-- Key of a host read of an engine: the number of its work and how far it has come. -/
def engineKey (id k : Nat) : Nat := 2 ^ 192 + id * 2 ^ 128 + k

/-- The parts of an access that an engine makes. -/
def State.partsOf (s : State) (x : Accessor) (a : Word) (n : Nat) : List (Word × Nat × Located) :=
  (chunksOf (n / 64 + 2) a n).map fun p => (p.1, p.2, s.locate x p.1)

/-- The first part that is out of reach: a failure, or a page that the ridge has to bring (R393). -/
def State.outOfReach (s : State) (x : Accessor) (op : Op) (ps : List (Word × Nat × Located)) : Option Pull :=
  ps.findSome? fun (a, n, l) =>
    match boundAt x a n with
    | some (t, b) => some (.fail 0x04 b t)
    | none =>
      match l with
      | .unmapped => some (.fail 0x13 a 0)
      | .bound t => some (.fail 0x04 a t)
      | .pageFault =>
        match s.serve x a with
        | .ready => none
        | .wait s' => some (.wait (if s' = s then none else some s'))
        | .reject r => some (.fail 0x14 a (2 * r))
      | .at_ loc _ =>
        if region loc.pa = .none then some (.fail 0x13 a 0)
        else (protectionOf s op { a := a, n := n, loc := loc }).map fun (b, t) => .fail 0x06 b t

/-- Located parts. -/
def chunksAt (ps : List (Word × Nat × Located)) : List Chunk :=
  ps.filterMap fun (a, n, l) => match l with | .at_ loc _ => some { a := a, n := n, loc := loc } | _ => none

/-- The first sector of an access that holds an uncorrectable error (R399). -/
def State.lostIn (s : State) (cs : List Chunk) : Option Word := cs.findSome? s.lostByte

/-- The translation that a located byte came from. -/
def Loc.entry (l : Loc) : TlbEntry :=
  { asid := l.asid, gen := 0, va := l.va / l.pageSize * l.pageSize, size := l.pageSize, leaf := l.leaf, sealed := l.sealed, sealGen := l.sealGen }

/-- An engine reaches the pages of an access through their key slots (R226, R418). -/
def State.reachAll (s : State) (cs : List Chunk) : State :=
  (cs.filter fun c => c.loc.cls.isSome).foldl (fun s c =>
    (s.dramOf c.loc.entry).foldl (fun s r => s.reachThrough r.1 r.2 (some (leafKey c.loc.leaf))) s) s

/-- The bytes of an access at their points of acceptance; those of host pages are given. -/
def State.engineBytes (s : State) (host : List Host.Cell) (cs : List Chunk) : List Byte :=
  cs.flatMap fun c => c.pas.map fun a => (Tab.get? host a).getD (s.pageByte (s.sealPage c.loc) a)

/-- Some bytes of an access have their home on another die than the engine. -/
def awayFrom (core : Nat) (cs : List Chunk) : Bool :=
  cs.any fun c => match dieOfPoa c.loc.poa with | some d => d != dieOfCore core | none => false

/-- The links between an engine and the homes of an access carry traffic (R438). -/
def State.wayTo (s : State) (core : Nat) (cs : List Chunk) : Bool :=
  cs.all fun c => match dieOfPoa c.loc.poa with | some d => s.wayOpen (dieOfCore core) d | none => true

/-- A step of an access whose bytes have their home on another die: the request needs 8 ns, then the home acts, then the answer
needs 8 ns (R456). -/
inductive Far where
  | act
  | wait (s : Option State)
  | ends (bs : List Byte) (s : State)

def State.farStep (s : State) (away carried : Bool) (key : Nat) : Far :=
  if !away then .act
  else
    match Tab.get? s.remote key with
    | none => .wait (some { s with remote := Tab.set s.remote key (s.cycle, none) })
    | some (c, r) =>
      if !s.aged (some c) || !carried then .wait none
      else match r with
        | none => .act
        | some bs => .ends bs { s with remote := Tab.del s.remote key }

/-- The home has acted: the answer is on its way. -/
def State.farActed (s : State) (key : Nat) (bs : List Byte) : State := { s with remote := Tab.set s.remote key (s.cycle, some bs) }

/-- An engine reads `n` bytes at `a` at their points of acceptance (R263). -/
def State.pull (s : State) (x : Accessor) (a : Word) (n key : Nat) : Pull :=
  let ps := s.partsOf x a n
  match s.outOfReach x .load ps with
  | some r => r
  | none =>
    let cs := chunksAt ps
    let s := s.reachAll cs
    match s.lostIn cs with
    | some b => .fail 0x11 b 0
    | none =>
      match (cs.filter Chunk.isHost).flatMap Chunk.pas with
      | [] =>
        match s.farStep (awayFrom x.core cs) (s.wayTo x.core cs) key with
        | .wait t => .wait t
        | .ends bs t => .bytes bs t
        | .act =>
          let bs := s.engineBytes [] cs
          if awayFrom x.core cs then .wait (some (s.farActed key bs)) else .bytes bs s
      | pas =>
        match Tab.get? s.hostData key with
        | some (some cells) => .bytes (s.engineBytes cells cs) { s with hostData := Tab.del s.hostData key }
        | some none => .fail 0x14 a 4
        | none =>
          if s.hostReads.any (·.id == key) then .wait none
          else
            let r : HostRead := { who := none, pas := pas, id := key, spans := (cs.filter Chunk.isHost).filterMap Chunk.span, core := x.core, born := s.nextId, bus := pas.map s.busAddress }
            .wait (some { s with hostReads := s.hostReads ++ [r] })

/-- Classes and regions that take no copy (R229, R300). -/
def copyRefuses (l : Loc) : Bool :=
  match l.cls with
  | some .device | some .seal => true
  | _ => match region l.pa with | .device _ => true | _ => false

/-- An engine writes bytes at `a` at their points of acceptance; without a key it does not wait for those of another die. -/
def State.put (s : State) (x : Accessor) (a : Word) (bs : List Byte) (key : Option Nat) : Put :=
  let ps := s.partsOf x a bs.length
  match s.outOfReach x .store ps with
  | some (.wait s') => .wait s'
  | some (.fail _ b _) => .fail b
  | some (.bytes _ _) => .wait none
  | none =>
    let cs := chunksAt ps
    let s := s.reachAll cs
    match cs.find? fun c => copyRefuses c.loc with
    | some c => .fail c.a
    | none =>
      let away := key.isSome && awayFrom x.core cs
      match s.farStep away (s.wayTo x.core cs) (key.getD 0) with
      | .wait t => .wait t
      | .ends _ t => .done t
      | .act =>
        match cs.findSome? fun c => (s.refusedIn c.loc.pa c.n).map fun (i, _) => c.a + word i with
        | some b => .fail b
        | none =>
          if !(cs.all fun c => s.mayAccept c.loc.poa x.rank) then .wait none
          else
            let t := (cs.foldl (fun (r : State × List Byte) c =>
              ((r.1.writeAt x.core c.loc.poa (cellsAt c.loc.pa (r.2.take c.n))).noteAccepted c.loc.poa x.rank, r.2.drop c.n)) (s, bs)).1
            if away then .wait (some (t.farActed (key.getD 0) [])) else .done t

/-! ## Copies (R299 to R302) -/

/-- Bytes of a copy. -/
def Copy.total (c : Copy) : Nat := c.rows * c.rowBytes

/-- Source and destination of byte `k`. -/
def Copy.from_ (c : Copy) (k : Nat) : Word := c.src + wordOfInt ((k / c.rowBytes : Nat) * c.sstride + (k % c.rowBytes : Nat))
def Copy.to_ (c : Copy) (k : Nat) : Word := c.dst + wordOfInt ((k / c.rowBytes : Nat) * c.dstride + (k % c.rowBytes : Nat))

/-- A copy stops: CP falls, and its error becomes pending. -/
def State.endCopy (s : State) (c : Copy) (err : Option (Nat × Word)) : State :=
  let s := s.modCore c.acc.core fun k => { k with copies := k.copies.filter fun x => x.id != c.id }
  let s := match err with
    | some (cause, a) => s.pendError c.slot c.uid { cause := cause, addr := a, seq := c.seq, order := c.id, batch := none, copy := true }
    | none => s
  if s.stillUnit c.slot c.uid ∨ (s.slot c.slot).unit = none then s.modSlot c.slot fun sl => { sl with cp := sl.cp - 1 } else s

/-- Keeps a copy's progress. -/
def State.keepCopy (s : State) (c : Copy) : State :=
  s.modCore c.acc.core fun k => { k with copies := k.copies.map fun x => if x.id = c.id then c else x }

/-- Notes destination bytes for the acquire of a later waitc (R263). -/
def State.noteCopied (s : State) (c : Copy) (pa n : Nat) : State :=
  s.modSlot c.slot fun sl => { sl with copied := sl.copied ++ [(pa, n)] }

/-- A push register that an engine reaches through the on-chip window, since a device-register page takes no copy (R229): the core
and the queue of an address (R213). DESIGN CHOICE (notes/assumptions/45.md). -/
def State.pushTarget (s : State) (x : Accessor) (a : Word) : Option (Nat × Nat) :=
  match s.locate x a with
  | .at_ l _ => match region l.pa with
    | .pushReg c o => if o % 16 = 0 ∧ l.writeFault = 0 ∧ l.cls = none then some (c, o / 16) else none
    | _ => none
  | _ => none

/-- Cores that a multicast piece reaches, and those whose ring refuses it (R302). -/
def State.mcTargets (s : State) (c : Copy) (mask off n : Nat) : List Nat × List Nat :=
  let ts := ((List.range 8).filter fun i => mask / 2 ^ i % 2 = 1).map (c.acc.core / 8 * 8 + ·)
  ts.partition fun t => (List.range n).all fun i => (s.ringRefuses (scratchPa t (off + i))).isNone

/-- The byte at an address lies in a device-register page or among the device registers, which no copy reads (R229). -/
def State.deviceAt (s : State) (x : Accessor) (a : Word) : Bool :=
  match s.locate x a with
  | .at_ l _ => l.cls == some .device || (match region l.pa with | .device _ => true | _ => false)
  | _ => false

/-- Largest atomic size of the memory at an address (R24). -/
def State.capAt (s : State) (x : Accessor) (a : Word) : Nat := match s.locate x a with | .at_ l _ => l.cap | _ => 64

/-- Bytes of the piece of a copy that starts at byte `k`, of `n` left (R301): within its row, aligned and atomic at both ends. -/
def State.pieceOf (s : State) (c : Copy) (k n : Nat) : Nat :=
  let a := c.from_ k
  let b := c.to_ k
  let cap := Nat.min (s.capAt c.acc a) (s.capAt c.acc b)
  ([64, 32, 16, 8, 4, 2].find? fun p => decide (p ≤ n) && decide (p ≤ c.rowBytes - k % c.rowBytes) && decide (p ≤ cap) &&
    decide (a.toNat % p = 0) && decide (b.toNat % p = 0)).getD 1

/-- The byte at which a copy reads next: where an answer of a host is there or was asked for, there; else anywhere in what is
left, at the start of a block of its destination. Pieces of push registers go in ascending order (R301). -/
def State.nextByte (s : State) (c : Copy) : Nat × Nat :=
  let asked := c.todo.find? fun r => (Tab.get? s.hostData (engineKey c.id r.1)).isSome || s.hostReads.any (·.id == engineKey c.id r.1)
  let first := c.todo.headD (0, 0)
  match asked with
  | some r => r
  | none =>
    if (s.pushTarget c.acc (c.to_ first.1)).isSome then first
    else
      let r := c.todo.getD (Config.schedule (2 * s.tick) % c.todo.length) first
      let k := r.1 + Config.schedule (2 * s.tick + 1) % Nat.max 1 r.2
      let low := Nat.max r.1 (k / c.rowBytes * c.rowBytes)
      let k := k - Nat.min ((c.to_ k).toNat % 64) (k - low)
      (k, r.1 + r.2 - k)

/-- A copy without `n` bytes from `k` on among those that it has to read. -/
def Copy.taken (c : Copy) (k n : Nat) : Copy :=
  { c with todo := c.todo.flatMap fun r =>
    if k + n ≤ r.1 ∨ r.1 + r.2 ≤ k then [r]
    else (if r.1 < k then [(r.1, k - r.1)] else []) ++ (if k + n < r.1 + r.2 then [(k + n, r.1 + r.2 - (k + n))] else []) }

/-- A copy reads its next piece; none where it has to wait. DESIGN CHOICE (notes/assumptions/45.md). -/
def State.copyRead (s : State) (c : Copy) : Option State :=
  let (k, left) := s.nextByte c
  let push := (s.pushTarget c.acc (c.to_ k)).isSome
  let n := if push then Nat.min left (Nat.min 16 (c.rowBytes - k % c.rowBytes)) else s.pieceOf c k left
  if push && c.read != [] then none
  else if s.deviceAt c.acc (c.from_ k) then some (s.endCopy c (some (0x10, c.from_ k)))
  else if s.deviceAt c.acc (c.from_ k + word (n - 1)) then some (s.endCopy c (some (0x10, word ((c.from_ k + word (n - 1)).toNat / 65536 * 65536))))
  else
    match s.pull c.acc (c.from_ k) n (engineKey c.id k) with
    | .wait s' =>
      s'.map fun s => s.keepCopy { c with todo := (k, n) :: (c.taken k n).todo }
    | .fail cause a _ => some (s.endCopy c (some (if cause = 0x11 then 0x11 else 0x10, a)))
    | .bytes bs s => some (s.keepCopy { c.taken k n with read := c.read ++ [(k, bs)] })

/-- The error with the lower address. -/
def lowerError (x : Option (Nat × Word)) (cause : Nat) (a : Word) : Option (Nat × Word) :=
  match x with
  | some (c, b) => if a.toNat < b.toNat then some (cause, a) else some (c, b)
  | none => some (cause, a)

/-- A copy writes a piece that it has read; none where it has to wait. DESIGN CHOICE (notes/assumptions/45.md). -/
def State.copyWrite (s : State) (c : Copy) (i : Nat) : Option State :=
  match c.read[i]? with
  | none => none
  | some (k, bs) =>
    let dst := c.to_ k
    let n := bs.length
    let c' := { c with read := dropAt c.read i }
    match c.mask with
    | some m =>
      match aperture c.acc.core dst with
      | .scratch _ o =>
        let (good, bad) := s.mcTargets c m o n
        if (good ++ bad).any fun t => !s.holdsUnit t c.acc.launch then some (s.endCopy c (some (0x10, dst)))
        else if !(good.all fun t => s.mayAccept (poaCore t) (engineRank c.acc.core)) then none
        else
          let put (s : State) (t : Nat) : State :=
            ((s.writeAt c.acc.core (poaCore t) (cellsAt (scratchPa t o) bs)).noteAccepted (poaCore t) (engineRank c.acc.core)).noteCopied
              c (scratchPa t o) n
          some ((good.foldl put s).keepCopy { c' with failed := if bad = [] then c.failed else lowerError c.failed 0x10 dst })
      | _ => some (s.endCopy c (some (0x10, dst)))
    | none =>
      match s.pushTarget c.acc dst with
      | some (t, q) =>
        if n ≠ 16 ∨ (Tab.get? (s.core t).local_ q).isNone then some (s.endCopy c (some (0x10, dst)))
        else if s.pushWrites.any (·.copy == c.id) then none
        else
          let w : PushWrite := { core := t, q := q, data := word (fieldLe bs 0 8), tag := fieldLe bs 8 1 % 4, copy := c.id }
          some ({ s with pushWrites := s.pushWrites ++ [w] }.keepCopy c')
      | none =>
        match s.put c.acc dst bs (some (engineKey c.id (2 ^ 64 + k))) with
        | .wait s' => s'
        | .fail a => some (s.endCopy c (some (0x10, a)))
        | .done s =>
          match s.locate c.acc dst with
          | .at_ l _ => some ((s.keepCopy c').noteCopied c l.pa n)
          | _ => some (s.keepCopy c')

/-- The next step of a copy: it waits for the releases before it (R263), reads or writes a piece, or ends. Which piece it reads
or writes next is a free value. DESIGN CHOICE (notes/assumptions/9.md). -/
def State.copyStep (s : State) (c : Copy) : Option State :=
  if c.recorded ∨ c.waits.any fun r => (s.slot c.slot).releases.any (·.id == r) then none
  else if c.todo = [] ∧ c.read = [] then
    if s.pushWrites.any (·.copy == c.id) then none else some (s.endCopy c c.failed)
  else
    let k := Config.schedule (2 * s.tick) / 16
    if c.read ≠ [] ∧ (c.todo = [] ∨ 8 ≤ c.read.length ∨ k % 2 = 1) then s.copyWrite c (k / 2 % c.read.length) else s.copyRead c

/-! ## Generators (R303 to R305) -/

/-- Indices i0 to i3 of element k. -/
def Generator.indices (g : Generator) (k : Nat) : List Nat :=
  let c (i : Nat) := g.count.getD i 1
  [k % c 0, k / c 0 % c 1, k / (c 0 * c 1) % c 2, k / (c 0 * c 1 * c 2)]

/-- Address of element k. -/
def Generator.address (g : Generator) (k : Nat) : Word :=
  g.base + wordOfInt ((List.zipWith (fun (i : Nat) (st : Int) => i * st) (g.indices k) g.stride).foldl (· + ·) 0)

/-- Level of the token after element k; 0 for none (R304). -/
def Generator.tokenAfter (g : Generator) (k : Nat) : Nat :=
  let ends (l : Nat) : Bool := (List.range l).all fun i => (g.indices k).getD i 0 + 1 == g.count.getD i 1
  if ends 3 && g.mask / 4 % 2 == 1 then 3
  else if ends 2 && g.mask / 2 % 2 == 1 then 2
  else if ends 1 && g.mask % 2 == 1 then 1 else 0

/-- Bytes of an element. -/
def Generator.bytes (g : Generator) : Nat := 2 ^ g.size

/-- A data element of a generator. -/
def Generator.value (g : Generator) (bs : List Byte) : Word :=
  if g.signExt then wordOfInt (signedOf (8 * g.bytes) (numLe bs)) else word (numLe bs)

/-- Loads the next element ahead (R305): none where it may not. DESIGN CHOICE (notes/assumptions/43.md). -/
def State.generatorLoad (s : State) (core n : Nat) : Option State :=
  match Tab.get? (s.core core).gens n with
  | none => none
  | some g =>
    let last := match g.ahead.getLast? with | some (_, some _) => true | _ => false
    if s.enginesRest g.acc.launch || g.exhausted || g.failed || last || decide (Config.loadAhead ≤ (g.ahead.filter fun e => e.1.tag == 0).length) then none
    else
      let a := g.address g.next
      let keep (s : State) (g : Generator) : State := s.modCore core fun c => { c with gens := Tab.set c.gens n g }
      let fault (c t : Nat) (b : Word) : Option State :=
        some (keep s { g with next := g.next + 1, ahead := g.ahead ++ [({ data := 0, tag := 0 }, some (c, b, t))] })
      match s.pull g.acc a g.bytes (engineKey g.id g.next) with
      | .wait s' => s'
      | .fail cause b t =>
        if cause = 0x14 then
          let e : AsyncError := { cause := 0x10, addr := b, seq := (s.free 1).toNat % 256, order := g.id, batch := none }
          some ((keep s { g with failed := true }).pendError g.slot g.uid e)
        else fault cause (if cause = 0x11 then 0 else t) a
      | .bytes bs s =>
        let l := g.tokenAfter g.next
        let e : Elem × Option (Nat × Word × Nat) := ({ data := g.value bs, tag := 0 }, none)
        let t : List (Elem × Option (Nat × Word × Nat)) := if l = 0 then [] else [({ data := 0, tag := l }, none)]
        some (keep s { g with next := g.next + 1, ahead := g.ahead ++ e :: t })

/-! ## The reference accelerator (R306, R307) -/

/-- Replaces the reference accelerator of a core. -/
def State.setRef (s : State) (core : Nat) (r : Option RefAcc) : State := s.modCore core fun c => { c with ref := r }

/-- The head of a lent input: an element, or what a generator's read failed with. -/
def State.refHead (s : State) (core : Nat) (r : RefAcc) : Option (Elem × Option (Nat × Word × Nat)) :=
  match r.inQueue, r.inGen with
  | some q, _ =>
    match Tab.get? s.queues q, (s.slot r.slot).unit with
    | some x, some u => (s.visible u q x).head?.map fun e => (e, none)
    | _, _ => none
  | none, some n => match Tab.get? (s.core core).gens n with | some g => g.ahead.head? | none => none
  | _, _ => none

/-- Pops the lent input. -/
def State.refPop (s : State) (core : Nat) (r : RefAcc) : State :=
  match r.inQueue, r.inGen with
  | some q, _ => s.popQueue r.slot q 1
  | none, some n => s.modCore core fun c => { c with gens := match Tab.get? c.gens n with
      | some g => Tab.set c.gens n { g with ahead := g.ahead.drop 1 }
      | none => c.gens }
  | _, _ => s

/-- Puts elements back at the front of the lent input: those behind a failing one stay there (R307).
DESIGN CHOICE (notes/assumptions/43.md). -/
def State.refBack (s : State) (core : Nat) (r : RefAcc) (es : List Elem) : State :=
  match r.inQueue, r.inGen with
  | some q, _ =>
    let s := s.modQueue q fun x => { x with elems := es ++ x.elems, popped := x.popped - es.length }
    let toks := (es.filter fun e => e.tag != 0).length
    s.modUnit r.unit.uid fun u => { u with finished := if toks = 0 then u.finished else Tab.set u.finished q (Tab.getD u.finished q 0 - toks) }
  | none, some n => s.modCore core fun c => { c with gens := match Tab.get? c.gens n with
      | some g => Tab.set c.gens n { g with ahead := es.map (fun e => (e, none)) ++ g.ahead }
      | none => c.gens }
  | _, _ => s

/-- A copy error of a gather, whatever its cause, or a fault record where its unit has ended (R307, R474). -/
def State.refError (s : State) (core : Nat) (r : RefAcc) (a : Word) (index : Nat) : State :=
  if r.closing then
    s.faultRecord { source := 12544 + core, kind := 7, cause := 0x10, flags := 2, taddr := a, tinfo := word (index % 256) } (s.launch r.unit.launch)
  else s.pendError r.slot r.unit.uid { cause := 0x10, addr := a, seq := index, order := r.id, batch := none }

/-- The accelerator pops an element (R307): none where it may not. One whose read has failed in the generator takes its place behind
the gathers before it. -/
def State.refStep (s : State) (core : Nat) : Option State :=
  match (s.core core).ref with
  | none => none
  | some r =>
    if s.enginesRest r.acc.launch || r.failed || r.closing || decide (Config.gathersInFlight ≤ r.gathers.length) ||
      r.gathers.any (·.failed.isSome) then none
    else
      match s.refHead core r with
      | none => none
      | some (e, some (_, a, _)) =>
        some (s.setRef core (some { r with gathers := r.gathers ++ [{ elem := e, index := r.popped, value := none, failed := some a, held := true }] }))
      | some (e, none) =>
        let g : Gather := { elem := e, index := r.popped, value := if e.tag = 0 then none else some 0 }
        some ((s.refPop core r).setRef core (some { r with gathers := r.gathers ++ [g], popped := r.popped + 1 }))

/-- Address of a gather. -/
def RefAcc.address (r : RefAcc) (e : Elem) : Word :=
  r.base + wordOfInt ((if r.idx64 then signedOf 64 e.data.toNat else signedOf 32 e.data.toNat) * (if r.el8 then 8 else 4))

/-- The oldest gather is complete and its value is pushed. DEDUCED (notes/assumptions/44.md). -/
def State.refPush (s : State) (core : Nat) (r : RefAcc) (g : Gather) (v : Word) : Option State :=
  match Tab.get? s.queues r.out with
  | none => some (s.setRef core (if r.closing ∧ r.gathers.length ≤ 1 then none else some { r with gathers := r.gathers.drop 1 }))
  | some q =>
    if !q.room r.unit.uid then none
    else
      let rest := r.gathers.drop 1
      some ((s.pushQueueAs (dieOfCore core) (some r.unit) r.out v g.elem.tag).setRef core
        (if r.closing ∧ rest = [] then none else some { r with gathers := rest }))

/-- The oldest gather has failed: the error is reported, and every element behind it stands in the input again (R307). -/
def State.refFail (s : State) (core : Nat) (r : RefAcc) (g : Gather) (a : Word) : State :=
  let s := s.refBack core r (((r.gathers.drop 1).filter fun x => !x.held).map (·.elem))
  (s.setRef core (if r.closing then none else some { r with failed := true, gathers := [] })).refError core r a g.index

/-- A gather as the next of its pieces has been read (R33). -/
def Gather.take (g : Gather) (total : Nat) (bs : List Byte) : Gather :=
  let got := g.got ++ bs
  { g with got := got, value := if total ≤ got.length then some (word (numLe got)) else none }

/-- The next piece of a gather has been read (R33), or the oldest complete one is pushed or reported (R307): none where neither can
happen. -/
def State.gatherStep (s : State) (core i : Nat) : Option State :=
  match (s.core core).ref with
  | none => none
  | some r =>
    match r.gathers[i]? with
    | none => none
    | some g =>
      match g.value, g.failed with
      | some v, _ => if i = 0 then s.refPush core r g v else none
      | none, some a => if i = 0 then some (s.refFail core r g a) else none
      | none, none =>
        let keep (s : State) (g : Gather) : State := s.setRef core (some { r with gathers := putAt r.gathers i g })
        let total := if r.el8 then 8 else 4
        let a := r.address g.elem + word g.got.length
        let n := (pieceLens 8 a.toNat (total - g.got.length) (s.capAt r.acc a)).headD 1
        match s.pull r.acc a n (engineKey r.id (8 * g.index + g.got.length)) with
        | .wait s' => s'
        | .bytes bs s => some (keep s (g.take total bs))
        | .fail _ _ _ => some (keep s { g with failed := some a })

end Sys2Proof.Machine
end

