-- ==== Sys2Proof/WellFormed.lean ====
section
/-! DEFINITION. Which instructions have an encoding: register numbers that exist (R11, R50), code fields and
immediates inside the limits of the opcode map (R55 to R63), and immediates that the prefixes left over by PAGE and
REG can hold (R45, R48). -/

namespace Sys2Proof

/-- A register number that an operand may name (R50). -/
def regOk (n : Nat) : Bool := n ≤ 50 || (56 ≤ n && n ≤ 63)

/-- IMM prefixes that fit beside the PAGE prefix (`paged`) and the REG prefix that the register numbers `rs` and the
modifier `mod2` call for (R45, R73). -/
def immRoom (paged : Bool) (rs : List Nat) (mod2 : Nat) : Nat :=
  4 - (if paged then 1 else 0) - (if rs.any (16 ≤ ·) || mod2 ≠ 0 then 1 else 0)

/-- A signed immediate of `9 n + w` bits holds `v` (R48). -/
def fitsSigned (w n : Nat) (v : Int) : Bool :=
  decide (-(2 ^ (9 * n + w - 1) : Int) ≤ v) && decide (v < 2 ^ (9 * n + w - 1))

/-- An unsigned immediate of `9 n + w` bits holds `v` (R48). -/
def fitsUnsigned (w n : Nat) (v : Int) : Bool :=
  decide (0 ≤ v) && decide (v < 2 ^ (9 * n + w))

/-- Registers and signed immediate of a page 0 instruction. -/
def wfS0 (w : Nat) (rs : List Nat) (v : Int) : Bool := rs.all regOk && fitsSigned w (immRoom false rs 0) v

/-- Registers and signed immediate of an instruction of pages 1 to 7. -/
def wfS (w : Nat) (rs : List Nat) (v : Int) : Bool := rs.all regOk && fitsSigned w (immRoom true rs 0) v

/-- Registers and unsigned immediate of an instruction of pages 1 to 7. -/
def wfU (w : Nat) (rs : List Nat) (v : Int) : Bool := rs.all regOk && fitsUnsigned w (immRoom true rs 0) v

/-- Page 1, k = 0 to 15: a register or a signed immediate. -/
def wfSrcS (d a : Nat) : Src → Bool
  | .reg b => [d, a, b].all regOk
  | .imm i => wfS 4 [d, a] i

/-- Page 1, k = 0 to 15: a register or an unsigned immediate. -/
def wfSrcU (d a : Nat) : Src → Bool
  | .reg b => [d, a, b].all regOk
  | .imm i => wfU 4 [d, a] i

/-- Shift and rotate counts lie from 0 to 63 (R112). -/
def wfShift (d a : Nat) : Src → Bool
  | .reg b => [d, a, b].all regOk
  | .imm i => [d, a].all regOk && decide (0 ≤ i) && decide (i ≤ 63)

/-- Position and length of a bit field (R119). -/
def wfField (d a : Nat) : FieldPos → Bool
  | .reg b => [d, a, b].all regOk
  | .imm p l => [d, a].all regOk && p ≤ 63 && 1 ≤ l && l ≤ 64

/-- The register fields of a no-return atomic leave d at 0 (R59). -/
def wfAmo (nr : Bool) (d a b : Nat) : Bool := [d, a, b].all regOk && (!nr || d == 0)

/-- Formats 0 to 4 of the scalar formats (R58). -/
def notE8 : SFmt → Bool
  | .e8 => false
  | _ => true

/-- The formats that may carry the suffix .s (R62). -/
def scalable : TFmt → Bool
  | .t8 | .t6 | .i8 | .i4 => true
  | _ => false

/-- The instruction has an encoding. Events have none. -/
def Instr.wf : Instr → Bool
  | .add d a b | .sub d a b | .and d a b | .or d a b | .xor d a b | .shl d a b | .fma d a b | .slt d a b =>
    [d, a, b].all regOk
  | .addi d a i | .ld d a i | .st d a i => wfS0 4 [d, a] i
  | .li d i => wfS0 8 [d] i
  | .bcc c a i => wfS0 4 [a] i && (c != .al || a == 0)
  | .call i => wfS0 12 [] i
  | .mov d a | .not d a | .neg d a | .sx32 d a | .zx32 d a => [d, a].all regOk
  | .jr a => regOk a
  | .ret | .nop | .halt => true
  | .mul d a b | .mulh d a b | .div d a b | .rem d a b | .seq d a b | .min d a b | .max d a b => wfSrcS d a b
  | .mulhn d a b | .divn d a b | .remn d a b | .sltn d a b | .minn d a b | .maxn d a b => wfSrcU d a b
  | .shr d a b | .sar d a b | .rol d a b => wfShift d a b
  | .sel d a b | .andn d a b | .orn d a b | .mac d a b => [d, a, b].all regOk
  | .clz d a | .ctz d a | .popc d a | .bswap d a | .abs d a => [d, a].all regOk
  | .bext d a p | .bins d a p => wfField d a p
  | .lea d a b s => [d, a, b].all regOk && s ≤ 4
  | .hdrSet l a b => [a, b].all regOk && l ≤ 15
  | .hdrPack d a l => regOk d && 1 ≤ a && a ≤ 40 && l ≤ 15
  | .hdrGet d a l f => [d, a].all regOk && l ≤ 15 && f ≤ 7
  | .tsRd d | .cid d _ => regOk d
  | .rpt len n => 1 ≤ len && len ≤ 8 &&
    match n with
    | .reg a => regOk a
    | .imm c => wfU 8 [] c
    | .unbounded => true
  | .fadd _ d a b | .fsub _ d a b | .fmul _ d a b | .fdiv _ d a b | .fmsub _ d a b => [d, a, b].all regOk
  | .fmin d a b | .fmax d a b | .fcmp _ d a b => [d, a, b].all regOk
  | .fsqrt _ d a | .frnd _ d a | .frcp _ d a | .frsq _ d a | .fex2 _ d a | .flg2 _ d a => [d, a].all regOk
  | .fabs d a | .fneg d a | .fclass d a | .cvtFF _ _ d a => [d, a].all regOk
  | .cvtFI _ _ src d a => [d, a].all regOk && notE8 src
  | .cvtIF _ dst _ d a => [d, a].all regOk && notE8 dst
  | .cvtPk dst d a b => [d, a, b].all regOk && notE8 dst && dst != .fp32
  | .fdot2 src d a b => [d, a, b].all regOk && (src == .fp16 || src == .bf16)
  | .ldS _ d a i | .stS _ d a i | .ldA _ d a i => wfS 4 [d, a] i
  | .ldx _ d a b | .stx _ d a b | .acqProm _ d a b | .amoCas _ d a b => [d, a, b].all regOk
  | .ldQ d a i | .stQ d a i => wfS 4 [d, a] i && d % 4 == 0 && 4 ≤ d && d ≤ 44
  | .ldO d a i | .stO d a i => wfS 4 [d, a] i && d % 8 == 0 && 8 ≤ d && d ≤ 40
  | .ldAcq _ _ d a | .stRel _ _ d a => [d, a].all regOk
  | .rel _ | .acq _ | .fence _ => true
  | .amoAdd _ nr d a b | .amoMin _ nr d a b | .amoMax _ nr d a b | .amoAnd _ nr d a b | .amoOr _ nr d a b
  | .amoXor _ nr d a b | .amoSwp _ nr d a b | .amoInc _ nr d a b => wfAmo nr d a b
  | .append z d a b => [d, a].all regOk && 1 ≤ b &&
    b + (match z with | .b8 => 1 | .b16 => 2 | .b32 => 4 | .b64 => 8) ≤ 48
  | .sealPage d a | .tail d a | .home d a => [d, a].all regOk
  | .pf t a b => [a, b].all regOk && (match t with | .shadow die => die ≤ 3 | _ => true)
  | .hint a b => [a, b].all regOk
  | .stepCtr d => regOk d
  | .cinv r | .cwb r => match r with | .range a b => [a, b].all regOk | .all => true
  | .qbind _ q a => 60 ≤ q && q ≤ 63 && regOk a
  | .qfree q => 60 ≤ q && q ≤ 63
  | .qtok q l => 60 ≤ q && q ≤ 63 && 1 ≤ l && l ≤ 3
  | .qpeek d q | .qlen d q => regOk d && 56 ≤ q && q ≤ 63
  | .tvec q l a => 56 ≤ q && q ≤ 63 && 1 ≤ l && l ≤ 3 && regOk a
  | .send a b => [a, b].all regOk
  | .recv d a b | .spawn d a b => [d, a, b].all regOk
  | .waitc l s c t => l ≤ 15 && s ≤ 15 && c ≤ 15 && t ≤ 15
  | .barArv n | .barWait n | .barSync n | .barDrop n | .barJoin n => n ≤ 63
  | .fork i => wfS 12 [] i
  | .sync | .yieldTurn => true
  | .lvlCnt _ d a | .dusk _ d a => [d, a].all regOk
  | .lvlWait _ a b => [a, b].all regOk
  | .cancel _ a | .migr a => regOk a
  | .lbq d => regOk d
  | .vadd d a b | .vsub d a b | .vmul d a b | .vfma d a b | .vmin d a b | .vmax d a b | .vcmp _ d a b | .vsel d a b
  | .vand d a b | .vor d a b | .vxor d a b | .vperm d a b => d ≤ 63 && a ≤ 63 && b ≤ 63
  | .vabs d a | .vneg d a | .vred _ d a | .vex2 d a | .vrcp d a | .vrsq d a | .vmov d a => d ≤ 63 && a ≤ 63
  | .vcvt dst d a => d ≤ 63 && a ≤ 63 && notE8 dst
  | .vshl d a b | .vshr _ d a b | .vscl d a b => d ≤ 63 && a ≤ 63 && regOk b
  | .vbcast d a => d ≤ 63 && regOk a
  | .vgetl d a b => regOk d && a ≤ 63 && regOk b
  | .vsetl d a b => d ≤ 63 && regOk a && regOk b
  | .vld d a | .vst d a => d ≤ 63 && regOk a
  | .vzero d => d ≤ 63
  | .vlanes d => regOk d
  | .lease k d w => regOk d && 1 ≤ w && w ≤ 8 && (match k with | .bank n => n ≤ 3 | .any => true)
  | .unlease | .tmode _ | .tzero => true
  | .ringCfg n a b => n ≤ 7 && [a, b].all regOk
  | .ringPush n => n ≤ 7
  | .ringRoom d n w => regOk d && n ≤ 7 && w ≤ 15
  | .sclCfg _ n a => n ≤ 7 && regOk a
  | .tmma f s d ra rb => regOk d && ra ≤ 7 && rb ≤ 7 && f != .b1 && (!s || scalable f)
  | .tdist f s k d ra rb => regOk d && ra ≤ 7 && rb ≤ 7 && (!s || scalable f) && ((f == .b1) == (k == .ham))
  | .tcommit d | .cstat d => regOk d
  | .twaitb n => wfU 8 [] n
  | .tload _ a b => [a, b].all regOk
  | .tstore dst a b => [a, b].all regOk && notE8 dst
  | .qsax f _ blk a b => [a, b].all regOk && (!blk || (f != .fp16 && f != .bf16))
  | .qst d a b => [d, a, b].all regOk
  | .rsav a | .rlod a => regOk a
  | .copy twoD d a b => [d, a, b].all regOk && (!twoD || (1 ≤ b && b ≤ 46))
  | .copyMc d a b => [d, a, b].all regOk
  | .gbind g a => 56 ≤ g && g ≤ 59 && regOk a
  | .gref _ _ qd qa b | .topk qd qa b => 60 ≤ qd && qd ≤ 63 && 56 ≤ qa && qa ≤ 63 && regOk b
  | .csrr d c | .csrw d c | .csrs d c | .csrc d c => regOk d && c ≤ 0xFFF
  | .trap code => code ≤ 65535
  | .tret => true
  | .tlbGen a | .promAll a | .post a | .wake a | .slotCtl _ a => regOk a
  | .tlbInv a b | .keySet a b | .slotSv a b | .slotLd a b => [a, b].all regOk
  | _ => false

end Sys2Proof
end

