-- ==== Sys2Proof/Decode.lean ====
section
/-! DEFINITION. Decoding of prefix chains and base words (R40 to R67), total on any list of 16-bit words, and the
encoder, written from the same maps (R55 to R63, R73). Words are natural numbers below 2^16. -/

namespace Sys2Proof

/-! ## Modifier codes (R54) -/

def Size.code : Size → Nat
  | .i8 => 0 | .n8 => 1 | .i16 => 2 | .n16 => 3 | .i32 => 4 | .n32 => 5 | .i64 => 6
def sizeOf? : Nat → Option Size
  | 0 => some .i8 | 1 => some .n8 | 2 => some .i16 | 3 => some .n16 | 4 => some .i32 | 5 => some .n32
  | 6 => some .i64 | _ => none

def Rnd.code : Rnd → Nat
  | .frm => 0 | .rne => 1 | .rz => 2 | .ru => 3 | .rd => 4
def rndOf? : Nat → Option Rnd
  | 0 => some .frm | 1 => some .rne | 2 => some .rz | 3 => some .ru | 4 => some .rd | _ => none

def SFmt.code : SFmt → Nat
  | .fp32 => 0 | .fp16 => 1 | .bf16 => 2 | .t8 => 3 | .t6 => 4 | .e8 => 5
def sfmtOf? : Nat → Option SFmt
  | 0 => some .fp32 | 1 => some .fp16 | 2 => some .bf16 | 3 => some .t8 | 4 => some .t6 | 5 => some .e8 | _ => none

def IType.code : IType → Nat
  | .i64 => 0 | .n64 => 1 | .i32 => 2 | .n32 => 3 | .i16 => 4 | .n16 => 5 | .i8 => 6 | .n8 => 7
def itypeOf? : Nat → Option IType
  | 0 => some .i64 | 1 => some .n64 | 2 => some .i32 | 3 => some .n32 | 4 => some .i16 | 5 => some .n16
  | 6 => some .i8 | 7 => some .n8 | _ => none

def Scope.code : Scope → Nat
  | .core => 0 | .clus => 1 | .dev => 2 | .sys => 3 | .fab => 4
def scopeOf? : Nat → Option Scope
  | 0 => some .core | 1 => some .clus | 2 => some .dev | 3 => some .sys | 4 => some .fab | _ => none

def AType.code : AType → Nat
  | .i32 => 0 | .n32 => 1 | .i64 => 2 | .n64 => 3
def atypeOf? : Nat → Option AType
  | 0 => some .i32 | 1 => some .n32 | 2 => some .i64 | 3 => some .n64 | _ => none

def TFmt.code : TFmt → Nat
  | .fp16 => 0 | .bf16 => 1 | .t8 => 2 | .t6 => 3 | .i8 => 4 | .i4 => 5 | .b1 => 6
def tfmtOf? : Nat → Option TFmt
  | 0 => some .fp16 | 1 => some .bf16 | 2 => some .t8 | 3 => some .t6 | 4 => some .i8 | 5 => some .i4
  | 6 => some .b1 | _ => none

def Level.code : Level → Nat
  | .launch => 1 | .graph => 2 | .phase => 3 | .job => 4
def levelOf? : Nat → Option Level
  | 1 => some .launch | 2 => some .graph | 3 => some .phase | 4 => some .job | _ => none

def Cond.code : Cond → Nat
  | .eq => 0 | .ne => 1 | .lt => 2 | .ge => 3 | .gt => 4 | .le => 5 | .al => 6
def condOf? : Nat → Option Cond
  | 0 => some .eq | 1 => some .ne | 2 => some .lt | 3 => some .ge | 4 => some .gt | 5 => some .le
  | 6 => some .al | _ => none

def FCond.code : FCond → Nat
  | .eq => 0 | .ne => 1 | .lt => 2 | .le => 3 | .un => 4
def fcondOf? : Nat → Option FCond
  | 0 => some .eq | 1 => some .ne | 2 => some .lt | 3 => some .le | 4 => some .un | _ => none

def VCond.code : VCond → Nat
  | .eq => 0 | .ne => 1 | .lt => 2 | .le => 3
def vcondOf? : Nat → Option VCond
  | 0 => some .eq | 1 => some .ne | 2 => some .lt | 3 => some .le | _ => none

def CidSel.code : CidSel → Nat
  | .gslot => 0 | .core => 1 | .cluster => 2 | .die => 3 | .coreInCluster => 4
def cidSelOf? : Nat → Option CidSel
  | 0 => some .gslot | 1 => some .core | 2 => some .cluster | 3 => some .die | 4 => some .coreInCluster | _ => none

def QDir.code : QDir → Nat
  | .input => 0 | .output => 1
def DuskScope.code : DuskScope → Nat
  | .die => 0 | .dev => 1

def AccFmt.code : AccFmt → Nat
  | .fp32 => 0 | .fp16 => 1 | .bf16 => 2 | .i32 => 3
def accFmtOf? : Nat → Option AccFmt
  | 0 => some .fp32 | 1 => some .fp16 | 2 => some .bf16 | 3 => some .i32 | _ => none

def QFmt.code : QFmt → Nat
  | .t8 => 0 | .t6 => 1 | .i8 => 2 | .fp16 => 3 | .bf16 => 4
def qfmtOf? : Nat → Option QFmt
  | 0 => some .t8 | 1 => some .t6 | 2 => some .i8 | 3 => some .fp16 | 4 => some .bf16 | _ => none

def Dist.code : Dist → Nat
  | .l2 => 0 | .ip => 1 | .ham => 2
def distOf? : Nat → Option Dist
  | 0 => some .l2 | 1 => some .ip | 2 => some .ham | _ => none

def RedOp.code : RedOp → Nat
  | .add => 0 | .min => 1 | .max => 2
def redOpOf? : Nat → Option RedOp
  | 0 => some .add | 1 => some .min | 2 => some .max | _ => none

def RecSize.code : RecSize → Nat
  | .b8 => 0 | .b16 => 1 | .b32 => 2 | .b64 => 3
def recSizeOf? : Nat → Option RecSize
  | 0 => some .b8 | 1 => some .b16 | 2 => some .b32 | 3 => some .b64 | _ => none

def SlotOp.code : SlotOp → Nat
  | .stop => 0 | .run => 1 | .kill => 2
def slotOpOf? : Nat → Option SlotOp
  | 0 => some .stop | 1 => some .run | 2 => some .kill | _ => none

def pfTargetOf? (m mod2 : Nat) : Option PfTarget :=
  match m with
  | 0 => some .l1 | 1 => some .l2 | 2 => some .fast | 3 => some .cap | 4 => some (.shadow mod2) | _ => none

/-! ## The chain of prefixes -/

/-- What a chain and its base word give: the opcode position, the modifiers, the 6-bit fields and the IMM payloads in
their order (R40 to R48). Page 0 stands for a chain without a PAGE prefix. -/
structure Fields where
  page : Nat := 0
  fn : Nat := 0
  m : Nat := 0
  mod2 : Nat := 0
  major : Nat := 0
  d : Nat := 0
  a : Nat := 0
  b : Nat := 0
  imms : List Nat := []
  deriving DecidableEq, Repr

/-- Why a bit pattern is not an instruction (R65), with the index of the word that R66 names. -/
inductive DecodeError where
  | tooManyPrefixes (i : Nat)
  | secondPage (i : Nat)
  | secondReg (i : Nat)
  | reservedPrefix (i : Nat)
  | noImmediate (i : Nat)
  | noInstruction (i : Nat)
  | unusedField (i : Nat)
  | badModifier (i : Nat)
  | reservedRegister (i : Nat)
  | badLimit (i : Nat)
  /-- The words end before a base word (the next word is not fetched yet). -/
  | truncated
  deriving DecidableEq, Repr

/-- Cause of the fault (R65). -/
def DecodeError.cause : DecodeError → Nat
  | .tooManyPrefixes _ | .secondPage _ | .secondReg _ | .reservedPrefix _ | .noImmediate _ => 2
  | _ => 1

/-- tinfo of the fault (R65). -/
def DecodeError.detail : DecodeError → Nat
  | .tooManyPrefixes _ => 1 | .secondPage _ => 2 | .secondReg _ => 3 | .reservedPrefix _ => 4 | .noImmediate _ => 5
  | .noInstruction _ => 0 | .unusedField _ => 0 | .badModifier _ => 1 | .reservedRegister _ => 2 | .badLimit _ => 3
  | .truncated => 0

/-- Index of the word whose address stands in taddr (R66). -/
def DecodeError.word : DecodeError → Nat
  | .tooManyPrefixes i | .secondPage i | .secondReg i | .reservedPrefix i | .noImmediate i | .noInstruction i
  | .unusedField i | .badModifier i | .reservedRegister i | .badLimit i => i
  | .truncated => 0

/-- The part of a chain read so far. -/
structure Scan where
  page : Option (Nat × Nat × Nat) := none
  pageAt : Nat := 0
  reg : Option (Nat × Nat × Nat × Nat) := none
  imms : List Nat := []
  immAt : Nat := 0
  deriving DecidableEq, Repr

/-- Where the words stand that R66 names: the base word, the PAGE prefix and the first IMM prefix. -/
structure Places where
  base : Nat
  page : Nat
  imm : Nat
  deriving DecidableEq, Repr

/-- The fields of a base word under the prefixes read (R40, R43). -/
def Scan.fields (s : Scan) (w : Nat) : Fields :=
  let (pg, fn, m) := s.page.getD (0, 0, 0)
  let (dh, ah, bh, mod2) := s.reg.getD (0, 0, 0, 0)
  { page := pg, fn := fn, m := m, mod2 := mod2, major := w / 4096 % 16, d := dh * 16 + w / 256 % 16,
    a := ah * 16 + w / 16 % 16, b := bh * 16 + w % 16, imms := s.imms }

/-- Reads a chain from the words on: word `i` is the next (R41 to R48). A fault of the chain is recognised at the
first word that makes it illegal, in the order of R65's table (R67), so that a fifth prefix raises tinfo 1 whatever else it is:
DESIGN CHOICE (notes/assumptions/115.md). -/
def parse (i : Nat) (s : Scan) : List Nat → Except DecodeError (Fields × Places)
  | [] => .error .truncated
  | w :: ws =>
    if w / 4096 % 16 = 15 then
      if 4 ≤ i then .error (.tooManyPrefixes i)
      else match w / 512 % 8 with
        | 0 => parse (i + 1) { s with imms := s.imms ++ [w % 512], immAt := if s.imms = [] then i else s.immAt } ws
        | 1 => match s.reg with
          | some _ => .error (.secondReg i)
          | none => parse (i + 1) { s with reg := some (w / 128 % 4, w / 32 % 4, w / 8 % 4, w % 8) } ws
        | 2 => match s.page with
          | some _ => .error (.secondPage i)
          | none => parse (i + 1) { s with page := some (w / 64 % 8, w / 8 % 8, w % 8), pageAt := i } ws
        | _ => .error (.reservedPrefix i)
    else .ok (s.fields w, { base := i, page := s.pageAt, imm := s.immAt })

/-- The chain holds a PAGE prefix whose page field is 0 (R44). -/
def pageZero : List Nat → Bool
  | [] => false
  | w :: ws => w / 4096 % 16 = 15 && ((w / 512 % 8 = 2 && w / 64 % 8 = 0) || pageZero ws)

/-! ## What each row of the map allows -/

/-- Role of a 6-bit field (R50, R51). -/
inductive Role where
  /-- Not used: zero. -/
  | zero
  /-- A register number. -/
  | reg
  /-- A register number with further static limits. -/
  | regIn (ok : Bool)
  /-- A bank row. -/
  | row
  /-- Part of the immediate. -/
  | imm
  /-- A number in the four base bits, inside its limits or not. -/
  | code (ok : Bool)
  /-- A modifier in the four base bits, defined or not. -/
  | modifier (ok : Bool)
  /-- A port number or the first register of a group, inside its limits or not. -/
  | group (ok : Bool)
  deriving DecidableEq, Repr

/-- Base field and signedness of an immediate (R49). -/
inductive ImmForm where
  | none | sb | ub | sab | uab | sdab | udab
  deriving DecidableEq, Repr

/-- One form of one row of the map. -/
structure Row where
  d : Role := .reg
  a : Role := .reg
  b : Role := .reg
  imm : ImmForm := .none
  m : Bool := true
  mod2 : Bool := true
  /-- Static limit of the immediate. -/
  limit : Bool := true
  deriving DecidableEq, Repr

/-- The IMM payloads in their order, as one number above `base` (R48). -/
def immRaw (imms : List Nat) (base : Nat) (scale : Nat) : Nat :=
  imms.foldl (fun acc p => acc * 512 + p) 0 * scale + base

/-- The immediate of the fields, sign-extended where the form is signed (R48). -/
def immValue (f : Fields) : ImmForm → Int
  | .none => 0
  | .ub => immRaw f.imms f.b 16
  | .uab => immRaw f.imms (f.a * 16 + f.b) 256
  | .udab => immRaw f.imms (f.d * 256 + f.a * 16 + f.b) 4096
  | .sb => signed (immRaw f.imms f.b 16) 4
  | .sab => signed (immRaw f.imms (f.a * 16 + f.b) 256) 8
  | .sdab => signed (immRaw f.imms (f.d * 256 + f.a * 16 + f.b) 4096) 12
where
  signed (raw w : Nat) : Int :=
    let bits := 9 * f.imms.length + w
    if raw < 2 ^ (bits - 1) then raw else (raw : Int) - 2 ^ bits

/-- The form of the row that a chain selects, or none where nothing is assigned (R53, R55 to R63). The forms of rpt are told
apart by the mode in the six bits of d before IMM prefixes are judged: only mode 1 names an immediate, so a chain with a
prefix and another d, dh nonzero included, is an illegal prefix chain, tinfo 5 (R49 names bext, bins and k = 0 to 15 only):
DESIGN CHOICE (notes/assumptions/104.md). Waitc takes as many IMM prefixes as a chain may have, and a bit of its immediate
above bit 15 raises subcode 3 (R60 and R193 show one prefix and 21 bits): DESIGN CHOICE (notes/assumptions/105.md). Where the
code that selects a form is undefined, no field is judged unused, or those of one form are: DESIGN CHOICE
(notes/assumptions/116.md). -/
def rowOf (f : Fields) : Option Row :=
  let no2 := f.mod2 == 0
  let no1 := f.m == 0
  let none2 : Row := { m := no1, mod2 := no2 }
  let one : Row := { b := .zero, m := no1, mod2 := no2 }
  let lanes : Row := { d := .row, a := .row, b := .row, m := no1, mod2 := no2 }
  let lane1 : Row := { d := .row, a := .row, b := .zero, m := no1, mod2 := no2 }
  let none0 : Row := { d := .zero, a := .zero, b := .zero, m := no1, mod2 := no2 }
  let rnd3 : Row := { m := f.m ≤ 4, mod2 := no2 }
  let rnd2 : Row := { b := .zero, m := f.m ≤ 4, mod2 := no2 }
  let form (imm : ImmForm) (limit : Bool) : Row :=
    if f.m = 1 then { b := .imm, imm := imm, mod2 := no2, limit := limit } else { m := no1, mod2 := no2 }
  let shift := form .ub (immValue f .ub ≤ 63)
  let field := form .ub (immValue f .ub ≤ 4095)
  let disp : Row := { b := .imm, imm := .sb, m := f.m ≤ 6, mod2 := no2 }
  let amo : Row := { d := if f.m % 2 = 1 then .zero else .reg, mod2 := no2 }
  let bar : Row := { d := .zero, a := .imm, b := .imm, imm := .uab, m := no1, mod2 := no2,
                     limit := immValue f .uab ≤ 63 }
  let qport : Role := .group (60 ≤ f.d && f.d ≤ 63)
  let anyport : Role := .group (56 ≤ f.a && f.a ≤ 63)
  let level := 1 ≤ f.m && f.m ≤ 4
  let csr : Row := { a := .imm, b := .imm, imm := .uab, m := no1, mod2 := no2, limit := immValue f .uab ≤ 0xFFF }
  let ring (n : Nat) : Role := .code (n ≤ 7)
  let scale := f.mod2 / 4 = 0 || (2 ≤ f.m && f.m ≤ 5)
  match f.page with
  | 0 => match f.major with
    | 0 | 1 | 2 | 3 | 4 | 5 | 12 | 13 => some none2
    | 6 | 8 | 9 => some { b := .imm, imm := .sb, mod2 := no2 }
    | 7 => some { a := .imm, b := .imm, imm := .sab, mod2 := no2 }
    | 10 => some { d := .modifier (f.d ≤ 6), a := if f.d = 6 then .zero else .reg, b := .imm, imm := .sb, mod2 := no2 }
    | 11 => some { d := .imm, a := .imm, b := .imm, imm := .sdab, mod2 := no2 }
    | 14 => match f.b % 16 with
      | 0 | 1 | 2 | 3 | 4 => some { b := .code true, mod2 := no2 }
      | 5 => some { d := .zero, b := .code true, mod2 := no2 }
      | 6 | 7 | 8 => some { d := .zero, a := .zero, b := .code true, mod2 := no2 }
      | _ => none
    | _ => none
  | 1 => match f.major * 8 + f.fn with
    | 0 | 1 | 3 | 5 | 11 | 12 | 13 => some (form .sb true)
    | 2 | 4 | 6 | 10 | 14 | 15 => some (form .ub true)
    | 7 | 8 | 9 => some shift
    | 16 | 24 | 25 | 27 => some none2
    | 17 | 18 | 19 | 22 | 26 => some one
    | 20 | 21 => some field
    | 23 => some { m := f.m ≤ 4, mod2 := no2 }
    | 28 => some { d := .code true, m := no1, mod2 := no2 }
    | 29 => some { a := .group (1 ≤ f.a && f.a ≤ 40), b := .code true, m := no1, mod2 := no2 }
    | 30 => some { b := .code true, mod2 := no2 }
    | 31 => some { a := .zero, b := .zero, m := no1, mod2 := no2 }
    | 32 => match f.d with
      | 0 => some { d := .code true, b := .zero, mod2 := no2 }
      | 1 => some { d := .code true, a := .imm, b := .imm, imm := .uab, mod2 := no2 }
      | 2 => some { d := .code true, a := .zero, b := .zero, mod2 := no2 }
      | _ => some { d := .modifier false, a := .row, b := .row, mod2 := no2 }
    | 33 => some { a := .zero, b := .zero, m := f.m ≤ 4, mod2 := no2 }
    | _ => none
  | 2 => match f.major * 8 + f.fn with
    | 0 | 1 | 2 | 3 | 9 => some rnd3
    | 4 | 12 | 13 | 14 | 15 | 16 => some rnd2
    | 5 | 6 => some none2
    | 7 | 8 | 11 => some one
    | 10 => some { m := f.m ≤ 4, mod2 := no2 }
    | 17 => some { b := .zero, m := f.m ≤ 5, mod2 := f.mod2 ≤ 5 }
    | 18 | 19 => some { b := .modifier (f.b ≤ 7), m := f.m ≤ 4, mod2 := f.mod2 ≤ 4 }
    | 20 => some { m := 1 ≤ f.m && f.m ≤ 4, mod2 := no2 }
    | 21 => some { m := 1 ≤ f.m && f.m ≤ 2, mod2 := no2 }
    | _ => none
  | 3 => match f.major * 8 + f.fn with
    | 0 | 1 | 4 => some disp
    | 2 | 3 | 12 => some { m := f.m ≤ 6, mod2 := no2 }
    | 5 | 6 => some { d := .group (f.d % 4 == 0 && 4 ≤ f.d && f.d ≤ 44), b := .imm, imm := .sb, m := no1, mod2 := no2 }
    | 7 | 8 => some { b := .zero, m := f.m ≤ 6, mod2 := f.mod2 ≤ 4 }
    | 9 | 10 | 11 => some { d := .zero, a := .zero, b := .zero, m := no1, mod2 := f.mod2 ≤ 4 }
    | 13 | 14 | 15 | 16 | 17 | 18 | 19 | 21 => some amo
    | 20 => some { m := f.m % 2 == 0, mod2 := no2 }
    | 22 => some { b := .group (1 ≤ f.b && f.b + 2 ^ f.m ≤ 48), m := f.m ≤ 3, mod2 := no2 }
    | 23 | 24 | 30 => some one
    | 25 => some { d := .zero, m := f.m ≤ 4, mod2 := if f.m = 4 then f.mod2 ≤ 3 else no2 }
    | 26 => some { d := .zero, m := no1, mod2 := no2 }
    | 27 => some { a := .zero, b := .zero, m := no1, mod2 := no2 }
    | 28 | 29 => some (if f.m = 1 then { d := .zero, a := .zero, b := .zero, mod2 := no2 }
                       else { d := .zero, m := no1, mod2 := no2 })
    | 31 | 32 => some { d := .group (f.d % 8 == 0 && 8 ≤ f.d && f.d ≤ 40), b := .imm, imm := .sb, m := no1, mod2 := no2 }
    | _ => none
  | 4 => match f.major * 8 + f.fn with
    | 0 => some { d := qport, b := .zero, m := f.m ≤ 1, mod2 := no2 }
    | 1 => some { d := qport, a := .zero, b := .zero, m := no1, mod2 := no2 }
    | 2 => some { d := qport, a := .zero, b := .zero, m := 1 ≤ f.m && f.m ≤ 3, mod2 := no2 }
    | 3 | 4 => some { a := anyport, b := .zero, m := no1, mod2 := no2 }
    | 5 => some { d := .group (56 ≤ f.d && f.d ≤ 63), b := .zero, m := 1 ≤ f.m && f.m ≤ 3, mod2 := no2 }
    | 6 => some { d := .zero, m := no1, mod2 := no2 }
    | 7 | 16 => some none2
    | 8 => some { d := .imm, a := .imm, b := .imm, imm := .udab, m := no1, mod2 := no2,
                  limit := immValue f .udab < 65536 }
    | 9 | 10 | 11 | 12 | 13 => some bar
    | 14 => some { d := .imm, a := .imm, b := .imm, imm := .sdab, m := no1, mod2 := no2 }
    | 15 | 20 => some none0
    | 17 => some { b := .zero, m := level, mod2 := no2 }
    | 18 => some { d := .zero, m := level, mod2 := no2 }
    | 19 => some { d := .zero, b := .zero, m := level, mod2 := no2 }
    | 21 => some { a := .zero, b := .zero, m := no1, mod2 := no2 }
    | 22 => some { d := .zero, b := .zero, m := no1, mod2 := no2 }
    | 23 => some { b := .zero, m := f.m ≤ 1, mod2 := no2 }
    | _ => none
  | 5 => match f.major * 8 + f.fn with
    | 0 | 1 | 2 | 3 | 4 | 5 | 9 | 10 | 11 | 12 | 22 => some lanes
    | 6 | 7 | 23 | 24 | 25 | 26 => some lane1
    | 8 => some { lanes with m := f.m ≤ 3 }
    | 13 | 28 => some { lanes with b := .reg }
    | 14 => some { lanes with b := .reg, m := f.m ≤ 1 }
    | 15 => some { lane1 with m := f.m ≤ 4 }
    | 16 => some { lane1 with m := f.m ≤ 2 }
    | 17 | 20 | 21 => some { lane1 with a := .reg }
    | 18 => some { d := .reg, a := .row, b := .reg, m := no1, mod2 := no2 }
    | 19 => some { d := .row, a := .reg, b := .reg, m := no1, mod2 := no2 }
    | 27 => some { lane1 with a := .zero }
    | 29 => some { a := .zero, b := .zero, m := no1, mod2 := no2 }
    | _ => none
  | 6 => match f.major * 8 + f.fn with
    | 0 => some { a := .zero, b := .code (1 ≤ f.b && f.b ≤ 8), m := f.m ≤ 4, mod2 := no2 }
    | 1 | 3 => some none0
    | 2 => some { none0 with m := f.m ≤ 3 }
    | 4 => some { d := ring f.d, m := no1, mod2 := no2 }
    | 5 => some { d := ring f.d, a := .zero, b := .zero, m := no1, mod2 := no2 }
    | 6 => some { a := ring f.a, b := .code true, m := no1, mod2 := no2 }
    | 7 => some { d := ring f.d, b := .zero, m := f.m ≤ 1, mod2 := no2 }
    | 8 => some { a := ring f.a, b := ring f.b, m := f.m ≤ 5, mod2 := f.mod2 % 4 == 0 && scale }
    | 9 => some { a := ring f.a, b := ring f.b, m := f.m ≤ 6,
                  mod2 := f.mod2 % 4 ≤ 2 && scale && ((f.m == 6) == (f.mod2 % 4 == 2)) }
    | 10 | 20 => some { a := .zero, b := .zero, m := no1, mod2 := no2 }
    | 11 => some { d := .zero, a := .imm, b := .imm, imm := .uab, m := no1, mod2 := no2 }
    | 12 => some { d := .zero, m := f.m ≤ 1, mod2 := no2 }
    | 13 => some { d := .zero, m := f.m ≤ 4, mod2 := no2 }
    | 14 => some { d := .zero, m := f.m ≤ 4, mod2 := f.mod2 ≤ 1 || (f.mod2 ≤ 3 && f.m ≤ 2) }
    | 15 | 19 => some none2
    | 16 | 17 => some { d := .zero, b := .zero, m := no1, mod2 := no2 }
    | 18 => some { b := if f.m = 1 then .regIn (1 ≤ f.b && f.b ≤ 46) else .reg, m := f.m ≤ 1, mod2 := no2 }
    | 21 => some { d := .group (56 ≤ f.d && f.d ≤ 59), b := .zero, m := no1, mod2 := no2 }
    | 22 => some { d := qport, a := anyport, m := f.m ≤ 3, mod2 := no2 }
    | 23 => some { d := qport, a := anyport, m := no1, mod2 := no2 }
    | _ => none
  | 7 => match f.major * 8 + f.fn with
    | 0 | 1 | 2 | 3 => some csr
    | 4 => some { d := .zero, a := .imm, b := .imm, imm := .uab, m := no1, mod2 := no2,
                  limit := immValue f .uab ≤ 65535 }
    | 5 => some none0
    | 6 | 12 | 13 | 14 => some { d := .zero, b := .zero, m := no1, mod2 := no2 }
    | 7 | 8 | 10 | 11 => some { d := .zero, m := no1, mod2 := no2 }
    | 9 => some { d := .zero, b := .zero, m := f.m ≤ 2, mod2 := no2 }
    | _ => none
  | _ => none

/-- An unused field, or an unused high field, is not zero (R51). -/
def Role.used (v : Nat) : Role → Bool
  | .zero => v == 0
  | .imm | .code _ | .modifier _ => v < 16
  | _ => true

/-- The modifier in a field is defined (R54, R65). -/
def Role.defined : Role → Bool
  | .modifier ok => ok
  | _ => true

/-- The field names no reserved register (R11). -/
def Role.exists? (v : Nat) : Role → Bool
  | .reg | .regIn _ => !(51 ≤ v && v ≤ 55)
  | _ => true

/-- The field lies inside its static limits (R65, last row). -/
def Role.inside : Role → Bool
  | .code ok | .group ok | .regIn ok => ok
  | _ => true

/-- The checks of a row in the order of R67, items 2 to 5 and 7. -/
def checkRow (f : Fields) (p : Places) (r : Row) : Except DecodeError Unit :=
  if f.imms ≠ [] ∧ r.imm = .none then .error (.noImmediate p.imm)
  else if !(r.d.used f.d && r.a.used f.a && r.b.used f.b) then .error (.unusedField p.base)
  else if !(r.m && r.mod2 && r.d.defined && r.a.defined && r.b.defined) then .error (.badModifier p.base)
  else if !(r.d.exists? f.d && r.a.exists? f.a && r.b.exists? f.b) then .error (.reservedRegister p.base)
  else if !(r.d.inside && r.a.inside && r.b.inside && r.limit) then .error (.badLimit p.base)
  else .ok ()

/-! ## The instruction of a row -/

/-- Last operand of page 1, k = 0 to 15 (R112). -/
def srcOf (f : Fields) (imm : ImmForm) : Src := if f.m = 1 then .imm (immValue f imm) else .reg f.b

/-- Position operand of bext and bins (R119). -/
def fieldOf (f : Fields) : FieldPos :=
  if f.m = 1 then .imm ((immValue f .ub).toNat % 64) ((immValue f .ub).toNat / 64 % 64 + 1) else .reg f.b

/-- Range operand of cinv and cwb (R286). -/
def rangeOf (f : Fields) : CacheRange := if f.m = 1 then .all else .range f.a f.b

/-- The unsigned immediate of a:b. -/
def uab (f : Fields) : Nat := (immValue f .uab).toNat

/-- The instruction that a chain names, once its row's checks have passed. -/
def construct (f : Fields) : Option Instr :=
  let sb := immValue f .sb
  match f.page with
  | 0 => match f.major with
    | 0 => some (.add f.d f.a f.b) | 1 => some (.sub f.d f.a f.b) | 2 => some (.and f.d f.a f.b)
    | 3 => some (.or f.d f.a f.b) | 4 => some (.xor f.d f.a f.b) | 5 => some (.shl f.d f.a f.b)
    | 6 => some (.addi f.d f.a sb) | 7 => some (.li f.d (immValue f .sab)) | 8 => some (.ld f.d f.a sb)
    | 9 => some (.st f.d f.a sb) | 10 => (condOf? f.d).map (Instr.bcc · f.a sb)
    | 11 => some (.call (immValue f .sdab)) | 12 => some (.fma f.d f.a f.b) | 13 => some (.slt f.d f.a f.b)
    | 14 => match f.b with
      | 0 => some (.mov f.d f.a) | 1 => some (.not f.d f.a) | 2 => some (.neg f.d f.a) | 3 => some (.sx32 f.d f.a)
      | 4 => some (.zx32 f.d f.a) | 5 => some (.jr f.a) | 6 => some .ret | 7 => some .nop | 8 => some .halt
      | _ => none
    | _ => none
  | 1 => match f.major * 8 + f.fn with
    | 0 => some (.mul f.d f.a (srcOf f .sb)) | 1 => some (.mulh f.d f.a (srcOf f .sb))
    | 2 => some (.mulhn f.d f.a (srcOf f .ub)) | 3 => some (.div f.d f.a (srcOf f .sb))
    | 4 => some (.divn f.d f.a (srcOf f .ub)) | 5 => some (.rem f.d f.a (srcOf f .sb))
    | 6 => some (.remn f.d f.a (srcOf f .ub)) | 7 => some (.shr f.d f.a (srcOf f .ub))
    | 8 => some (.sar f.d f.a (srcOf f .ub)) | 9 => some (.rol f.d f.a (srcOf f .ub))
    | 10 => some (.sltn f.d f.a (srcOf f .ub)) | 11 => some (.seq f.d f.a (srcOf f .sb))
    | 12 => some (.min f.d f.a (srcOf f .sb)) | 13 => some (.max f.d f.a (srcOf f .sb))
    | 14 => some (.minn f.d f.a (srcOf f .ub)) | 15 => some (.maxn f.d f.a (srcOf f .ub))
    | 16 => some (.sel f.d f.a f.b) | 17 => some (.clz f.d f.a) | 18 => some (.ctz f.d f.a) | 19 => some (.popc f.d f.a)
    | 20 => some (.bext f.d f.a (fieldOf f)) | 21 => some (.bins f.d f.a (fieldOf f)) | 22 => some (.bswap f.d f.a)
    | 23 => some (.lea f.d f.a f.b f.m) | 24 => some (.andn f.d f.a f.b) | 25 => some (.orn f.d f.a f.b)
    | 26 => some (.abs f.d f.a) | 27 => some (.mac f.d f.a f.b) | 28 => some (.hdrSet f.d f.a f.b)
    | 29 => some (.hdrPack f.d f.a f.b) | 30 => some (.hdrGet f.d f.a f.b f.m) | 31 => some (.tsRd f.d)
    | 32 => match f.d with
      | 0 => some (.rpt (f.m + 1) (.reg f.a)) | 1 => some (.rpt (f.m + 1) (.imm (uab f)))
      | 2 => some (.rpt (f.m + 1) .unbounded) | _ => none
    | 33 => (cidSelOf? f.m).map (Instr.cid f.d)
    | _ => none
  | 2 => match f.major * 8 + f.fn with
    | 0 => (rndOf? f.m).map (Instr.fadd · f.d f.a f.b) | 1 => (rndOf? f.m).map (Instr.fsub · f.d f.a f.b)
    | 2 => (rndOf? f.m).map (Instr.fmul · f.d f.a f.b) | 3 => (rndOf? f.m).map (Instr.fdiv · f.d f.a f.b)
    | 4 => (rndOf? f.m).map (Instr.fsqrt · f.d f.a) | 5 => some (.fmin f.d f.a f.b) | 6 => some (.fmax f.d f.a f.b)
    | 7 => some (.fabs f.d f.a) | 8 => some (.fneg f.d f.a) | 9 => (rndOf? f.m).map (Instr.fmsub · f.d f.a f.b)
    | 10 => (fcondOf? f.m).map (Instr.fcmp · f.d f.a f.b) | 11 => some (.fclass f.d f.a)
    | 12 => (rndOf? f.m).map (Instr.frnd · f.d f.a) | 13 => (rndOf? f.m).map (Instr.frcp · f.d f.a)
    | 14 => (rndOf? f.m).map (Instr.frsq · f.d f.a) | 15 => (rndOf? f.m).map (Instr.fex2 · f.d f.a)
    | 16 => (rndOf? f.m).map (Instr.flg2 · f.d f.a)
    | 17 => (sfmtOf? f.m).bind fun dst => (sfmtOf? f.mod2).map fun src => .cvtFF dst src f.d f.a
    | 18 => (rndOf? f.m).bind fun r => (itypeOf? f.b).bind fun t => (sfmtOf? f.mod2).map fun src => .cvtFI r t src f.d f.a
    | 19 => (rndOf? f.m).bind fun r => (itypeOf? f.b).bind fun t => (sfmtOf? f.mod2).map fun dst => .cvtIF r dst t f.d f.a
    | 20 => (sfmtOf? f.m).map (Instr.cvtPk · f.d f.a f.b) | 21 => (sfmtOf? f.m).map (Instr.fdot2 · f.d f.a f.b)
    | _ => none
  | 3 =>
    let amo (mk : AType → Bool → Nat → Nat → Nat → Instr) : Option Instr :=
      (atypeOf? (f.m / 2)).map fun t => mk t (f.m % 2 == 1) f.d f.a f.b
    match f.major * 8 + f.fn with
    | 0 => (sizeOf? f.m).map (Instr.ldS · f.d f.a sb) | 1 => (sizeOf? f.m).map (Instr.stS · f.d f.a sb)
    | 2 => (sizeOf? f.m).map (Instr.ldx · f.d f.a f.b) | 3 => (sizeOf? f.m).map (Instr.stx · f.d f.a f.b)
    | 4 => (sizeOf? f.m).map (Instr.ldA · f.d f.a sb) | 5 => some (.ldQ f.d f.a sb) | 6 => some (.stQ f.d f.a sb)
    | 7 => (sizeOf? f.m).bind fun z => (scopeOf? f.mod2).map fun sc => .ldAcq z sc f.d f.a
    | 8 => (sizeOf? f.m).bind fun z => (scopeOf? f.mod2).map fun sc => .stRel z sc f.d f.a
    | 9 => (scopeOf? f.mod2).map .rel | 10 => (scopeOf? f.mod2).map .acq | 11 => (scopeOf? f.mod2).map .fence
    | 12 => (sizeOf? f.m).map (Instr.acqProm · f.d f.a f.b)
    | 13 => amo .amoAdd | 14 => amo .amoMin | 15 => amo .amoMax | 16 => amo .amoAnd | 17 => amo .amoOr
    | 18 => amo .amoXor | 19 => amo .amoSwp | 20 => (atypeOf? (f.m / 2)).map (Instr.amoCas · f.d f.a f.b)
    | 21 => amo .amoInc | 22 => (recSizeOf? f.m).map (Instr.append · f.d f.a f.b) | 23 => some (.sealPage f.d f.a)
    | 24 => some (.tail f.d f.a) | 25 => (pfTargetOf? f.m f.mod2).map (Instr.pf · f.a f.b) | 26 => some (.hint f.a f.b)
    | 27 => some (.stepCtr f.d) | 28 => some (.cinv (rangeOf f)) | 29 => some (.cwb (rangeOf f))
    | 30 => some (.home f.d f.a) | 31 => some (.ldO f.d f.a sb) | 32 => some (.stO f.d f.a sb)
    | _ => none
  | 4 => match f.major * 8 + f.fn with
    | 0 => some (.qbind (if f.m = 1 then .output else .input) f.d f.a) | 1 => some (.qfree f.d)
    | 2 => some (.qtok f.d f.m) | 3 => some (.qpeek f.d f.a) | 4 => some (.qlen f.d f.a)
    | 5 => some (.tvec f.d f.m f.a) | 6 => some (.send f.a f.b) | 7 => some (.recv f.d f.a f.b)
    | 8 =>
      let v := (immValue f .udab).toNat
      some (.waitc (v / 256 % 16) (v / 16 % 16) (v % 16) (v / 4096 % 16))
    | 9 => some (.barArv (uab f)) | 10 => some (.barWait (uab f)) | 11 => some (.barSync (uab f))
    | 12 => some (.barDrop (uab f)) | 13 => some (.barJoin (uab f)) | 14 => some (.fork (immValue f .sdab))
    | 15 => some .sync | 16 => some (.spawn f.d f.a f.b) | 17 => (levelOf? f.m).map (Instr.lvlCnt · f.d f.a)
    | 18 => (levelOf? f.m).map (Instr.lvlWait · f.a f.b) | 19 => (levelOf? f.m).map (Instr.cancel · f.a)
    | 20 => some .yieldTurn | 21 => some (.lbq f.d) | 22 => some (.migr f.a)
    | 23 => some (.dusk (if f.m = 1 then .dev else .die) f.d f.a)
    | _ => none
  | 5 => match f.major * 8 + f.fn with
    | 0 => some (.vadd f.d f.a f.b) | 1 => some (.vsub f.d f.a f.b) | 2 => some (.vmul f.d f.a f.b)
    | 3 => some (.vfma f.d f.a f.b) | 4 => some (.vmin f.d f.a f.b) | 5 => some (.vmax f.d f.a f.b)
    | 6 => some (.vabs f.d f.a) | 7 => some (.vneg f.d f.a) | 8 => (vcondOf? f.m).map (Instr.vcmp · f.d f.a f.b)
    | 9 => some (.vsel f.d f.a f.b) | 10 => some (.vand f.d f.a f.b) | 11 => some (.vor f.d f.a f.b)
    | 12 => some (.vxor f.d f.a f.b) | 13 => some (.vshl f.d f.a f.b) | 14 => some (.vshr (f.m == 1) f.d f.a f.b)
    | 15 => (sfmtOf? f.m).map (Instr.vcvt · f.d f.a) | 16 => (redOpOf? f.m).map (Instr.vred · f.d f.a)
    | 17 => some (.vbcast f.d f.a) | 18 => some (.vgetl f.d f.a f.b) | 19 => some (.vsetl f.d f.a f.b)
    | 20 => some (.vld f.d f.a) | 21 => some (.vst f.d f.a) | 22 => some (.vperm f.d f.a f.b) | 23 => some (.vex2 f.d f.a)
    | 24 => some (.vrcp f.d f.a) | 25 => some (.vrsq f.d f.a) | 26 => some (.vmov f.d f.a) | 27 => some (.vzero f.d)
    | 28 => some (.vscl f.d f.a f.b) | 29 => some (.vlanes f.d)
    | _ => none
  | 6 => match f.major * 8 + f.fn with
    | 0 => some (.lease (if f.m = 4 then .any else .bank f.m) f.d f.b) | 1 => some .unlease
    | 2 => (accFmtOf? f.m).map .tmode | 3 => some .tzero | 4 => some (.ringCfg f.d f.a f.b) | 5 => some (.ringPush f.d)
    | 6 => some (.ringRoom f.d f.a f.b) | 7 => some (.sclCfg (f.m == 1) f.d f.a)
    | 8 => (tfmtOf? f.m).map (Instr.tmma · (f.mod2 / 4 == 1) f.d f.a f.b)
    | 9 => (tfmtOf? f.m).bind fun t => (distOf? (f.mod2 % 4)).map fun k => .tdist t (f.mod2 / 4 == 1) k f.d f.a f.b
    | 10 => some (.tcommit f.d) | 11 => some (.twaitb (uab f)) | 12 => some (.tload (f.m == 1) f.a f.b)
    | 13 => (sfmtOf? f.m).map (Instr.tstore · f.a f.b)
    | 14 => (qfmtOf? f.m).map (Instr.qsax · (f.mod2 % 2 == 1) (f.mod2 / 2 == 1) f.a f.b) | 15 => some (.qst f.d f.a f.b)
    | 16 => some (.rsav f.a) | 17 => some (.rlod f.a) | 18 => some (.copy (f.m == 1) f.d f.a f.b)
    | 19 => some (.copyMc f.d f.a f.b) | 20 => some (.cstat f.d) | 21 => some (.gbind f.d f.a)
    | 22 => some (.gref (f.m % 2 == 1) (f.m / 2 == 1) f.d f.a f.b) | 23 => some (.topk f.d f.a f.b)
    | _ => none
  | 7 => match f.major * 8 + f.fn with
    | 0 => some (.csrr f.d (uab f)) | 1 => some (.csrw f.d (uab f)) | 2 => some (.csrs f.d (uab f))
    | 3 => some (.csrc f.d (uab f)) | 4 => some (.trap (uab f)) | 5 => some .tret | 6 => some (.tlbGen f.a)
    | 7 => some (.tlbInv f.a f.b) | 8 => some (.keySet f.a f.b) | 9 => (slotOpOf? f.m).map (Instr.slotCtl · f.a)
    | 10 => some (.slotSv f.a f.b) | 11 => some (.slotLd f.a f.b) | 12 => some (.promAll f.a) | 13 => some (.post f.a)
    | 14 => some (.wake f.a)
    | _ => none
  | _ => none

/-- Decodes the instruction that the words begin with, and its length in words (R41, R47, R65, R67). -/
def decode (ws : List Nat) : Except DecodeError (Instr × Nat) :=
  match parse 0 {} ws with
  | .error e => .error e
  | .ok (f, p) =>
    if pageZero (ws.take p.base) then .error (.noInstruction p.page)
    else match rowOf f with
      | none => .error (.noInstruction p.base)
      | some r =>
        match checkRow f p r with
        | .error e => .error e
        | .ok () =>
          match construct f with
          | none => .error (.noInstruction p.base)
          | some i => .ok (i, p.base + 1)

/-! ## The encoder (R73) -/

/-- The prefix and base words of a chain in the order PAGE, REG, IMM (R45). -/
def emit (f : Fields) : List Nat :=
  (if f.page = 0 then [] else [0xF400 + f.page * 64 + f.fn * 8 + f.m]) ++
  (if f.d < 16 ∧ f.a < 16 ∧ f.b < 16 ∧ f.mod2 = 0 then []
   else [0xF200 + f.d / 16 * 128 + f.a / 16 * 32 + f.b / 16 * 8 + f.mod2]) ++
  f.imms.map (0xF000 + ·) ++
  [f.major * 4096 + f.d % 16 * 256 + f.a % 16 * 16 + f.b % 16]

/-- The fewest IMM prefixes, up to 4, under which `fits` holds. -/
def fewest (fits : Nat → Bool) : Nat :=
  if fits 0 then 0 else if fits 1 then 1 else if fits 2 then 2 else if fits 3 then 3 else 4

/-- The `n` payloads of 9 bits of a number, the high ones first. -/
def payloads : Nat → Nat → List Nat
  | 0, _ => []
  | n + 1, v => payloads n (v / 512) ++ [v % 512]

/-- IMM payloads and base bits of a signed immediate with a base field of `w` bits. -/
def splitSigned (w : Nat) (v : Int) : List Nat × Nat :=
  let n := fewest fun n => fitsSigned w n v
  let raw := (v % 2 ^ (9 * n + w)).toNat
  (payloads n (raw / 2 ^ w), raw % 2 ^ w)

/-- IMM payloads and base bits of an unsigned immediate with a base field of `w` bits. -/
def splitUnsigned (w : Nat) (v : Nat) : List Nat × Nat :=
  (payloads (fewest fun n => fitsUnsigned w n v) (v / 2 ^ w), v % 2 ^ w)

/-- A chain of page 0. -/
def page0 (major d a b : Nat) : Fields := { major := major, d := d, a := a, b := b }

/-- The instruction of index `k` of page `p` (R53). -/
def paged (p k m mod2 d a b : Nat) : Fields :=
  { page := p, fn := k % 8, m := m, mod2 := mod2, major := k / 8, d := d, a := a, b := b }

/-- Adds an immediate whose base field is b. -/
def Fields.withB (f : Fields) (s : List Nat × Nat) : Fields := { f with imms := s.1, b := s.2 }

/-- Adds an immediate whose base field is a:b. -/
def Fields.withAB (f : Fields) (s : List Nat × Nat) : Fields := { f with imms := s.1, a := s.2 / 16, b := s.2 % 16 }

/-- Adds an immediate whose base field is d:a:b. -/
def Fields.withDAB (f : Fields) (s : List Nat × Nat) : Fields :=
  { f with imms := s.1, d := s.2 / 256, a := s.2 / 16 % 16, b := s.2 % 16 }

/-- Page 1, k = 0 to 15. -/
def srcFields (k d a : Nat) (signed : Bool) : Src → Fields
  | .reg b => paged 1 k 0 0 d a b
  | .imm i => (paged 1 k 1 0 d a 0).withB (if signed then splitSigned 4 i else splitUnsigned 4 i.toNat)

/-- bext and bins. -/
def fieldFields (k d a : Nat) : FieldPos → Fields
  | .reg b => paged 1 k 0 0 d a b
  | .imm p l => (paged 1 k 1 0 d a 0).withB (splitUnsigned 4 (p + (l - 1) * 64))

/-- Atomics of page 3. -/
def amoFields (k : Nat) (t : AType) (nr : Bool) (d a b : Nat) : Fields :=
  paged 3 k (t.code * 2 + if nr then 1 else 0) 0 d a b

/-- cinv and cwb. -/
def rangeFields (k : Nat) : CacheRange → Fields
  | .range a b => paged 3 k 0 0 0 a b
  | .all => paged 3 k 1 0 0 0 0

/-- Page 3 with a displacement. -/
def dispFields (k m d a : Nat) (i : Int) : Fields := (paged 3 k m 0 d a 0).withB (splitSigned 4 i)

/-- CSR instructions. -/
def csrFields (k d c : Nat) : Fields := (paged 7 k 0 0 d 0 0).withAB (splitUnsigned 8 c)

/-- Barrier instructions. -/
def barFields (k n : Nat) : Fields := (paged 4 k 0 0 0 0 0).withAB (splitUnsigned 8 n)

/-- The fields of an instruction (R55 to R63); events have none. -/
def fieldsOf : Instr → Option Fields
  | .add d a b => some (page0 0 d a b) | .sub d a b => some (page0 1 d a b) | .and d a b => some (page0 2 d a b)
  | .or d a b => some (page0 3 d a b) | .xor d a b => some (page0 4 d a b) | .shl d a b => some (page0 5 d a b)
  | .addi d a i => some ((page0 6 d a 0).withB (splitSigned 4 i))
  | .li d i => some ((page0 7 d 0 0).withAB (splitSigned 8 i))
  | .ld d a i => some ((page0 8 d a 0).withB (splitSigned 4 i))
  | .st d a i => some ((page0 9 d a 0).withB (splitSigned 4 i))
  | .bcc c a i => some ((page0 10 c.code a 0).withB (splitSigned 4 i))
  | .call i => some ((page0 11 0 0 0).withDAB (splitSigned 12 i))
  | .fma d a b => some (page0 12 d a b) | .slt d a b => some (page0 13 d a b)
  | .mov d a => some (page0 14 d a 0) | .not d a => some (page0 14 d a 1) | .neg d a => some (page0 14 d a 2)
  | .sx32 d a => some (page0 14 d a 3) | .zx32 d a => some (page0 14 d a 4) | .jr a => some (page0 14 0 a 5)
  | .ret => some (page0 14 0 0 6) | .nop => some (page0 14 0 0 7) | .halt => some (page0 14 0 0 8)
  | .mul d a b => some (srcFields 0 d a true b) | .mulh d a b => some (srcFields 1 d a true b)
  | .mulhn d a b => some (srcFields 2 d a false b) | .div d a b => some (srcFields 3 d a true b)
  | .divn d a b => some (srcFields 4 d a false b) | .rem d a b => some (srcFields 5 d a true b)
  | .remn d a b => some (srcFields 6 d a false b) | .shr d a b => some (srcFields 7 d a false b)
  | .sar d a b => some (srcFields 8 d a false b) | .rol d a b => some (srcFields 9 d a false b)
  | .sltn d a b => some (srcFields 10 d a false b) | .seq d a b => some (srcFields 11 d a true b)
  | .min d a b => some (srcFields 12 d a true b) | .max d a b => some (srcFields 13 d a true b)
  | .minn d a b => some (srcFields 14 d a false b) | .maxn d a b => some (srcFields 15 d a false b)
  | .sel d a b => some (paged 1 16 0 0 d a b) | .clz d a => some (paged 1 17 0 0 d a 0)
  | .ctz d a => some (paged 1 18 0 0 d a 0) | .popc d a => some (paged 1 19 0 0 d a 0)
  | .bext d a p => some (fieldFields 20 d a p) | .bins d a p => some (fieldFields 21 d a p)
  | .bswap d a => some (paged 1 22 0 0 d a 0) | .lea d a b s => some (paged 1 23 s 0 d a b)
  | .andn d a b => some (paged 1 24 0 0 d a b) | .orn d a b => some (paged 1 25 0 0 d a b)
  | .abs d a => some (paged 1 26 0 0 d a 0) | .mac d a b => some (paged 1 27 0 0 d a b)
  | .hdrSet l a b => some (paged 1 28 0 0 l a b) | .hdrPack d a l => some (paged 1 29 0 0 d a l)
  | .hdrGet d a l f => some (paged 1 30 f 0 d a l) | .tsRd d => some (paged 1 31 0 0 d 0 0)
  | .rpt len (.reg a) => some (paged 1 32 (len - 1) 0 0 a 0)
  | .rpt len (.imm n) => some ((paged 1 32 (len - 1) 0 1 0 0).withAB (splitUnsigned 8 n))
  | .rpt len .unbounded => some (paged 1 32 (len - 1) 0 2 0 0)
  | .cid d sel => some (paged 1 33 sel.code 0 d 0 0)
  | .fadd r d a b => some (paged 2 0 r.code 0 d a b) | .fsub r d a b => some (paged 2 1 r.code 0 d a b)
  | .fmul r d a b => some (paged 2 2 r.code 0 d a b) | .fdiv r d a b => some (paged 2 3 r.code 0 d a b)
  | .fsqrt r d a => some (paged 2 4 r.code 0 d a 0) | .fmin d a b => some (paged 2 5 0 0 d a b)
  | .fmax d a b => some (paged 2 6 0 0 d a b) | .fabs d a => some (paged 2 7 0 0 d a 0)
  | .fneg d a => some (paged 2 8 0 0 d a 0) | .fmsub r d a b => some (paged 2 9 r.code 0 d a b)
  | .fcmp c d a b => some (paged 2 10 c.code 0 d a b) | .fclass d a => some (paged 2 11 0 0 d a 0)
  | .frnd r d a => some (paged 2 12 r.code 0 d a 0) | .frcp r d a => some (paged 2 13 r.code 0 d a 0)
  | .frsq r d a => some (paged 2 14 r.code 0 d a 0) | .fex2 r d a => some (paged 2 15 r.code 0 d a 0)
  | .flg2 r d a => some (paged 2 16 r.code 0 d a 0)
  | .cvtFF dst src d a => some (paged 2 17 dst.code src.code d a 0)
  | .cvtFI r t src d a => some (paged 2 18 r.code src.code d a t.code)
  | .cvtIF r dst t d a => some (paged 2 19 r.code dst.code d a t.code)
  | .cvtPk dst d a b => some (paged 2 20 dst.code 0 d a b) | .fdot2 src d a b => some (paged 2 21 src.code 0 d a b)
  | .ldS z d a i => some (dispFields 0 z.code d a i) | .stS z d a i => some (dispFields 1 z.code d a i)
  | .ldx z d a b => some (paged 3 2 z.code 0 d a b) | .stx z d a b => some (paged 3 3 z.code 0 d a b)
  | .ldA z d a i => some (dispFields 4 z.code d a i) | .ldQ d a i => some (dispFields 5 0 d a i)
  | .stQ d a i => some (dispFields 6 0 d a i) | .ldAcq z sc d a => some (paged 3 7 z.code sc.code d a 0)
  | .stRel z sc d a => some (paged 3 8 z.code sc.code d a 0) | .rel sc => some (paged 3 9 0 sc.code 0 0 0)
  | .acq sc => some (paged 3 10 0 sc.code 0 0 0) | .fence sc => some (paged 3 11 0 sc.code 0 0 0)
  | .acqProm z d a b => some (paged 3 12 z.code 0 d a b)
  | .amoAdd t nr d a b => some (amoFields 13 t nr d a b) | .amoMin t nr d a b => some (amoFields 14 t nr d a b)
  | .amoMax t nr d a b => some (amoFields 15 t nr d a b) | .amoAnd t nr d a b => some (amoFields 16 t nr d a b)
  | .amoOr t nr d a b => some (amoFields 17 t nr d a b) | .amoXor t nr d a b => some (amoFields 18 t nr d a b)
  | .amoSwp t nr d a b => some (amoFields 19 t nr d a b) | .amoCas t d a b => some (amoFields 20 t false d a b)
  | .amoInc t nr d a b => some (amoFields 21 t nr d a b) | .append z d a b => some (paged 3 22 z.code 0 d a b)
  | .sealPage d a => some (paged 3 23 0 0 d a 0) | .tail d a => some (paged 3 24 0 0 d a 0)
  | .pf .l1 a b => some (paged 3 25 0 0 0 a b) | .pf .l2 a b => some (paged 3 25 1 0 0 a b)
  | .pf .fast a b => some (paged 3 25 2 0 0 a b) | .pf .cap a b => some (paged 3 25 3 0 0 a b)
  | .pf (.shadow die) a b => some (paged 3 25 4 die 0 a b) | .hint a b => some (paged 3 26 0 0 0 a b)
  | .stepCtr d => some (paged 3 27 0 0 d 0 0) | .cinv r => some (rangeFields 28 r) | .cwb r => some (rangeFields 29 r)
  | .home d a => some (paged 3 30 0 0 d a 0) | .ldO d a i => some (dispFields 31 0 d a i)
  | .stO d a i => some (dispFields 32 0 d a i)
  | .qbind dir q a => some (paged 4 0 dir.code 0 q a 0) | .qfree q => some (paged 4 1 0 0 q 0 0)
  | .qtok q l => some (paged 4 2 l 0 q 0 0) | .qpeek d q => some (paged 4 3 0 0 d q 0)
  | .qlen d q => some (paged 4 4 0 0 d q 0) | .tvec q l a => some (paged 4 5 l 0 q a 0)
  | .send a b => some (paged 4 6 0 0 0 a b) | .recv d a b => some (paged 4 7 0 0 d a b)
  | .waitc l s c t => some ((paged 4 8 0 0 0 0 0).withDAB ([t], l * 256 + s * 16 + c))
  | .barArv n => some (barFields 9 n) | .barWait n => some (barFields 10 n) | .barSync n => some (barFields 11 n)
  | .barDrop n => some (barFields 12 n) | .barJoin n => some (barFields 13 n)
  | .fork i => some ((paged 4 14 0 0 0 0 0).withDAB (splitSigned 12 i)) | .sync => some (paged 4 15 0 0 0 0 0)
  | .spawn d a b => some (paged 4 16 0 0 d a b) | .lvlCnt v d a => some (paged 4 17 v.code 0 d a 0)
  | .lvlWait v a b => some (paged 4 18 v.code 0 0 a b) | .cancel v a => some (paged 4 19 v.code 0 0 a 0)
  | .yieldTurn => some (paged 4 20 0 0 0 0 0) | .lbq d => some (paged 4 21 0 0 d 0 0)
  | .migr a => some (paged 4 22 0 0 0 a 0) | .dusk o d a => some (paged 4 23 o.code 0 d a 0)
  | .vadd d a b => some (paged 5 0 0 0 d a b) | .vsub d a b => some (paged 5 1 0 0 d a b)
  | .vmul d a b => some (paged 5 2 0 0 d a b) | .vfma d a b => some (paged 5 3 0 0 d a b)
  | .vmin d a b => some (paged 5 4 0 0 d a b) | .vmax d a b => some (paged 5 5 0 0 d a b)
  | .vabs d a => some (paged 5 6 0 0 d a 0) | .vneg d a => some (paged 5 7 0 0 d a 0)
  | .vcmp c d a b => some (paged 5 8 c.code 0 d a b) | .vsel d a b => some (paged 5 9 0 0 d a b)
  | .vand d a b => some (paged 5 10 0 0 d a b) | .vor d a b => some (paged 5 11 0 0 d a b)
  | .vxor d a b => some (paged 5 12 0 0 d a b) | .vshl d a b => some (paged 5 13 0 0 d a b)
  | .vshr ar d a b => some (paged 5 14 (if ar then 1 else 0) 0 d a b)
  | .vcvt dst d a => some (paged 5 15 dst.code 0 d a 0) | .vred op d a => some (paged 5 16 op.code 0 d a 0)
  | .vbcast d a => some (paged 5 17 0 0 d a 0) | .vgetl d a b => some (paged 5 18 0 0 d a b)
  | .vsetl d a b => some (paged 5 19 0 0 d a b) | .vld d a => some (paged 5 20 0 0 d a 0)
  | .vst d a => some (paged 5 21 0 0 d a 0) | .vperm d a b => some (paged 5 22 0 0 d a b)
  | .vex2 d a => some (paged 5 23 0 0 d a 0) | .vrcp d a => some (paged 5 24 0 0 d a 0)
  | .vrsq d a => some (paged 5 25 0 0 d a 0) | .vmov d a => some (paged 5 26 0 0 d a 0)
  | .vzero d => some (paged 5 27 0 0 d 0 0) | .vscl d a b => some (paged 5 28 0 0 d a b)
  | .vlanes d => some (paged 5 29 0 0 d 0 0)
  | .lease (.bank n) d w => some (paged 6 0 n 0 d 0 w) | .lease .any d w => some (paged 6 0 4 0 d 0 w)
  | .unlease => some (paged 6 1 0 0 0 0 0) | .tmode m => some (paged 6 2 m.code 0 0 0 0)
  | .tzero => some (paged 6 3 0 0 0 0 0) | .ringCfg n a b => some (paged 6 4 0 0 n a b)
  | .ringPush n => some (paged 6 5 0 0 n 0 0) | .ringRoom d n w => some (paged 6 6 0 0 d n w)
  | .sclCfg isB n a => some (paged 6 7 (if isB then 1 else 0) 0 n a 0)
  | .tmma f s d ra rb => some (paged 6 8 f.code (if s then 4 else 0) d ra rb)
  | .tdist f s k d ra rb => some (paged 6 9 f.code ((if s then 4 else 0) + k.code) d ra rb)
  | .tcommit d => some (paged 6 10 0 0 d 0 0) | .twaitb n => some ((paged 6 11 0 0 0 0 0).withAB (splitUnsigned 8 n))
  | .tload tr a b => some (paged 6 12 (if tr then 1 else 0) 0 0 a b)
  | .tstore dst a b => some (paged 6 13 dst.code 0 0 a b)
  | .qsax f col blk a b => some (paged 6 14 f.code ((if col then 1 else 0) + if blk then 2 else 0) 0 a b)
  | .qst d a b => some (paged 6 15 0 0 d a b) | .rsav a => some (paged 6 16 0 0 0 a 0)
  | .rlod a => some (paged 6 17 0 0 0 a 0) | .copy twoD d a b => some (paged 6 18 (if twoD then 1 else 0) 0 d a b)
  | .copyMc d a b => some (paged 6 19 0 0 d a b) | .cstat d => some (paged 6 20 0 0 d 0 0)
  | .gbind g a => some (paged 6 21 0 0 g a 0)
  | .gref idx el qd qa b => some (paged 6 22 ((if idx then 1 else 0) + if el then 2 else 0) 0 qd qa b)
  | .topk qd qa b => some (paged 6 23 0 0 qd qa b)
  | .csrr d c => some (csrFields 0 d c) | .csrw d c => some (csrFields 1 d c) | .csrs d c => some (csrFields 2 d c)
  | .csrc d c => some (csrFields 3 d c) | .trap code => some ((paged 7 4 0 0 0 0 0).withAB (splitUnsigned 8 code))
  | .tret => some (paged 7 5 0 0 0 0 0) | .tlbGen a => some (paged 7 6 0 0 0 a 0)
  | .tlbInv a b => some (paged 7 7 0 0 0 a b) | .keySet a b => some (paged 7 8 0 0 0 a b)
  | .slotCtl op a => some (paged 7 9 op.code 0 0 a 0) | .slotSv a b => some (paged 7 10 0 0 0 a b)
  | .slotLd a b => some (paged 7 11 0 0 0 a b) | .promAll a => some (paged 7 12 0 0 0 a 0)
  | .post a => some (paged 7 13 0 0 0 a 0) | .wake a => some (paged 7 14 0 0 0 a 0)
  | _ => none

/-- The words of a well-formed instruction as the assembler emits them (R73); none of an event. -/
def encode (i : Instr) : List Nat :=
  match fieldsOf i with
  | some f => emit f
  | none => []

/-- The instruction read from an instruction word of the opcode table: `nbits` bits (16 or 32) given as the number
`w`. The words of a 32-bit row are the PAGE prefix and the base word; the one whose major is 0xF is the prefix and
stands first in memory (R42, R45; notes/assumptions/2.md). Words beyond are zero. -/
def tableWords (nbits w : Nat) : List Nat :=
  if nbits ≤ 16 then [w % 65536]
  else if w % 65536 / 4096 = 15 ∧ w / 65536 % 65536 / 4096 ≠ 15 then [w % 65536, w / 65536 % 65536]
  else [w / 65536 % 65536, w % 65536]

/-- What the decoder reads from a row's word of the opcode table. DEDUCED (notes/assumptions/2.md). -/
def decodeTableWord (nbits w : Nat) : Option Instr :=
  match decode (tableWords nbits w ++ [0, 0, 0]) with
  | .ok (i, _) => some i
  | .error _ => none

end Sys2Proof
end

