-- ==== Sys2Proof/Machine/Fetch.lean ====
section
/-! DEFINITION. Fetching an instruction (R17, R41, R68, R394, R404) and decoding a repeat body (R129, R130). -/

namespace Sys2Proof.Machine

/-- Why a word could not be fetched. -/
inductive FetchFail where
  | trap (t : Trap)
  | miss (a : Nat)
  /-- The block at a virtual address has to be read from a host page, or from a home on another die. -/
  | away (va : Nat) (l : Loc)
  deriving DecidableEq, Repr

/-- A fetched word, the block that holds it, and the translation used. -/
structure Word16 where
  w : Nat
  block : Block
  fill : Option TlbEntry

/-- The word of a block at a virtual address in it. -/
def Block.half (b : Block) (va : Nat) : Except FetchFail Nat :=
  if b.bad.contains (va % 64 / 32) then .error (.trap { cause := 0x11, taddr := word (va / 32 * 32) })
  else .ok (numLe ((b.bytes.drop (va % 64)).take 2))

/-- Reads the fetch block at `base`, which is translated anew (R226, R394, R404). Any page may be fetched from that has X set; a
host page is read by its port, and a home on another die is asked (R456). DESIGN CHOICE (notes/assumptions/95.md). -/
def State.fetchBlock (s : State) (g : Nat) (base : Nat) (a : Word) : Except FetchFail (Block × Option TlbEntry) :=
  match s.locateVa (s.accessor g) base false with
  | .at_ l f =>
    match region l.pa with
    | .none => .error (.trap { cause := 0x13, taddr := a, tinfo := 1 })
    | r =>
      if l.fetchFault ≠ 0 then .error (.trap { cause := 0x06, taddr := a, tinfo := l.fetchFault })
      else
        match r, (dieOfPoa l.poa).getD (dieOf g) == dieOf g with
        | .hostWindow _, _ | _, false => .error (.away base l)
        | _, true =>
          .ok ({ va := base, bytes := (List.range 64).map fun i => s.pageByte (s.sealPage l) (l.pa + i)
                 bad := [0, 1].filter fun k => s.lost.contains (l.pa / 32 + k) }, f)
  | _ => .error (.miss a.toNat)

/-- Fetches the word at an address. A block that the slot holds needs no translation (R404). -/
def State.fetchWord (s : State) (g : Nat) (held : List Block) (a : Word) : Except FetchFail Word16 :=
  let va := a.toNat
  if bits a 63 49 ≠ 0 then .error (.trap { cause := 0x13, taddr := a, tinfo := 1 })
  else
    match held.find? fun b => b.va == va / 64 * 64 with
    | some b => (b.half va).map fun w => { w := w, block := b, fill := none }
    | none => do
      let (b, f) ← s.fetchBlock g (va / 64 * 64) a
      (b.half va).map fun w => { w := w, block := b, fill := f }

/-- What a fetch of an instruction gives. -/
inductive Got where
  | instr (i : Instr) (len : Nat) (block : Block) (fills : List TlbEntry)
  | bad (e : DecodeError) (fills : List TlbEntry)
  | fail (f : FetchFail)

/-- Fetches words until they decode or cannot become an instruction (R41, R67): a chain that is illegal raises its fault without a fetch
of its later words. DESIGN CHOICE (notes/assumptions/117.md). -/
def State.fetchMore (s : State) (g : Nat) (start : Word) : Nat → List Nat → List Block → List TlbEntry → Got
  | 0, _, _, fills => .bad .truncated fills
  | n + 1, ws, held, fills =>
    match s.fetchWord g held (start + word (2 * ws.length)) with
    | .error f => .fail f
    | .ok r =>
      let ws := ws ++ [r.w]
      let fills := fills ++ r.fill.toList
      match decode ws with
      | .ok (i, k) => .instr i (2 * k) r.block fills
      | .error .truncated => s.fetchMore g start n ws (r.block :: held) fills
      | .error e => .bad e fills

/-- Fetches the instruction at an address for slot `g`. -/
def State.fetch (s : State) (g : Nat) (a : Word) : Got := s.fetchMore g a 5 [] (s.slot g).blocks []

/-- Slot `g` waits for a fetch block that its port or another die has to give (R404, R449, R456): for its two sectors, each by
itself. -/
def State.awaitBlock (s : State) (g va : Nat) (l : Loc) : State :=
  let (id, s) := s.fresh
  let sectors : List (Nat × Chunk) := [0, 32].map fun o => (o, { a := word (va + o), n := 32, loc := { l with pa := l.pa + o, va := va + o, cached := false } })
  let parts : List Part := sectors.map fun x => { off := x.1, a := x.2.a, pa := x.2.loc.pa, n := 32 }
  (s.modSlot g fun sl => { sl with pending := some { id := id, len := 0, finish := .fetch va, parts := parts } }).sendReads g id .home [] sectors parts

/-- Kinds of instruction that a repeat body may hold (R129). -/
def bodyAllows (i : Instr) : Bool :=
  match i with
  | .bcc _ _ _ | .call _ | .jr _ | .ret | .halt | .rpt _ _ => false
  | .ldS _ _ _ _ | .stS _ _ _ _ | .ldx _ _ _ _ | .stx _ _ _ _ | .qtok _ _ => true
  | i => match fieldsOf i with | some f => f.page ≤ 2 | none => false

/-- Decodes the body of a repeat from an address on: its instructions and the address behind it (R130). -/
def State.bodyFrom (s : State) (g : Nat) : Nat → Word → Except Stop (List BodyItem × Word)
  | 0, a => .ok ([], a)
  | n + 1, a =>
    match s.fetch g a with
    | .instr i len _ _ =>
      if bodyAllows i then do
        let (r, e) ← s.bodyFrom g n (a + word len)
        .ok ({ at_ := a, instr := i, len := len } :: r, e)
      else .error (trapAt 0x01 a 3)
    | .bad e _ => .error (trapAt e.cause (a + word (2 * e.word)) e.detail)
    | .fail (.trap t) => .error (.trap t)
    | .fail (.miss p) => .error (.drop [p] true false)
    | .fail (.away va l) => .error (.wait .own (s.awaitBlock g va l))

end Sys2Proof.Machine
end

