-- ==== Sys2Proof/Machine/Scalar.lean ====
section
/-! DEFINITION. Meanings of pages 0 and 1 but for memory and floating point (R114 to R134). -/

namespace Sys2Proof.Machine

/-! ## Integer arithmetic and logic (R114) -/

/-- A comparison as a result. -/
def flagWord (b : Bool) : Word := word (ofBool b)

def execAdd (d a b : Nat) (s : State) : Host.Outcome State Fault Refusal := binary s d a b fun x y => x + y
def execSub (d a b : Nat) (s : State) : Host.Outcome State Fault Refusal := binary s d a b fun x y => x - y
def execAnd (d a b : Nat) (s : State) : Host.Outcome State Fault Refusal := binary s d a b fun x y => x &&& y
def execOr (d a b : Nat) (s : State) : Host.Outcome State Fault Refusal := binary s d a b fun x y => x ||| y
def execXor (d a b : Nat) (s : State) : Host.Outcome State Fault Refusal := binary s d a b fun x y => x ^^^ y
def execAndn (d a b : Nat) (s : State) : Host.Outcome State Fault Refusal := binary s d a b fun x y => x &&& ~~~y
def execOrn (d a b : Nat) (s : State) : Host.Outcome State Fault Refusal := binary s d a b fun x y => x ||| ~~~y
def execAddi (d a : Nat) (i : Int) (s : State) : Host.Outcome State Fault Refusal := unary s d a fun x => x + wordOfInt i
def execLi (d : Nat) (i : Int) (s : State) : Host.Outcome State Fault Refusal := nullary s d (wordOfInt i)
def execSlt (d a b : Nat) (s : State) : Host.Outcome State Fault Refusal :=
  binary s d a b fun x y => flagWord (decide (x.toInt < y.toInt))
def execSltn (d a : Nat) (b : Src) (s : State) : Host.Outcome State Fault Refusal :=
  binarySrc s d a b fun x y => flagWord (decide (x.toNat < y.toNat))
def execSeq (d a : Nat) (b : Src) (s : State) : Host.Outcome State Fault Refusal :=
  binarySrc s d a b fun x y => flagWord (x == y)
def execMin (d a : Nat) (b : Src) (s : State) : Host.Outcome State Fault Refusal :=
  binarySrc s d a b fun x y => if x.toInt ≤ y.toInt then x else y
def execMax (d a : Nat) (b : Src) (s : State) : Host.Outcome State Fault Refusal :=
  binarySrc s d a b fun x y => if x.toInt ≤ y.toInt then y else x
def execMinn (d a : Nat) (b : Src) (s : State) : Host.Outcome State Fault Refusal :=
  binarySrc s d a b fun x y => if x.toNat ≤ y.toNat then x else y
def execMaxn (d a : Nat) (b : Src) (s : State) : Host.Outcome State Fault Refusal :=
  binarySrc s d a b fun x y => if x.toNat ≤ y.toNat then y else x
def execSel (d a b : Nat) (s : State) : Host.Outcome State Fault Refusal :=
  ternary s d a b fun c x y => if c ≠ 0 then x else y
def execAbs (d a : Nat) (s : State) : Host.Outcome State Fault Refusal := unary s d a fun x => if 0 ≤ x.toInt then x else -x
def execMac (d a b : Nat) (s : State) : Host.Outcome State Fault Refusal := ternary s d a b fun c x y => c + x * y
def execLea (d a b sh : Nat) (s : State) : Host.Outcome State Fault Refusal := binary s d a b fun x y => x + y <<< sh
def execMov (d a : Nat) (s : State) : Host.Outcome State Fault Refusal := unary s d a fun x => x
def execNot (d a : Nat) (s : State) : Host.Outcome State Fault Refusal := unary s d a fun x => ~~~x
def execNeg (d a : Nat) (s : State) : Host.Outcome State Fault Refusal := unary s d a fun x => 0 - x
def execSx32 (d a : Nat) (s : State) : Host.Outcome State Fault Refusal := unary s d a (sext 32)
def execZx32 (d a : Nat) (s : State) : Host.Outcome State Fault Refusal := unary s d a (zext 32)

/-! ## Multiplication and division (R115, R116) -/

/-- High half of the signed product. -/
def mulHigh (x y : Word) : Word := wordOfInt (x.toInt * y.toInt / 2 ^ 64)
/-- High half of the unsigned product. -/
def mulHighU (x y : Word) : Word := word (x.toNat * y.toNat / 2 ^ 64)
/-- Signed quotient; all ones for a zero divisor (R116). -/
def divSigned (x y : Word) : Word := if y = 0 then wordOfInt (-1) else wordOfInt (x.toInt.tdiv y.toInt)
/-- Unsigned quotient. -/
def divUnsigned (x y : Word) : Word := if y = 0 then wordOfInt (-1) else word (x.toNat / y.toNat)
/-- Signed remainder; the dividend for a zero divisor. -/
def remSigned (x y : Word) : Word := if y = 0 then x else wordOfInt (x.toInt.tmod y.toInt)
/-- Unsigned remainder. -/
def remUnsigned (x y : Word) : Word := if y = 0 then x else word (x.toNat % y.toNat)

def execMul (d a : Nat) (b : Src) (s : State) : Host.Outcome State Fault Refusal := binarySrc s d a b fun x y => x * y
def execMulh (d a : Nat) (b : Src) (s : State) : Host.Outcome State Fault Refusal := binarySrc s d a b mulHigh
def execMulhn (d a : Nat) (b : Src) (s : State) : Host.Outcome State Fault Refusal := binarySrc s d a b mulHighU
def execDiv (d a : Nat) (b : Src) (s : State) : Host.Outcome State Fault Refusal := binarySrc s d a b divSigned
def execDivn (d a : Nat) (b : Src) (s : State) : Host.Outcome State Fault Refusal := binarySrc s d a b divUnsigned
def execRem (d a : Nat) (b : Src) (s : State) : Host.Outcome State Fault Refusal := binarySrc s d a b remSigned
def execRemn (d a : Nat) (b : Src) (s : State) : Host.Outcome State Fault Refusal := binarySrc s d a b remUnsigned

/-! ## Shifts, bit fields and bit counts (R117 to R119) -/

def execShl (d a b : Nat) (s : State) : Host.Outcome State Fault Refusal := binary s d a b fun x y => x <<< (bits y 5 0)
def execShr (d a : Nat) (b : Src) (s : State) : Host.Outcome State Fault Refusal := binarySrc s d a b fun x y => x >>> (bits y 5 0)
def execSar (d a : Nat) (b : Src) (s : State) : Host.Outcome State Fault Refusal :=
  binarySrc s d a b fun x y => x.sshiftRight (bits y 5 0)
def execRol (d a : Nat) (b : Src) (s : State) : Host.Outcome State Fault Refusal :=
  binarySrc s d a b fun x y => (x <<< (bits y 5 0)) ||| (x >>> (64 - bits y 5 0))
def execClz (d a : Nat) (s : State) : Host.Outcome State Fault Refusal := unary s d a fun x => word (64 - bitLen x.toNat)
def execCtz (d a : Nat) (s : State) : Host.Outcome State Fault Refusal := unary s d a fun x => word (trailingZeros 64 x.toNat)
def execPopc (d a : Nat) (s : State) : Host.Outcome State Fault Refusal := unary s d a fun x => word (popCount 64 x.toNat)
def execBswap (d a : Nat) (s : State) : Host.Outcome State Fault Refusal :=
  unary s d a fun x => word (numLe (bytesLe 8 x.toNat).reverse)

/-- bext of R119. -/
def extractField (x : Word) (pos len : Nat) : Word := word (x.toNat / 2 ^ pos % 2 ^ len)
/-- bins of R119: the field of `x` put into `old`. -/
def insertField (old x : Word) (pos len : Nat) : Word :=
  let mask := word ((2 ^ len - 1) * 2 ^ pos)
  (old &&& ~~~mask) ||| ((x <<< pos) &&& mask)
/-- Position and length in a register (R119). -/
def posOf (w : Word) : Nat := bits w 5 0
def lenOf (w : Word) : Nat := bits w 11 6 + 1

def execBext (d a : Nat) (p : FieldPos) (s : State) : Host.Outcome State Fault Refusal :=
  match p with
  | .reg b => binary s d a b fun x y => extractField x (posOf y) (lenOf y)
  | .imm pos len => unary s d a fun x => extractField x pos len

def execBins (d a : Nat) (p : FieldPos) (s : State) : Host.Outcome State Fault Refusal :=
  match p with
  | .reg b => ternary s d a b fun c x y => insertField c x (posOf y) (lenOf y)
  | .imm pos len => conclude s do
      let (vs, s') ← s.operandsD d [a]
      .ok (s'.writeX d (insertField (vs.getD 0 0) (vs.getD 1 0) pos len))

/-! ## Packet headers (R120 to R124) -/

/-- Descriptor f of a layout: offset and width (R120). -/
def layoutField (l : Word × Word) (f : Nat) : Nat × Nat :=
  let w := if f < 4 then l.1 else l.2
  (bits w (16 * (f % 4) + 5) (16 * (f % 4)), bits w (16 * (f % 4) + 12) (16 * (f % 4) + 6))

/-- A descriptor is within its limits (R121). -/
def layoutFieldOk (l : Word × Word) (f : Nat) : Bool :=
  let w := if f < 4 then l.1 else l.2
  let (off, width) := layoutField l f
  bits w (16 * (f % 4) + 15) (16 * (f % 4) + 13) = 0 && width ≤ 64 && off + width ≤ 64

/-- The layout of the issuing core. -/
def State.layout (s : State) (l : Nat) : Word × Word := Tab.getD (s.core s.myCore).layouts l (0, 0)

/-- The header word of R122. -/
def packHeader (l : Word × Word) : List Word → Nat → Word → Word
  | [], _, h => h
  | v :: r, f, h =>
    let (off, w) := layoutField l f
    packHeader l r (f + 1) (if w = 0 then h else insertField h v off w)

def execHdrSet (l a b : Nat) (s : State) : Host.Outcome State Fault Refusal :=
  conclude s do
    let (vs, s') ← s.operands [a, b] none
    let lay := (vs.getD 0 0, vs.getD 1 0)
    if (List.range 8).all (layoutFieldOk lay) then
      .ok (s'.modCore s.myCore fun c => { c with layouts := Tab.set c.layouts l lay })
    else .error (s.illegal 3)

def execHdrPack (d a l : Nat) (s : State) : Host.Outcome State Fault Refusal :=
  conclude s do
    let (vs, s') ← s.operands ((List.range 8).map (a + ·)) (some d)
    .ok (s'.writeX d (packHeader (s.layout l) vs 0 0))

def execHdrGet (d a l f : Nat) (s : State) : Host.Outcome State Fault Refusal :=
  unary s d a fun x => let (off, w) := layoutField (s.layout l) f; extractField x off w

/-! ## Control transfer (R125 to R127) -/

/-- The test of R125. -/
def condHolds (c : Cond) (x : Word) : Bool :=
  match c with
  | .eq => x.toInt = 0
  | .ne => x.toInt ≠ 0
  | .lt => x.toInt < 0
  | .ge => 0 ≤ x.toInt
  | .gt => 0 < x.toInt
  | .le => x.toInt ≤ 0
  | .al => true

/-- PC + 2 × imm. -/
def State.target (s : State) (i : Int) : Word := s.me.pc + wordOfInt (2 * i)

def execBcc (c : Cond) (a : Nat) (i : Int) (s : State) : Host.Outcome State Fault Refusal :=
  conclude s do
    let (vs, s') ← s.operands (if c = .al then [] else [a]) none
    if condHolds c (vs.getD 0 0) then .error (.done (s'.jump (s.target i))) else .ok s'

def execCall (i : Int) (s : State) : Host.Outcome State Fault Refusal :=
  conclude s (.error (.done ((s.modMe (·.setX 48 (s.me.pc + word s.ilen))).jump (s.target i))))

/-- Transfers to a register's value (R17, R126). -/
def State.jumpChecked (s : State) (t : Word) : Run :=
  if bit t 0 then .error (trapAt 0x05 t 0) else .error (.done (s.jump t))

def execJr (a : Nat) (s : State) : Host.Outcome State Fault Refusal :=
  conclude s do
    let (vs, s') ← s.operands [a] none
    s'.jumpChecked (vs.getD 0 0)

def execRet (s : State) : Host.Outcome State Fault Refusal := conclude s (s.jumpChecked (s.me.x 48))

def execNop (s : State) : Host.Outcome State Fault Refusal := conclude s (.ok s)

/-- The unit has executed halt: its slot issues no more and stays occupied until the unit ends (R30, R155). -/
def Slot.halted (sl : Slot) : Slot :=
  { sl with status := .stopped, rep := none, unit := sl.unit.map fun u => { u with how := 1 } }

def execHalt (s : State) : Host.Outcome State Fault Refusal := conclude s (.error (.done (s.modMe Slot.halted)))

/-! ## The repeat buffer (R128 to R132) -/

/-- Starts a repeat of the `len` instructions that follow, `n` times; mode 2 is unbounded. -/
def State.startRepeat (s s' : State) (len : Nat) (n : Word) (mode : Nat) : Run := do
  let start := s.me.pc + word s.ilen
  let (body, stop) ← s.bodyFrom s.cur len start
  if mode ≠ 2 ∧ n = 0 then .error (.done (s'.modMe fun sl => { sl.complete with pc := stop, blocks := sl.blocks.take 1 }))
  else
    let rep : Repeat := { start := start, stop := stop, len := len, remaining := n, unbounded := mode == 2, mode := mode, body := body }
    .error (.done (s'.modMe fun sl => { sl.complete with pc := start, rep := some rep, blocks := sl.blocks.take 1 }))

def execRpt (len : Nat) (n : RptCount) (s : State) : Host.Outcome State Fault Refusal :=
  conclude s (match n with
    | .reg a => do
      let (vs, s') ← s.operands [a] none
      s.startRepeat s' len (vs.getD 0 0) 0
    | .imm c => s.startRepeat s len (word c) 1
    | .unbounded => s.startRepeat s len 0 2)

/-! ## Identity and time (R133, R134) -/

/-- The number that cid writes. For a ridge core, which has no cluster, the cluster numbers are left open. -/
def State.identity (s : State) (sel : CidSel) : Word :=
  let c := s.myCore
  match sel with
  | .gslot => word s.cur
  | .core => word c
  | .cluster => if isRidgeCore c then s.free 0 else word (clusterOf c)
  | .die => word (dieOfCore c)
  | .coreInCluster => if isRidgeCore c then s.free 0 else word (c % 8)

/-- DEDUCED (notes/assumptions/49.md). -/
def execCid (d : Nat) (sel : CidSel) (s : State) : Host.Outcome State Fault Refusal := nullary s d (s.identity sel)

def execTsRd (d : Nat) (s : State) : Host.Outcome State Fault Refusal := nullary s d (word (s.timeOf (dieOf s.cur)))

end Sys2Proof.Machine
end

