-- ==== Sys2Proof/Machine/Thread.lean ====
section
/-! DEFINITION. Meanings of page 4 (R184 to R210): queue ports, mailboxes, counter waits, barriers, tasks, levels and
scheduling requests. -/

namespace Sys2Proof.Machine

open Host

/-! ## Queue ports (R184 to R190) -/

/-- Ports of a thread that hold a queue for popping, or for pushing (R186). -/
def Port.holds (p : Port) (input : Bool) (qid : Nat) : Bool :=
  match p with
  | .pop q _ => input && q == qid
  | .push q _ => !input && q == qid
  | .lentRef i q _ none | .lentTopk i q _ none => i == input && q == qid
  | _ => false

/-- A port of some unit, or of a unit other than `but`, holds the queue. -/
def State.held (s : State) (input : Bool) (qid : Nat) (but : Option Nat := none) : Bool :=
  s.threads.any fun t => but != some t.uid && t.ports.toList.any (·.holds input qid)

/-- qbind refuses: the port is bound, the handle names no queue, or the queue is held (R186). -/
def State.bindRefused (s : State) (dir : QDir) (q : Nat) (x : Word) : Bool :=
  let la := s.launch s.me.launch
  s.me.port q != .unbound || s.me.unit == none || decide (la.kernel.queues.length ≤ x.toNat) ||
  match la.queueIds[x.toNat]? with
  | none => true
  | some qid =>
    match Tab.get? s.queues qid with
    | none => true
    | some qu =>
      if qu.ring then dir == .input && s.held true qid (some s.me.uid) && !s.segmented qu
      else qu.core != s.myCore || s.held (dir == .input) qid

def execQbind (dir : QDir) (q a : Nat) (s : State) : Outcome State Fault Refusal :=
  conclude s do
    let (vs, s') ← s.operands [a] none
    let x := vs.getD 0 0
    if s'.bindRefused dir q x then .error (s.illegal 3)
    else
      let qid := (s.launch s.me.launch).queueIds.getD x.toNat 0
      .ok (s'.modMe (·.setPort q (match dir with | .input => .pop qid x.toNat | .output => .push qid x.toNat)))

def execQfree (q : Nat) (s : State) : Outcome State Fault Refusal :=
  conclude s (match s.me.port q with
    | .pop _ _ | .push _ _ => .ok (s.modMe (·.setPort q .unbound))
    | _ => .error (s.illegal 3))

def execQtok (q level : Nat) (s : State) : Outcome State Fault Refusal :=
  conclude s (match s.me.port q with
    | .push qid _ => if s.portRoom s.cur q then .ok (s.pushQueue s.cur qid 0 level) else .error (.park (.portFull q))
    | _ => .error (s.illegal 3))

/-- The head element of a queue as the unit of a slot sees it, and how many it can pop; of a port bound for pushing, the
queue's head and the pushes that have room (R189). DEDUCED (notes/assumptions/19.md). -/
def State.lookAt (s : State) (g p : Nat) : Option (Option Elem × Nat) :=
  let sl := s.slot g
  match sl.port p with
  | .pop q _ =>
    match Tab.get? s.queues q, sl.unit with
    | some x, some u => let v := s.visible u q x; some (v.head?, v.length)
    | _, _ => some (none, 0)
  | .push q _ =>
    match Tab.get? s.queues q with
    | some x => some (x.elems.head?, if x.ring then 2 - (x.firstHop sl.uid + x.heldRoom sl.uid) else x.depth - (x.count + x.reserved.length))
    | none => some (none, 0)
  | .gen n =>
    match Tab.get? (s.core (coreOf g)).gens n with
    | some x => let v := x.ahead.takeWhile (·.2.isNone); some (v.head?.map (·.1), v.length)
    | none => some (none, 0)
  | _ => none

/-- Bound for pushing. -/
def Port.pushes : Port → Bool
  | .push _ _ => true
  | _ => false

/-- qpeek and qlen: the tests of the read port come with those of R67 item 7, before the bounds of the destination. -/
def peek (s : State) (d q : Nat) (ok : Bool) (f : Option Elem → Nat → Word) : Outcome State Fault Refusal :=
  conclude s do
    if 51 ≤ d && d ≤ 55 then .error (s.illegal 2)
    match s.lookAt s.cur q with
    | none => .error (s.illegal 3)
    | some (h, n) => do
      if !ok then .error (s.illegal 3)
      let (_, s') ← s.operands [] (some d)
      .ok (s'.writeX d (f h n))

def execQpeek (d q : Nat) (s : State) : Outcome State Fault Refusal :=
  peek s d q (!(s.me.port q).pushes) fun h _ => match h with | some e => e.data | none => 0

/-- DEDUCED (notes/assumptions/19.md). -/
def execQlen (d q : Nat) (s : State) : Outcome State Fault Refusal :=
  peek s d q true fun h n => word ((match h with | some e => 2 ^ 34 + e.tag * 2 ^ 32 | none => 0) + n % 2 ^ 32)

def execTvec (q level a : Nat) (s : State) : Outcome State Fault Refusal :=
  conclude s do
    let (vs, s') ← s.operands [a] none
    let x := vs.getD 0 0
    if bit x 0 then .error (s.illegal 3) else .ok (s'.modMe (·.setVector q level x))

/-! ## Mailboxes (R191, R192) -/

/-- A message: its body is read as a plain load reads, while the slot goes on, and its faults come before that of X(a). -/
def execSend (a b : Nat) (s : State) : Outcome State Fault Refusal :=
  conclude s do
    let (vs, s') ← s.operands [a, b] none
    let (cs, es) ← s'.check (s'.accessor s.cur) (vs.getD 1 0) 64 0 .load
    let core := s.myCore
    let s' := s'.installAll core es
    match s'.lostPiece core s.cur (piecesOf cs) with
    | some t => .error (trapAt 0x11 t 0)
    | none =>
      let x := vs.getD 0 0
      let c := bits x 9 0
      if bits x 63 20 ≠ 0 ∨ bits x 15 10 ≠ 0 ∨ 768 ≤ c then .error (s.illegal 3)
      else if 65535 ≤ s.me.st then .error (.park (.counterLimit 1))
      else
        let (id, s') := s'.fresh
        let s' := s'.raiseOp s.cur id 1 0
        let m : Mail := { core := c, box := bits x 19 16, body := [], sender := s.cur, tip := s.me.pc, launch := s.me.launch
                          fabric := none, op := some { slot := s.cur, uid := s.me.uid, id := id, poa := poaCore c }, dieFrom := dieOf s.cur }
        let (parts, s') := s'.readLater s.cur id (piecesOf cs)
        .ok { s' with sendings := s'.sendings ++ [{ id := id, slot := s.cur, uid := s.me.uid, parts := parts, mail := some m }] }

/-- The body of a message has been read: it leaves (R191, R182). -/
def State.mailLeaves (s : State) (m : Mail) (body : List Byte) : State :=
  { s with mails := s.mails ++ [{ m with body := body }] }.traffic m.launch true m.dieFrom (dieOfCore m.core)

/-- The word that recv writes (R192). -/
def recvWord (m : Mail) (i : Nat) : Word :=
  match m.fabric with
  | none => word (m.sender * 16 + i)
  | some (_, src) => word (2 ^ 63 + src * 2 ^ 18 + i)

def execRecv (d a b : Nat) (s : State) : Outcome State Fault Refusal :=
  conclude s do
    let (vs, s') ← s.operands [a, b] (some d)
    let mask := vs.getD 1 0
    if mask = 0 ∨ bits mask 63 16 ≠ 0 then .error (s.illegal 3)
    else do
      let (cs, es) ← s'.check (s'.accessor s.cur) (vs.getD 0 0) 64 0 .store
      match s.mailFor s.cur mask.toNat with
      | none => .error (.park (.mailbox mask.toNat))
      | some (i, m) => do
        let s' ← (s'.installAll s.myCore es).storeNow s.cur cs (s.mem.read (mailboxPa s.myCore i 0) 64)
        let s' := (s'.writeX d (recvWord m i)).modCore s.myCore fun c => { c with mail := Tab.del c.mail i }
        .ok (s'.fillMailbox s.myCore i)

/-! ## Counter wait (R193, R263, R398) -/

/-- Raises an asynchronous error and forgets it (R298). -/
def State.raiseAsync (s : State) (e : AsyncError) : Stop :=
  .done ((s.modMe fun sl => { sl with pend := sl.pend.erase e }).takeTrap s.cur
    { cause := e.cause, taddr := e.addr, tinfo := e.seq % 256, async := true })

/-- The acquire of a waitc that covers CP (R263). -/
def State.acquireCopies (s : State) : State :=
  let rs := s.me.copied
  (s.modMe fun sl => { sl with copied := [] }).modCore s.myCore fun c => c.dropSectors fun _ sec =>
    rs.any fun r => decide (r.1 / 32 ≤ sec) && decide (sec ≤ (r.1 + r.2 - 1) / 32)

def execWaitc (ld st cp tb : Nat) (s : State) : Outcome State Fault Refusal :=
  conclude s (match s.me.reported (cp != 15) (limitOf tb) with
    | some e => .error (s.raiseAsync e)
    | none =>
      if s.me.within ld st cp tb then .ok (if cp = 15 then s else s.acquireCopies)
      else .error (.park (.counters ld st cp tb)))

/-! ## Barriers (R195 to R198) -/

/-- The view of barrier n. -/
def Slot.view (sl : Slot) (n : Nat) : BarrierView := Tab.getD sl.views n {}
def Slot.setView (sl : Slot) (n : Nat) (v : BarrierView) : Slot := { sl with views := Tab.set sl.views n v }

/-- Sends a request to the barrier object: 0 arrive, 1 drop, 2 join. -/
def State.barrierRequest (s : State) (n kind : Nat) : State :=
  { s with barReqs := s.barReqs ++ [{ slot := s.cur, uid := s.me.uid, launch := s.me.launch, n := n, kind := kind }] }

/-- The bound of the kernel's barrier count (R166), then a test of the unit's membership in its view. -/
def barrier (s : State) (n : Nat) (member : Bool) (f : BarrierView → Run) : Outcome State Fault Refusal :=
  conclude s (
    if s.me.barrierBound ≤ n then .error (trapAt 0x04 0 2)
    else if member && !(s.me.view n).member then .error (s.illegal 3)
    else f (s.me.view n))

/-- An arrival: p rises in the view and at the object. -/
def State.arrive (s : State) (n : Nat) (v : BarrierView) (mark : Bool) : State :=
  (s.modMe (·.setView n { v with p := v.p + 1, mark := mark })).barrierRequest n 0

def execBarArv (n : Nat) (s : State) : Outcome State Fault Refusal :=
  barrier s n true fun v => if v.c + 3 ≤ v.p then .error (.park (.lead n)) else .ok (s.arrive n v v.mark)

def execBarWait (n : Nat) (s : State) : Outcome State Fault Refusal :=
  barrier s n true fun v => if v.c < v.p then .error (.park (.phase n)) else .ok s

def execBarSync (n : Nat) (s : State) : Outcome State Fault Refusal :=
  barrier s n true fun v =>
    if v.mark then
      if v.c < v.p then .error (.park (.phase n)) else .ok (s.modMe (·.setView n { v with mark := false }))
    else if v.c + 3 ≤ v.p then .error (.park (.lead n))
    else .error (.wait (.phase n) (s.arrive n v true))

def execBarDrop (n : Nat) (s : State) : Outcome State Fault Refusal :=
  barrier s n true fun v => .ok ((s.modMe (·.setView n { v with member := false, mark := false })).barrierRequest n 1)

def execBarJoin (n : Nat) (s : State) : Outcome State Fault Refusal :=
  barrier s n false fun v =>
    if v.member then .ok s
    else
      let (id, s') := s.fresh
      .error ((s'.barrierRequest n 2).await s [] none { id := id, len := 0, finish := .none, left := 1 })

/-! ## Tasks (R199, R200) -/

/-- A thread without bindings, counters and barriers, with what a child inherits of its parent (R199). -/
def Slot.child (p : Slot) (uid : Nat) (pc : Word) : Slot :=
  { status := .running, regs := p.regs, pc := pc, frm := p.frm, fflags := p.fflags, tfrm := p.tfrm, asid := p.asid
    tcause := p.tcause, tip := p.tip, taddr := p.taddr, thand := p.thand, tinfo := p.tinfo
    unit := p.unit.map fun u => { launch := u.launch, stage := u.stage, uid := uid, root := u.root, parent := some u.uid, kind := .forked }
    regBound := p.regBound, scratchBound := p.scratchBound, barrierBound := p.barrierBound, ringBound := p.ringBound
    stackBase := p.stackBase, stackSize := p.stackSize : Slot }.setX 48 0 |>.setX 49 (p.x 50)

/-- Forked tasks of a launch that wait for a slot (R199); units that have yielded wait beside them. -/
def Launch.waitingForks (la : Launch) : Nat := (la.tasks.filter fun t => match t.slot.unit with | some u => u.kind == .forked | none => false).length

/-- DEDUCED (notes/assumptions/17.md). -/
def execFork (i : Int) (s : State) : Outcome State Fault Refusal :=
  conclude s (match s.me.unit with
    | none => .ok s
    | some u =>
      if Config.waitingTasks ≤ (s.launch u.launch).waitingForks then .error (trapAt 0x04 0 7)
      else
        let (uid, s) := s.fresh
        let child := s.me.child uid (s.target i)
        let rid := s.nextId
        let s := s.startRelease s.cur .dev false
        let t : Thread := { slot := child, core := s.myCore, after := some (s.cur, rid) }
        let s := s.modLaunch u.launch fun l => { l with tasks := t :: l.tasks, count := l.count + 1 }
        .ok (s.modUnit u.uid fun u => { u with children := u.children + 1 }))

/-- DEDUCED (notes/assumptions/17.md). -/
def execSync (s : State) : Outcome State Fault Refusal :=
  conclude s (match s.me.unit with
    | none => .ok (s.acquire s.myCore .dev)
    | some u =>
      if u.children = 0 then .ok (s.acquire s.myCore .dev)
      else if s.movable s.me then
        if s.me.fenced ≠ [] then .error (.park .release)
        else
          let rid := s.nextId
          let t : Thread := { slot := s.me.leaving, core := s.myCore, after := some (s.cur, rid) }
          let s := (s.modLaunch u.launch fun l => { l with resting := Tab.set l.resting u.uid t }).startRelease s.cur .dev false
          .error (.done ((s.vacate s.cur).sweepMail s.myCore u.launch))
      else .error (.park .children))

/-- A queue that the runtime has assigned to the issuing unit's job (R158, R201). DESIGN CHOICE (notes/assumptions/18.md). -/
def State.spawnAllowed (s : State) (q : Nat) : Bool :=
  (s.subQ q).enabled && s.me.unit != none && (s.subQ q).job == (s.launch s.me.launch).job

/-- The record's bytes are there: its reservation is sent to the queue's home (R201), and its copy is counted in ST. -/
def State.reserveSpawn (s before : State) (reads : List Nat) (i d : Nat) (bytes : List Byte) : Stop :=
  if 65535 ≤ s.me.st then .park (.counterLimit 1)
  else
    let (id, s) := s.fresh
    let r : Spawn := { slot := s.cur, die := dieOf s.cur, index := i, record := bytes, id := id }
    { s with spawns := s.spawns ++ [r] }.raiseOp s.cur id 1 0 |>.await before reads (some d)
      { id := id, len := 0, finish := .spawned i d id, parts := [{ off := 0, a := 0, pa := 0, n := 8 }] }

/-- DESIGN CHOICE (notes/assumptions/18.md). -/
def execSpawn (d a b : Nat) (s : State) : Outcome State Fault Refusal :=
  conclude s do
    let (vs, s') ← s.operands [a, b] (some d)
    let i := (vs.getD 1 0).toNat
    let q := 128 + 16 * dieOf s.cur + i
    if (vs.getD 0 0).toNat % 64 ≠ 0 then .error (trapAt 0x05 (vs.getD 0 0) 0)
    else if 16 ≤ i then .error (s.illegal 3)
    else if !s.spawnAllowed q then .error (trapAt 0x06 (vs.getD 0 0) ((s.free 0).toNat % 256))
    else do
      let (cs, es) ← s'.check (s'.accessor s.cur) (vs.getD 0 0) 64 0 .load
      if 65535 ≤ s.me.st then .error (.park (.counterLimit 1))
      s'.loadThen s [a, b] (some d) cs es .cached (.spawn i d) fun bs t => .error (t.reserveSpawn s [a, b] i d bs)

/-- The reply of the reservation (R201): the queue is full, or the record is copied into its entry. -/
def State.spawnReplied (s : State) (i d op : Nat) (v : Word) : State :=
  if v = wordOfInt (-1) then (s.dropOp s.cur op).writeX d v
  else
    let o : OpRef := { slot := s.cur, uid := s.me.uid, id := op, poa := poaDevice }
    let s := s.modDie (dieOf s.cur) fun x => { x with
      spawnQ := Tab.modify x.spawnQ i {} fun y => { y with entries := Tab.modify y.entries v.toNat (false, []) fun e => (true, e.2) } }
    { s with acks := s.acks ++ [o] }.writeX d v

/-! ## Levels (R202 to R205) -/

/-- DEDUCED (notes/assumptions/23.md). -/
def execLvlCnt (v : Level) (d a : Nat) (s : State) : Outcome State Fault Refusal :=
  conclude s do
    let (vs, s') ← s.operands [a] (some d)
    match s.seeLevel s.cur v (vs.getD 0 0) with
    | none => .error (s.illegal 3)
    | some none => .ok (s'.writeX d (word (2 ^ 63)))
    | some (some st) => .ok (s'.writeX d (word (st.status * 2 ^ 32 + st.count % 2 ^ 32)))

def execLvlWait (v : Level) (a b : Nat) (s : State) : Outcome State Fault Refusal :=
  conclude s do
    let (vs, s') ← s.operands [a, b] none
    match s.seeLevel s.cur v (vs.getD 0 0) with
    | none => .error (s.illegal 3)
    | some _ =>
      if s.levelReached s.cur v (vs.getD 0 0) (vs.getD 1 0).toNat then .ok s'
      else .error (.park (.level v (vs.getD 0 0) (vs.getD 1 0).toNat))

def execCancel (v : Level) (a : Nat) (s : State) : Outcome State Fault Refusal :=
  conclude s do
    let (vs, s') ← s.operands [a] none
    let l := s.me.launch
    match s.levelKey (s.launch l) l v (vs.getD 0 0) with
    | none => .error (s.illegal 3)
    | some none => .ok s'
    | some (some k) => .ok { s' with cancels := s'.cancels ++ [{ level := v, key := k }] }

/-! ## Scheduling requests and probes (R206 to R209) -/

/-- The stage of a thread of a launch. -/
def State.stageOf (s : State) (l : Nat) (t : Slot) : Stage := match t.unit with | some u => (s.launch l).stage u.stage | none => {}

/-- The most recently forked waiting task that may start in the issuing slot, and the others (R165, R181, R206).
DEDUCED (notes/assumptions/22.md). -/
def State.taskFor (s : State) (l : Nat) : Option (Thread × List Thread) :=
  let ts := (s.launch l).tasks
  (ts.find? fun t => s.mayStart t && (s.launchOrder l t.core).contains s.myCore && s.scratchFor l (s.stageOf l t.slot) s.myCore).map fun t => (t, ts.erase t)

/-- DEDUCED (notes/assumptions/22.md). -/
def execYieldTurn (s : State) : Outcome State Fault Refusal :=
  let later := conclude s (.ok (s.modMe fun sl => { sl with yielded := some s.cycle }))
  match s.me.unit with
  | none => later
  | some u =>
    match if s.movable s.me then s.taskFor u.launch else none with
    | none => later
    | some (t, rest) =>
      if s.me.fenced ≠ [] then conclude s (.error (.park .release))
      else
        let rid := s.nextId
        let own : Thread := { slot := (s.me.complete.advance s.ilen).leaving, core := s.myCore, after := some (s.cur, rid) }
        let s := (s.modLaunch u.launch fun l => { l with tasks := rest ++ [own] }).startRelease s.cur .dev false
        .next ((s.takeScratch u.launch s.myCore (s.stageOf u.launch t.slot)).putThread s.cur t.slot)

def execLbq (d : Nat) (s : State) : Outcome State Fault Refusal :=
  nullary s d (word ((List.range 8).foldl (fun n i => n + (s.cluster (clusterOf s.myCore)).loads.toList.getD i 0 * 32 ^ i) 0))

def execMigr (a : Nat) (s : State) : Outcome State Fault Refusal :=
  conclude s do
    let (vs, s') ← s.operands [a] none
    let x := vs.getD 0 0
    if bits x 63 3 ≠ 0 then .error (s.illegal 3)
    else
      let target := s.myCore / 8 * 8 + x.toNat
      if s'.movable s'.me && target != s.myCore && !isRidgeCore s.myCore then
        .error (.done (s'.retire.startMigration s.cur target))
      else .ok s'

def execDusk (o : DuskScope) (d a : Nat) (s : State) : Outcome State Fault Refusal :=
  conclude s do
    let (vs, s') ← s.operands [a] (some d)
    let x := vs.getD 0 0
    if bits x 63 4 ≠ 0 then .error (s.illegal 3)
    else
      let n := s.me.probeSeq
      let p : Probe := { launch := s.me.launch, slot := s.cur, core := s.myCore, box := x.toNat, dev := o == .dev, number := n, sample := none }
      .ok (({ s' with probes := s'.probes ++ [p] }.modMe fun sl => { sl with probeSeq := n + 1 }).writeX d (word n))

end Sys2Proof.Machine
end

