-- ==== Sys2Proof/Machine/Numbers.lean ====
section
/-! DEFINITION. Number formats, exact values and rounding (R83 to R104). An exact value is a sign, a magnitude m and
an exponent e, standing for ± m × 2^e; a magnitude that is only bracketed between two neighbours m and m + 1 is written
2 m + 1 one exponent lower, which rounds alike as long as m has more bits than the format. -/

namespace Sys2Proof.Machine

/-- An exact or special value. A NaN keeps its FP32 code (R103), or the canonical one for other formats (R104). -/
inductive Val where
  | fin (neg : Bool) (m : Nat) (e : Int)
  | inf (neg : Bool)
  | nan (code : Nat) (signalling : Bool)
  | nar
  deriving DecidableEq, Repr

/-- An IEEE format: precision, smallest and largest exponent, code width (R86). -/
structure Ieee where
  p : Nat
  emin : Int
  emax : Int
  width : Nat
  deriving DecidableEq, Repr

def fp32 : Ieee := { p := 24, emin := -126, emax := 127, width := 32 }
def fp16 : Ieee := { p := 11, emin := -14, emax := 15, width := 16 }
def bf16 : Ieee := { p := 8, emin := -126, emax := 127, width := 16 }

/-- Code of +∞. -/
def Ieee.infCode (f : Ieee) : Nat := 2 ^ (f.width - 1) - 2 ^ (f.p - 1)
/-- Canonical NaN (R86, R101). -/
def Ieee.nanCode (f : Ieee) : Nat := f.infCode + 2 ^ (f.p - 2)
/-- Largest finite code. -/
def Ieee.maxCode (f : Ieee) : Nat := f.infCode - 1
/-- The sign bit set or not. -/
def Ieee.signed (f : Ieee) (neg : Bool) (c : Nat) : Nat := if neg then c + 2 ^ (f.width - 1) else c

/-- Value of an IEEE code (R86, R87). NaNs of 16-bit formats count as the canonical FP32 NaN (R104). -/
def Ieee.decode (f : Ieee) (code : Nat) : Val :=
  let c := code % 2 ^ f.width
  let neg := 2 ^ (f.width - 1) ≤ c
  let mag := c % 2 ^ (f.width - 1)
  let frac := mag % 2 ^ (f.p - 1)
  let expo := mag / 2 ^ (f.p - 1)
  if mag = f.infCode then .inf neg
  else if f.infCode < mag then .nan (if f.width = 32 then c else 0x7FC00000) (frac < 2 ^ (f.p - 2))
  else if expo = 0 then .fin neg frac (f.emin - (f.p - 1))
  else .fin neg (frac + 2 ^ (f.p - 1)) (f.emin - (f.p - 1) + (expo - 1))

/-- The greatest multiple of 2^q below m × 2^e in units of 2^q, and what is left: 0 nothing, 1 below a half, 2 a half,
3 above a half. -/
def splitAt (m : Nat) (e q : Int) : Nat × Nat :=
  if q ≤ e then (m * 2 ^ (e - q).toNat, 0)
  else
    let k := (q - e).toNat
    let r := m % 2 ^ k
    (m / 2 ^ k, if r = 0 then 0 else if 2 * r < 2 ^ k then 1 else if 2 * r = 2 ^ k then 2 else 3)

/-- Whether a magnitude is rounded away from zero (R21, R89). -/
def roundsUp (mode : Nat) (neg : Bool) (n rest : Nat) : Bool :=
  match mode with
  | 0 => rest = 3 || (rest = 2 && n % 2 = 1)
  | 2 => rest ≠ 0 && !neg
  | 3 => rest ≠ 0 && neg
  | _ => false

/-- Rounds ± m × 2^e to an integral multiple of 2^q, in units of 2^q. -/
def roundTo (mode : Nat) (neg : Bool) (m : Nat) (e q : Int) : Nat × Bool :=
  let (n, rest) := splitAt m e q
  (n + ofBool (roundsUp mode neg n rest), rest != 0)

/-- RoundTo of a finite value into an IEEE format: the code and the flags (R89, R90). -/
def Ieee.round (f : Ieee) (mode : Nat) (neg : Bool) (m : Nat) (e : Int) : Nat × Nat :=
  if m = 0 then (f.signed neg 0, 0)
  else
    let top : Int := e + (bitLen m - 1 : Nat)
    let qmin := f.emin - (f.p - 1)
    let q := max (top - (f.p - 1)) qmin
    let (n, inexact) := roundTo mode neg m e q
    let code := ((q - qmin).toNat) * 2 ^ (f.p - 1) + n
    if f.infCode ≤ code then
      let toInf := mode = 0 || (mode = 2 && !neg) || (mode = 3 && neg)
      (f.signed neg (if toInf then f.infCode else f.maxCode), fOF + fNX)
    else
      let (n', _) := roundTo mode neg m e (top - (f.p - 1))
      let tiny := top < f.emin && !(n' = 2 ^ f.p && top + 1 = f.emin)
      (f.signed neg code, ofBool inexact * fNX + ofBool (tiny && inexact) * fUF)

/-! ## NaNs (R101 to R104) -/

/-- An FP32 NaN code made quiet. -/
def quiet32 (c : Nat) : Nat := if c / 2 ^ 22 % 2 = 0 then c + 2 ^ 22 else c

/-- The order of R103: attributed first, then the core field, the k field, the whole code. DEDUCED (notes/assumptions/83.md). -/
def nanKey (c : Nat) : Nat :=
  let core := c / 2 ^ 12 % 1024
  ((ofBool (core = 0) * 1024 + core) * 4096 + c % 4096) * 2 ^ 32 + c

/-- The NaN chosen among FP32 NaN codes after quietening (R103). DEDUCED (notes/assumptions/83.md). -/
def chooseNan : List Nat → Nat
  | [] => 0x7FC00000
  | c :: r =>
    let best := (quiet32 c)
    r.foldl (fun b x => if nanKey (quiet32 x) < nanKey b then quiet32 x else b) best

/-- NaN codes among operands. -/
def nanCodes (vs : List Val) : List Nat := vs.filterMap fun v => match v with | .nan c _ => some c | .nar => some 0x7FC00000 | _ => none

/-- An operand is a signalling NaN. -/
def anySignalling (vs : List Val) : Bool := vs.any fun v => match v with | .nan _ s => s | _ => false

/-- The NaN result of an operation with these operands (R101, R103, R104, R113). -/
def Ieee.nanOf (f : Ieee) (vs : List Val) : Nat :=
  if f.width = 32 then chooseNan (nanCodes vs) else f.nanCode

/-- An operation's NaN result: NV for a signalling operand or an invalid operation. -/
def Ieee.nanResult (f : Ieee) (vs : List Val) (invalid : Bool) : Nat × Nat :=
  (f.nanOf vs, ofBool (anySignalling vs || invalid) * fNV)

def Val.isNan : Val → Bool
  | .nan _ _ | .nar => true
  | _ => false
def Val.isInf : Val → Bool
  | .inf _ => true
  | _ => false
def Val.isZero : Val → Bool
  | .fin _ m _ => m = 0
  | _ => false
def Val.neg : Val → Bool
  | .fin n _ _ | .inf n => n
  | _ => false
/-- The value with its sign inverted. -/
def Val.negate : Val → Val
  | .fin n m e => .fin (!n) m e
  | .inf n => .inf (!n)
  | v => v

/-! ## Exact sums and products -/

/-- Product of two values that are no NaNs; none for 0 × ∞. A product of zero has the exclusive or of the operands'
signs, in the tapered formats too, whose one zero counts as positive (R92, R94, R105 state no sign for it): DESIGN CHOICE
(notes/assumptions/101.md). -/
def mulVal (a b : Val) : Option Val :=
  match a, b with
  | .fin na ma ea, .fin nb mb eb => some (.fin (na != nb) (ma * mb) (ea + eb))
  | .inf na, .inf nb => some (.inf (na != nb))
  | .inf na, .fin nb mb _ => if mb = 0 then none else some (.inf (na != nb))
  | .fin na ma _, .inf nb => if ma = 0 then none else some (.inf (na != nb))
  | _, _ => none

/-- ± m × 2^e as an integer multiple of 2^q, q at most e. -/
def scaleInt (neg : Bool) (m : Nat) (e q : Int) : Int :=
  let n : Int := (m * 2 ^ (e - q).toNat : Nat)
  if neg then -n else n

/-- Exact sum of finite addends, with the sign of a zero sum (R89). -/
def sumFin (mode : Nat) (l : List (Bool × Nat × Int)) : Val :=
  let q := l.foldl (fun q x => min q x.2.2) 0
  let t := l.foldl (fun (t : Int) x => t + scaleInt x.1 x.2.1 x.2.2 q) 0
  if t = 0 then
    let same := l.all (fun x => x.1) || l.all (fun x => !x.1)
    .fin (if same && l.all (fun x => x.2.1 = 0) then l.any (fun x => x.1) else mode = 3) 0 0
  else .fin (t < 0) t.natAbs q

/-- Exact sum of values that are no NaNs; none for ∞ - ∞. -/
def sumVal (mode : Nat) (l : List Val) : Option Val :=
  let infs := l.filter Val.isInf
  match infs with
  | [] => some (sumFin mode (l.filterMap fun v => match v with | .fin n m e => some (n, m, e) | _ => none))
  | i :: r => if r.all fun x => x.neg == i.neg then some i else none

/-- Rounds a value into an IEEE format; `ops` are the operands, for the choice of a NaN. -/
def Ieee.ofVal (f : Ieee) (mode : Nat) (ops : List Val) : Option Val → Nat × Nat
  | some (.fin n m e) => f.round mode n m e
  | some (.inf n) => (f.signed n f.infCode, 0)
  | _ => f.nanResult ops true

/-- Sum of products c + Σ aᵢ × bᵢ rounded once: fadd, fsub, fmul, fma, fdot2 and their lanes (R136, R142). A product
0 × ∞ sets NV even beside a NaN, infinities of both signs do not. DEDUCED (notes/assumptions/111.md). -/
def Ieee.sumProducts (f : Ieee) (mode : Nat) (addends : List Val) (prods : List (Val × Val)) : Nat × Nat :=
  let ops := addends ++ prods.flatMap fun p => [p.1, p.2]
  let bad := prods.any fun p => (p.1.isInf && p.2.isZero) || (p.1.isZero && p.2.isInf)
  if ops.any Val.isNan then f.nanResult ops bad
  else if bad then f.nanResult ops true
  else f.ofVal mode ops (sumVal mode (addends ++ prods.filterMap fun p => mulVal p.1 p.2))

def Ieee.add (f : Ieee) (mode : Nat) (a b : Val) : Nat × Nat := f.sumProducts mode [a, b] []
def Ieee.mul (f : Ieee) (mode : Nat) (a b : Val) : Nat × Nat :=
  if [a, b].any Val.isNan then f.nanResult [a, b] false else f.ofVal mode [a, b] (mulVal a b)
def Ieee.fma (f : Ieee) (mode : Nat) (c a b : Val) : Nat × Nat := f.sumProducts mode [c] [(a, b)]

/-! ## Division and roots -/

/-- Quotient of magnitudes with at least `p + 2` bits, bracketed. -/
def divMag (p : Nat) (ma : Nat) (ea : Int) (mb : Nat) (eb : Int) : Nat × Int :=
  let k := p + 3 + bitLen mb
  let n := ma * 2 ^ k
  (2 * (n / mb) + ofBool (n % mb ≠ 0), ea - eb - k - 1)

/-- Division (R136). -/
def Ieee.div (f : Ieee) (mode : Nat) (a b : Val) : Nat × Nat :=
  match a, b with
  | .fin na ma ea, .fin nb mb eb =>
    if mb = 0 then if ma = 0 then f.nanResult [] true else (f.signed (na != nb) f.infCode, fDZ)
    else if ma = 0 then (f.signed (na != nb) 0, 0)
    else let (m, e) := divMag f.p ma ea mb eb; f.round mode (na != nb) m e
  | .inf na, .fin nb _ _ => (f.signed (na != nb) f.infCode, 0)
  | .fin na _ _, .inf nb => (f.signed (na != nb) 0, 0)
  | .inf _, .inf _ => f.nanResult [] true
  | _, _ => f.nanResult [a, b] false

/-- Integer square root, bit by bit from 2^n down. -/
def isqrt : Nat → Nat → Nat → Nat
  | 0, r, _ => r
  | n + 1, r, m => let t := r + 2 ^ n; isqrt n (if t * t ≤ m then t else r) m

/-- Root of m × 2^e with at least `p + 2` bits, bracketed. -/
def rootMag (p m : Nat) (e : Int) : Nat × Int :=
  let k := 2 * (p + 4) + (e % 2).toNat
  let n := m * 2 ^ k
  let r := isqrt ((bitLen n + 1) / 2 + 1) 0 n
  (2 * r + ofBool (r * r ≠ n), (e - k) / 2 - 1)

/-- Square root (R136): √(-0) = -0. -/
def Ieee.sqrt (f : Ieee) (mode : Nat) (a : Val) : Nat × Nat :=
  match a with
  | .fin n m e =>
    if m = 0 then (f.signed n 0, 0)
    else if n then f.nanResult [] true
    else let (r, q) := rootMag f.p m e; f.round mode false r q
  | .inf n => if n then f.nanResult [] true else (f.infCode, 0)
  | v => f.nanResult [v] false

/-- Reciprocal (R137). -/
def Ieee.rcp (f : Ieee) (mode : Nat) (a : Val) : Nat × Nat := f.div mode (.fin false 1 0) a

/-- Reciprocal root (R137). -/
def Ieee.rsq (f : Ieee) (mode : Nat) (a : Val) : Nat × Nat :=
  match a with
  | .fin n m e =>
    if m = 0 then (f.signed n f.infCode, fDZ)
    else if n then f.nanResult [] true
    else
      let (m, e) := if e % 2 = 0 then (m, e) else (2 * m, e - 1)
      let k := f.p + 4 + bitLen m
      let n2 := 2 ^ (2 * k)
      let r := isqrt (k + 2) 0 (n2 / m)
      f.round mode false (2 * r + ofBool (r * r * m ≠ n2)) (-(k : Int) - e / 2 - 1)
  | .inf n => if n then f.nanResult [] true else (0, 0)
  | v => f.nanResult [v] false

/-! ## Exponential and logarithm (R137), by fixed-point bounds

2^a of an operand that is no integer, and log2 a of one that is no power of two, are irrational. A lower bound is
computed with so many places that no midpoint and no value of the format lies between it and the exact value, so the
bound rounds as the exact value does. DEDUCED (notes/assumptions/82.md). -/

/-- Fraction bits of the fixed-point numbers of `fex2`. -/
def expBits : Nat := 224

/-- Lower bound of 2^f, f = `frac` / 2^n, as a fixed-point number: the product of 2^(1/2), 2^(1/4), … over the bits of
f. `c` is the lower bound of the current root, `acc` the product so far. All steps together lose less than 2^12 units. -/
def expLow : Nat → Nat → Nat → Nat → Nat
  | 0, _, _, acc => acc
  | n + 1, frac, c, acc =>
    let c' := isqrt (expBits + 2) 0 (c * 2 ^ expBits)
    let b := frac / 2 ^ n % 2
    expLow n frac c' (if b = 1 then acc * c' / 2 ^ expBits else acc)

/-- 2^a correctly rounded (R137). -/
def Ieee.ex2 (f : Ieee) (mode : Nat) (a : Val) : Nat × Nat :=
  match a with
  | .inf n => if n then (0, 0) else (f.infCode, 0)
  | .fin n m e =>
    if m = 0 then f.round mode false 1 0
    else
      let whole := if 0 ≤ e then m * 2 ^ e.toNat else m / 2 ^ (-e).toNat
      if 2000 ≤ whole then f.round mode false 1 (if n then f.emin - 200 else f.emax + 200)
      else
        let places := (-e).toNat
        let frac := if 0 ≤ e then 0 else m % 2 ^ places
        if frac = 0 then f.round mode false 1 (if n then -(whole : Int) else whole)
        else
          let (i, fr) : Int × Nat := if n then (-(whole : Int) - 1, 2 ^ places - frac) else (whole, frac)
          f.round mode false (2 * expLow places fr (2 * 2 ^ expBits) (2 ^ expBits) + 1) (i - expBits - 1)
  | v => f.nanResult [v] false

/-- Fraction bits of the fixed-point numbers of `flg2`, and the binary places it finds. -/
def logBits : Nat := 320
def logPlaces : Nat := 120

/-- Binary places of log2 x for a lower bound x from 1 to 2 (fixed point), one squaring each. -/
def logDigits : Nat → Nat → Nat → Nat
  | 0, _, acc => acc
  | n + 1, x, acc =>
    let sq := x * x / 2 ^ logBits
    if 2 * 2 ^ logBits ≤ sq then logDigits n (sq / 2) (2 * acc + 1) else logDigits n sq (2 * acc)

/-- log2 a correctly rounded (R137). -/
def Ieee.lg2 (f : Ieee) (mode : Nat) (a : Val) : Nat × Nat :=
  match a with
  | .inf n => if n then f.nanResult [] true else (f.infCode, 0)
  | .fin n m e =>
    if m = 0 then (f.signed true f.infCode, fDZ)
    else if n then f.nanResult [] true
    else
      let l := bitLen m - 1
      let whole : Int := e + (l : Nat)
      if m = 2 ^ l then f.round mode (whole < 0) whole.natAbs 0
      else
        let v : Int := whole * 2 ^ logPlaces + (logDigits logPlaces (m * 2 ^ logBits / 2 ^ l) 0 : Nat)
        if 0 ≤ v then f.round mode false (2 * v.toNat + 1) (-(logPlaces : Int) - 1)
        else f.round mode true (2 * (v.natAbs - 1) + 1) (-(logPlaces : Int) - 1)
  | v => f.nanResult [v] false

/-! ## Comparison, minimum and maximum -/

/-- Order of two values that are no NaNs. -/
def cmpVal (a b : Val) : Ordering :=
  match a, b with
  | .inf na, .inf nb => if na = nb then .eq else if na then .lt else .gt
  | .inf na, _ => if na then .lt else .gt
  | _, .inf nb => if nb then .gt else .lt
  | .fin na ma ea, .fin nb mb eb =>
    let q := min ea eb
    compare (scaleInt na ma ea q) (scaleInt nb mb eb q)
  | _, _ => .eq

/-- minimumNumber or maximumNumber (R138): the chosen code and the flags; -0 counts as less than +0. -/
def Ieee.minMax (f : Ieee) (isMax : Bool) (ca cb : Nat) : Nat × Nat :=
  let a := f.decode ca
  let b := f.decode cb
  let nv := ofBool (anySignalling [a, b]) * fNV
  if a.isNan && b.isNan then (f.nanOf [a, b], nv)
  else if a.isNan then (cb % 2 ^ f.width, nv)
  else if b.isNan then (ca % 2 ^ f.width, nv)
  else
    let aLess := match cmpVal a b with
      | .lt => true
      | .gt => false
      | .eq => a.neg && !b.neg
    (if aLess != isMax then ca % 2 ^ f.width else cb % 2 ^ f.width, nv)

/-- Comparison of R140: the result and the flags. -/
def Ieee.compare (f : Ieee) (c : FCond) (ca cb : Nat) : Bool × Nat :=
  let a := f.decode ca
  let b := f.decode cb
  let un := a.isNan || b.isNan
  let nv := match c with
    | .lt | .le => un
    | _ => anySignalling [a, b]
  let r := match c with
    | .eq => !un && cmpVal a b == .eq
    | .ne => un || cmpVal a b != .eq
    | .lt => !un && cmpVal a b == .lt
    | .le => !un && cmpVal a b != .gt
    | .un => un
  (r, ofBool nv * fNV)

/-- The class mask of R141. -/
def classify (code : Nat) : Nat :=
  match fp32.decode code with
  | .inf n => if n then 1 else 2 ^ 7
  | .nan c s => if s then 2 ^ 8 else 2 ^ 9 + ofBool (c / 2 ^ 12 % 1024 ≠ 0) * 2 ^ 10
  | .fin n m _ =>
    if m = 0 then (if n then 2 ^ 3 else 2 ^ 4)
    else if m < 2 ^ 23 then (if n then 2 ^ 2 else 2 ^ 5)
    else (if n then 2 ^ 1 else 2 ^ 6)
  | .nar => 0

/-- An integral value under the mode (R139): the code and NX. -/
def Ieee.toIntegral (f : Ieee) (mode : Nat) (code : Nat) : Nat × Nat :=
  match f.decode code with
  | .fin n m e =>
    if m = 0 then (code % 2 ^ f.width, 0)
    else
      let (k, inexact) := roundTo mode n m e 0
      ((f.round mode n k 0).1, ofBool inexact * fNX)
  | .inf _ => (code % 2 ^ f.width, 0)
  | v => f.nanResult [v] false

/-! ## Tapered formats (R92 to R97) -/

/-- Length of the run of bits equal to `b` from bit `n` - 1 of x down. -/
def runLen (b : Nat) : Nat → Nat → Nat
  | 0, _ => 0
  | n + 1, x => if x / 2 ^ n % 2 = b then 1 + runLen b n x else 0

/-- Magnitude of a positive tapered code of `w` bits (8 or 6): mantissa and exponent (R92, R94). -/
def taperedMag (w c : Nat) : Nat × Int :=
  let n := w - 1
  let x := c % 2 ^ n
  let top := x / 2 ^ (n - 1) % 2
  let m := runLen top n x
  let k : Int := if top = 1 then (m : Int) - 1 else -(m : Int)
  let restLen := n - m - 1
  let rest := x % 2 ^ restLen
  if w = 6 then (2 ^ restLen + rest, k - restLen)
  else if restLen = 0 then (1, 2 * k)
  else
    let fl := restLen - 1
    (2 ^ fl + rest % 2 ^ fl, 2 * k + (rest / 2 ^ fl : Nat) - fl)

/-- Value of a tapered code (R92, R94). -/
def taperedDecode (w code : Nat) : Val :=
  let c := code % 2 ^ w
  if c = 0 then .fin false 0 0
  else if c = 2 ^ (w - 1) then .nar
  else
    let neg := 2 ^ (w - 1) ≤ c
    let (m, e) := taperedMag w (if neg then 2 ^ w - c else c)
    .fin neg m e

/-- Order of two magnitudes. -/
def cmpMag (m : Nat) (e : Int) (m' : Nat) (e' : Int) : Ordering :=
  let q := min e e'
  compare (m * 2 ^ (e - q).toNat) (m' * 2 ^ (e' - q).toNat)

/-- RoundTo of a finite value into a tapered format (R96). -/
def taperedRound (w mode : Nat) (neg : Bool) (m : Nat) (e : Int) : Nat × Nat :=
  let top := 2 ^ (w - 1) - 1
  let signed (c : Nat) : Nat := if neg then 2 ^ w - c else c
  if m = 0 then (0, 0)
  else
    let below := ((List.range top).filter fun i =>
      let (m', e') := taperedMag w (i + 1); cmpMag m' e' m e != .gt).length
    if below = 0 then (signed 1, fUF + fNX)
    else
      let (ml, el) := taperedMag w below
      if cmpMag ml el m e = .eq then (signed below, 0)
      else if below = top then (signed top, fOF + fNX)
      else
        let (mh, eh) := taperedMag w (below + 1)
        let q := min (min el eh) e
        let l := ml * 2 ^ (el - q).toNat
        let h := mh * 2 ^ (eh - q).toNat
        let v := m * 2 ^ (e - q).toNat
        let up := match mode with
          | 0 => l + h < 2 * v || (l + h = 2 * v && (below + 1) % 2 = 0)
          | 2 => !neg
          | 3 => neg
          | _ => false
        (signed (if up then below + 1 else below), fNX)

/-- RoundTo into T8 (`w` = 8) or T6 (R96). -/
def taperedOf (w mode : Nat) : Val → Nat × Nat
  | .fin n m e => taperedRound w mode n m e
  | .nar => (2 ^ (w - 1), 0)
  | _ => (2 ^ (w - 1), fNV)

/-! ## E8 (R98, R100) -/

/-- Value of an E8 code; the NaN scale is a quiet NaN. -/
def e8Decode (code : Nat) : Val :=
  let c := code % 256
  if c = 255 then .nan 0x7FC00000 false else .fin false 1 ((c : Int) - 127)

/-- RoundTo into E8 (R100). -/
def e8Of (mode : Nat) : Val → Nat × Nat
  | .fin n m e =>
    if m = 0 || n then (255, fNV)
    else
      let l := bitLen m - 1
      let lo : Int := e + (l : Nat)
      let exact := m = 2 ^ l
      let up := match mode with
        | 0 => 3 * 2 ^ l < 2 * m || (3 * 2 ^ l = 2 * m && (lo + 127) % 2 = 1)
        | 2 => !exact
        | _ => false
      let k := if up then lo + 1 else lo
      if k < -127 then (0, fUF + fNX)
      else if 127 < k then (254, fOF + fNX)
      else ((k + 127).toNat, ofBool (!exact) * fNX)
  | _ => (255, fNV)

/-! ## Scalar formats -/

/-- Code width of a scalar format (R143). -/
def sfmtWidth : SFmt → Nat
  | .fp32 => 32 | .fp16 => 16 | .bf16 => 16 | .t8 => 8 | .t6 => 6 | .e8 => 8

/-- Decode of R6. -/
def sfmtDecode (f : SFmt) (code : Nat) : Val :=
  match f with
  | .fp32 => fp32.decode code
  | .fp16 => fp16.decode code
  | .bf16 => bf16.decode code
  | .t8 => taperedDecode 8 code
  | .t6 => taperedDecode 6 code
  | .e8 => e8Decode code

/-- An IEEE result of a conversion: a NaN is quietened (FP32 source) or canonical (R143). -/
def Ieee.convert (f : Ieee) (mode : Nat) (v : Val) : Nat × Nat :=
  match v with
  | .fin n m e => f.round mode n m e
  | .inf n => (f.signed n f.infCode, 0)
  | .nan c s => (if f.width = 32 then quiet32 c else f.nanCode, ofBool s * fNV)
  | .nar => (f.nanCode, 0)

/-- RoundTo of R6 into a scalar format, with its flags. -/
def sfmtConvert (f : SFmt) (mode : Nat) (v : Val) : Nat × Nat :=
  match f with
  | .fp32 => fp32.convert mode v
  | .fp16 => fp16.convert mode v
  | .bf16 => bf16.convert mode v
  | .t8 => taperedOf 8 mode v
  | .t6 => taperedOf 6 mode v
  | .e8 => e8Of mode v

/-- cvt.ff (R143): a format to itself returns the code, but for a signalling NaN; a NaN scale that is carried to E8 sets NV, as any
NaN converted to E8 does (R90). DEDUCED (notes/assumptions/110.md). -/
def convertFF (dst src : SFmt) (mode code : Nat) : Nat × Nat :=
  let c := code % 2 ^ sfmtWidth src
  let v := sfmtDecode src c
  if dst = src ∧ !anySignalling [v] then (c, ofBool (dst = .e8 ∧ v.isNan) * fNV)
  else
    let r := sfmtConvert dst mode v
    (r.1, r.2 ||| ofBool (anySignalling [v]) * fNV)

/-! ## Integers (R83, R91) -/

/-- Width and signedness of an integer type. -/
def itypeShape : IType → Nat × Bool
  | .i64 => (64, true) | .n64 => (64, false) | .i32 => (32, true) | .n32 => (32, false)
  | .i16 => (16, true) | .n16 => (16, false) | .i8 => (8, true) | .n8 => (8, false)

/-- Bounds of an integer format. -/
def intBounds (w : Nat) (signed : Bool) : Int × Int :=
  if signed then (-(2 ^ (w - 1)), 2 ^ (w - 1) - 1) else (0, 2 ^ w - 1)

/-- RoundTo into an integer format (R91). -/
def roundInt (w : Nat) (signed : Bool) (mode : Nat) (v : Val) : Int × Nat :=
  let (lo, hi) := intBounds w signed
  match v with
  | .fin n m e =>
    let (k, inexact) := roundTo mode n m e 0
    let i : Int := if n then -(k : Int) else k
    if i < lo then (lo, fNV) else if hi < i then (hi, fNV) else (i, ofBool inexact * fNX)
  | .inf n => (if n then lo else hi, fNV)
  | _ => (0, fNV)

/-- The exact value of an integer. -/
def valOfInt (i : Int) : Val := .fin (i < 0) i.natAbs 0

end Sys2Proof.Machine
end

