-- ==== Sys2Proof/Machine/TileMath.lean ====
section
/-! DEFINITION. The arithmetic of the tile unit: groups, scales and special values of an accumulator cell (R84, R85, R99,
R101 to R108, R315) and the chains of the quantising store (R324). -/

namespace Sys2Proof.Machine

/-! ## Operands (R105, R315) -/

/-- Bits of an element of a tile format. -/
def elemBits : TFmt → Nat
  | .fp16 | .bf16 => 16
  | .t8 | .i8 => 8
  | .t6 => 6
  | .i4 => 4
  | .b1 => 1

/-- Positions of a group. -/
def groupOf : TFmt → Nat
  | .fp16 | .bf16 => 4
  | .t8 | .i8 => 8
  | .t6 | .i4 => 16
  | .b1 => 128

/-- Bytes between rows of an A slot and columns of a B slot. -/
def operandStride (f : TFmt) (k : Nat) : Nat := ceilDiv (k * elemBits f) 512 * 64

/-- Value of an element code. -/
def tileDecode (f : TFmt) (code : Nat) : Val :=
  match f with
  | .fp16 => fp16.decode code
  | .bf16 => bf16.decode code
  | .t8 => taperedDecode 8 code
  | .t6 => taperedDecode 6 code
  | .i8 => valOfInt (signedOf 8 code)
  | .i4 => valOfInt (signedOf 4 code)
  | .b1 => valOfInt (code % 2 : Nat)

/-- Element k of a row or column whose bytes are the number `n`. -/
def tileElem (f : TFmt) (n k : Nat) : Val := tileDecode f (n / 2 ^ (k * elemBits f) % 2 ^ elemBits f)

/-- The term of one position; none for a NaN operand, 0 × ∞ and ∞ - ∞ (R105, R108). -/
def tileTerm (dist : Option Dist) (a b : Val) : Option Val :=
  if a.isNan || b.isNan then none
  else
    match dist with
    | some .l2 => (sumVal 0 [a, b.negate]).bind fun x => mulVal x x
    | some .ham => some (valOfInt (if a = b then 0 else 1))
    | _ => mulVal a b

/-! ## A cell (R106 to R108) -/

/-- What every cell of a command shares. -/
structure CellMode where
  f : TFmt
  dist : Option Dist
  k : Nat
  mode : AccFmt
  rnd : Nat
  core : Nat

/-- The NaN of a step (R102, R104). -/
def originNan (f : Ieee) (core k : Nat) : Nat :=
  if f.width = 32 then 0x7FC00000 + (core + 1) % 1024 * 4096 + k % 4096 else f.nanCode

/-- A NaN step meets the accumulator (R103, R108). -/
def meetNan (f : Ieee) (acc c : Nat) : Nat :=
  if f.width = 32 ∧ (f.decode acc).isNan then chooseNan [acc, c] else c

/-- A value times 2^e. -/
def Val.scale (v : Val) (e : Int) : Val :=
  match v with
  | .fin n m x => .fin n m (x + e)
  | v => v

/-- The scale of a group: none, the NaN scale, or an exponent. -/
inductive Scale where
  | one | nan | exp (e : Int)

/-- The scale of two E8 codes. -/
def scaleOf (a b : Nat) : Scale := if a % 256 = 255 ∨ b % 256 = 255 then .nan else .exp ((a % 256 : Nat) + (b % 256 : Nat) - 254)

/-- Positions of group t. -/
def CellMode.positions (x : CellMode) (t : Nat) : List Nat :=
  ((List.range (groupOf x.f)).map (groupOf x.f * t + ·)).filter (· < x.k)

/-- The exact sum S of a group as an addend of the accumulator, scaled (R106, R107). The integer S of the formats I8 and
I4 has no sign at zero and counts as +0, as R107 states none: DESIGN CHOICE (notes/assumptions/101.md). -/
def groupAddend (fmt : TFmt) (sc : Scale) (v : Val) : Val :=
  let v := if (fmt == .i8 || fmt == .i4) && v.isZero then .fin false 0 0 else v
  match sc with
  | .exp e => v.scale e
  | _ => v

/-- One group on a floating-point accumulator. -/
def stepFloat (x : CellMode) (f : Ieee) (sc : Scale) (terms : List (Nat × Option Val)) (acc : Nat) : Nat :=
  let first := match terms with | (k, _) :: _ => k | [] => 0
  let nanAt (k : Nat) : Nat := meetNan f acc (originNan f x.core k)
  match sc with
  | .nan => nanAt first
  | sc =>
    match terms.find? fun t => t.2.isNone with
    | some (k, _) => nanAt k
    | none =>
      match sumVal x.rnd (terms.filterMap (·.2)) with
      | none => nanAt first
      | some v =>
        if (f.decode acc).isNan then (if f.width = 32 then quiet32 acc else f.nanCode)
        else
          match sumVal x.rnd [f.decode acc, groupAddend x.f sc v] with
          | none => nanAt first
          | some w => (f.ofVal x.rnd [] (some w)).1

/-- Integer value of a value that is one. -/
def Val.toInt : Val → Int
  | .fin n m e => scaleInt n m e 0
  | _ => 0

/-- One group on an I32 accumulator (R107). -/
def stepInt (terms : List (Nat × Option Val)) (acc : Nat) : Nat :=
  let v := terms.foldl (fun (i : Int) t => i + (match t.2 with | some v => v.toInt | none => 0)) 0
  ((signedOf 32 acc + v) % 2 ^ 32).toNat

/-- A cell after the command: `a` and `b` are its row and its column as numbers, `sc` the scale of each block of 32. -/
def cell (x : CellMode) (a b : Nat) (sc : Nat → Scale) (acc : Nat) : Nat :=
  (List.range (ceilDiv x.k (groupOf x.f))).foldl (fun acc t =>
    let terms := (x.positions t).map fun k => (k, tileTerm x.dist (tileElem x.f a k) (tileElem x.f b k))
    let s := sc (groupOf x.f * t / 32)
    match x.mode with
    | .fp32 => stepFloat x fp32 s terms acc
    | .fp16 => stepFloat x fp16 s terms acc
    | .bf16 => stepFloat x bf16 s terms acc
    | .i32 => stepInt terms acc) acc

/-- Bank modes that a format accumulates into (R311). -/
def modeAccepts (f : TFmt) (scaled : Bool) (m : AccFmt) : Bool :=
  match f with
  | .fp16 | .bf16 => !scaled && m != .i32
  | .t8 | .t6 => m == .fp32
  | .i8 | .i4 => if scaled then m == .fp32 else m == .i32
  | .b1 => !scaled && m == .i32

/-! ## The quantising store (R324) -/

/-- Value of an element of a bank mode. -/
def bankDecode (m : AccFmt) (code : Nat) : Val :=
  match m with
  | .fp32 => fp32.decode code
  | .fp16 => fp16.decode code
  | .bf16 => bf16.decode code
  | .i32 => valOfInt (signedOf 32 code)

/-- Bytes of a code of a quantising format. -/
def quantBytes : QFmt → Nat
  | .fp16 | .bf16 => 2
  | _ => 1

/-- The bound M of a format, as mantissa and exponent. -/
def quantMax : QFmt → Nat × Int
  | .t8 => (1, 12)
  | .t6 => (1, 4)
  | .i8 => (127, 0)
  | .fp16 => (2047, 5)
  | .bf16 => (255, 120)

/-- A value lies beyond the bound. -/
def beyond (f : QFmt) (neg : Bool) (m : Nat) (e : Int) : Bool :=
  let (mm, me) := if f = .i8 ∧ neg then (128, 0) else quantMax f
  cmpMag m e mm me == .gt

/-- The code of the bound with a sign. -/
def boundCode (f : QFmt) (neg : Bool) : Nat :=
  match f with
  | .t8 => if neg then 0x81 else 0x7F
  | .t6 => if neg then 0x21 else 0x1F
  | .i8 => if neg then 0x80 else 0x7F
  | .fp16 => fp16.signed neg fp16.maxCode
  | .bf16 => bf16.signed neg bf16.maxCode

/-- The code of a NaN or an infinity. -/
def specialCode (f : QFmt) (v : Val) : Nat :=
  match f with
  | .t8 => 0x80
  | .t6 => 0x20
  | .fp16 => fp16.nanCode
  | .bf16 => bf16.nanCode
  | .i8 => match v with | .inf n => if n then 0x80 else 0x7F | _ => 0

/-- RoundTo of a finite value into a quantising format. -/
def quantRound (f : QFmt) (mode : Nat) (neg : Bool) (m : Nat) (e : Int) : Nat :=
  match f with
  | .t8 => (taperedRound 8 mode neg m e).1
  | .t6 => (taperedRound 6 mode neg m e).1
  | .i8 => ((roundInt 8 true mode (.fin neg m e)).1 % 256).toNat
  | .fp16 => (fp16.round mode neg m e).1
  | .bf16 => (bf16.round mode neg m e).1

/-- Value of a code of a quantising format. -/
def quantDecode (f : QFmt) (c : Nat) : Val :=
  match f with
  | .t8 => taperedDecode 8 c
  | .t6 => taperedDecode 6 c
  | .i8 => valOfInt (signedOf 8 c)
  | .fp16 => fp16.decode c
  | .bf16 => bf16.decode c

/-- The exponent of a block's scale: the smallest n from -127 with m / 2^n within the bound; 127 where there is none. -/
def blockExp (f : QFmt) (vs : List Val) : Int :=
  let mags := vs.filterMap fun v => match v with | .fin _ m e => some (m, e) | _ => none
  let big := mags.foldl (fun (b : Nat × Int) x => if cmpMag x.1 x.2 b.1 b.2 = .gt then x else b) (0, 0)
  if big.1 = 0 then 0
  else
    let (mm, me) := quantMax f
    match (List.range 255).find? fun i => cmpMag big.1 (big.2 - ((i : Nat) - 127)) mm me != .gt with
    | some i => (i : Nat) - 127
    | none => 127

/-- One element of a chain: the residue before, the code and the residue after, and whether it saturates. -/
def quantElem (f : QFmt) (mode : Nat) (n : Int) (res : Nat) (v : Val) : Nat × Nat × Bool :=
  match v with
  | .fin _ _ _ =>
    match sumVal mode [v, fp32.decode res] with
    | some (.fin neg m e) =>
      if beyond f neg m (e - n) then (boundCode f neg, 0, true)
      else
        let q := quantRound f mode neg m (e - n)
        let left := sumVal 0 [.fin neg m e, ((quantDecode f q).scale n).negate]
        (q, (fp32.ofVal 0 [] left).1, false)
    | _ => (specialCode f v, 0, false)
  | v => (specialCode f v, 0, f == .i8 && v.isInf)

/-- The elements of a chain under one scale. -/
def quantRun (f : QFmt) (mode : Nat) (n : Int) : Nat → List Val → List Nat × Nat × Bool
  | res, [] => ([], res, false)
  | res, v :: r =>
    let (q, res', sat) := quantElem f mode n res v
    let (qs, last, sat') := quantRun f mode n res' r
    (q :: qs, last, sat || sat')

/-- Blocks of 32 elements. -/
def blocks32 : Nat → List Val → List (List Val)
  | 0, _ => []
  | n + 1, l => if l = [] then [] else l.take 32 :: blocks32 n (l.drop 32)

/-- A chain: its codes, its scale codes, its residue after and whether an element saturated. -/
def quantChain (f : QFmt) (blk : Bool) (mode res : Nat) (vs : List Val) : List Nat × List Nat × Nat × Bool :=
  if blk then
    (blocks32 vs.length vs).foldl (fun (cs, es, res, sat) b =>
      let n := blockExp f b
      let (qs, res', sat') := quantRun f mode n res b
      (cs ++ qs, es ++ [(n + 127).toNat], res', sat || sat')) ([], [], res, false)
  else
    let (qs, res', sat) := quantRun f mode 0 res vs
    (qs, [], res', sat)

end Sys2Proof.Machine
end

