-- ==== Sys2Proof/Machine/Fp.lean ====
section
/-! DEFINITION. Meanings of page 2 and of fma: scalar floating point and conversions (R136 to R146). -/

namespace Sys2Proof.Machine

/-- A code and its flags as a register value and flags (R88). -/
def fpRes (r : Nat × Nat) : Word × Nat := (word r.1, r.2)

/-- FP32 value in a register (R88). -/
def f32 (w : Word) : Val := fp32.decode w.toNat

/-! ## Arithmetic (R136) -/

def execFadd (r : Rnd) (d a b : Nat) (s : State) : Host.Outcome State Fault Refusal :=
  binaryF s d a b fun x y => fpRes (fp32.add (s.me.mode r) (f32 x) (f32 y))
def execFsub (r : Rnd) (d a b : Nat) (s : State) : Host.Outcome State Fault Refusal :=
  binaryF s d a b fun x y => fpRes (fp32.add (s.me.mode r) (f32 x) (f32 y).negate)
def execFmul (r : Rnd) (d a b : Nat) (s : State) : Host.Outcome State Fault Refusal :=
  binaryF s d a b fun x y => fpRes (fp32.mul (s.me.mode r) (f32 x) (f32 y))
def execFdiv (r : Rnd) (d a b : Nat) (s : State) : Host.Outcome State Fault Refusal :=
  binaryF s d a b fun x y => fpRes (fp32.div (s.me.mode r) (f32 x) (f32 y))
def execFsqrt (r : Rnd) (d a : Nat) (s : State) : Host.Outcome State Fault Refusal :=
  unaryF s d a fun x => fpRes (fp32.sqrt (s.me.mode r) (f32 x))
def execFma (d a b : Nat) (s : State) : Host.Outcome State Fault Refusal :=
  ternaryF s d a b fun c x y => fpRes (fp32.fma (s.me.mode .frm) (f32 c) (f32 x) (f32 y))
def execFmsub (r : Rnd) (d a b : Nat) (s : State) : Host.Outcome State Fault Refusal :=
  ternaryF s d a b fun c x y => fpRes (fp32.fma (s.me.mode r) (f32 c) (f32 x).negate (f32 y))

/-! ## Correctly rounded functions (R137) -/

def execFrcp (r : Rnd) (d a : Nat) (s : State) : Host.Outcome State Fault Refusal :=
  unaryF s d a fun x => fpRes (fp32.rcp (s.me.mode r) (f32 x))
def execFrsq (r : Rnd) (d a : Nat) (s : State) : Host.Outcome State Fault Refusal :=
  unaryF s d a fun x => fpRes (fp32.rsq (s.me.mode r) (f32 x))
def execFex2 (r : Rnd) (d a : Nat) (s : State) : Host.Outcome State Fault Refusal :=
  unaryF s d a fun x => fpRes (fp32.ex2 (s.me.mode r) (f32 x))
def execFlg2 (r : Rnd) (d a : Nat) (s : State) : Host.Outcome State Fault Refusal :=
  unaryF s d a fun x => fpRes (fp32.lg2 (s.me.mode r) (f32 x))

/-! ## Minimum, maximum, sign, comparison and class (R138 to R141) -/

def execFmin (d a b : Nat) (s : State) : Host.Outcome State Fault Refusal :=
  binaryF s d a b fun x y => fpRes (fp32.minMax false x.toNat y.toNat)
def execFmax (d a b : Nat) (s : State) : Host.Outcome State Fault Refusal :=
  binaryF s d a b fun x y => fpRes (fp32.minMax true x.toNat y.toNat)
def execFabs (d a : Nat) (s : State) : Host.Outcome State Fault Refusal := unary s d a (zext 31)
def execFneg (d a : Nat) (s : State) : Host.Outcome State Fault Refusal := unary s d a fun x => zext 32 x ^^^ 0x80000000
def execFrnd (r : Rnd) (d a : Nat) (s : State) : Host.Outcome State Fault Refusal :=
  unaryF s d a fun x => fpRes (fp32.toIntegral (s.me.mode r) x.toNat)
def execFcmp (c : FCond) (d a b : Nat) (s : State) : Host.Outcome State Fault Refusal :=
  binaryF s d a b fun x y => let r := fp32.compare c x.toNat y.toNat; (word (ofBool r.1), r.2)
def execFclass (d a : Nat) (s : State) : Host.Outcome State Fault Refusal := unary s d a fun x => word (classify x.toNat)

/-! ## Dot product and conversions (R142 to R146) -/

/-- The element of 16 bits at place `i` of a register. -/
def half (src : SFmt) (w : Word) (i : Nat) : Val := sfmtDecode src (w.toNat / 2 ^ (16 * i))

/-- c + a0 × b0 + a1 × b1, rounded once (R142). -/
def dot2 (mode : Nat) (src : SFmt) (c a b : Word) : Nat × Nat :=
  fp32.sumProducts mode [f32 c] [(half src a 0, half src b 0), (half src a 1, half src b 1)]

def execFdot2 (src : SFmt) (d a b : Nat) (s : State) : Host.Outcome State Fault Refusal :=
  ternaryF s d a b fun c x y => fpRes (dot2 (s.me.mode .frm) src c x y)
def execCvtFF (dst src : SFmt) (d a : Nat) (s : State) : Host.Outcome State Fault Refusal :=
  unaryF s d a fun x => fpRes (convertFF dst src (s.me.mode .frm) x.toNat)

/-- cvt.fi of R144. -/
def convertFI (t : IType) (src : SFmt) (mode : Nat) (x : Word) : Word × Nat :=
  let (w, signed) := itypeShape t
  let r := roundInt w signed mode (sfmtDecode src x.toNat)
  (wordOfInt r.1, r.2)

/-- cvt.if of R145. -/
def convertIF (dst : SFmt) (t : IType) (mode : Nat) (x : Word) : Nat × Nat :=
  let (w, signed) := itypeShape t
  sfmtConvert dst mode (valOfInt (if signed then signedOf w x.toNat else ((x.toNat % 2 ^ w : Nat) : Int)))

def execCvtFI (r : Rnd) (t : IType) (src : SFmt) (d a : Nat) (s : State) : Host.Outcome State Fault Refusal :=
  unaryF s d a (convertFI t src (s.me.mode r))
def execCvtIF (r : Rnd) (dst : SFmt) (t : IType) (d a : Nat) (s : State) : Host.Outcome State Fault Refusal :=
  unaryF s d a fun x => fpRes (convertIF dst t (s.me.mode r) x)

/-- cvt.pk of R146. -/
def convertPk (dst : SFmt) (mode : Nat) (x y : Word) : Nat × Nat :=
  let (p, f) := convertFF dst .fp32 mode x.toNat
  let (q, g) := convertFF dst .fp32 mode y.toNat
  (p + q * 2 ^ (match dst with | .t8 | .t6 => 8 | _ => 16), f ||| g)

def execCvtPk (dst : SFmt) (d a b : Nat) (s : State) : Host.Outcome State Fault Refusal :=
  binaryF s d a b fun x y => fpRes (convertPk dst (s.me.mode .frm) x y)

end Sys2Proof.Machine
end

