-- ==== Sys2Proof/Machine/Vector.lean ====
section
/-! DEFINITION. Meanings of page 5: vector instructions on the rows of the leased bank (R332 to R346). -/

namespace Sys2Proof.Machine

open Host

/-! ## Rows and lanes (R310, R332) -/

/-- Bytes of a lane. -/
def laneBytes : AccFmt → Nat
  | .fp32 | .i32 => 4
  | .fp16 | .bf16 => 2

/-- Lanes of a row. -/
def laneCount (m : AccFmt) : Nat := 512 / laneBytes m

/-- The floating-point format of a bank mode; none for I32. -/
def laneFormat : AccFmt → Option Ieee
  | .fp32 => some fp32
  | .fp16 => some fp16
  | .bf16 => some bf16
  | .i32 => none

/-- The 512 bytes of a row. -/
def State.rowBytes (s : State) (cl b r : Nat) : List Byte := s.mem.read (bankPa cl b (512 * r)) 512

/-- Writes the 512 bytes of a row. -/
def State.writeRow (s : State) (cl b r : Nat) (bs : List Byte) : State := { s with mem := s.mem.write (bankPa cl b (512 * r)) bs }

/-- Lane codes of `n` lanes of `w` bytes. -/
def lanesFrom (w : Nat) : Nat → List Byte → List Nat
  | 0, _ => []
  | n + 1, bs => numLe (bs.take w) :: lanesFrom w n (bs.drop w)

/-- Bytes of lane codes. -/
def bytesOfLanes (w : Nat) (cs : List Nat) : List Byte := cs.flatMap (bytesLe w)

/-- Codes of the lanes of a row in a mode. -/
def State.row (s : State) (cl b : Nat) (m : AccFmt) (r : Nat) : List Nat :=
  lanesFrom (laneBytes m) (laneCount m) (s.rowBytes cl b r)

/-! ## The busy test (R320) -/

/-- Rows that a tile command writes. -/
def TileOp.writesRows : TileOp → Bool
  | .zero | .load _ _ _ | .mma _ _ _ _ _ _ _ _ _ => true
  | _ => false

/-- A row that a tstore or qst reads: its region names row0 and nr - 1. -/
def TileOp.readsRow (op : TileOp) (r : Nat) : Bool :=
  let inside (region : Word) : Bool := decide (bits region 5 0 ≤ r) && decide (r ≤ bits region 5 0 + bits region 11 6)
  match op with
  | .store _ _ region => inside region
  | .quant _ region _ _ => inside region
  | _ => false

/-- A vector instruction that reads `reads` and writes `write` conflicts with a command that has not retired. -/
def Bank.busyFor (k : Bank) (reads : List Nat) (write : Option Nat) : Bool :=
  k.order.any fun c => c.op.writesRows && (reads != [] || write.isSome) ||
    match write with | some r => c.op.readsRow r | none => false

/-! ## The shape of a vector instruction (R335) -/

/-- What a vector instruction works on: its cluster, bank, mode and rounding mode. -/
structure Lease where
  cluster : Nat
  bank : Nat
  mode : AccFmt
  rnd : Nat

/-- Runs a vector instruction: its register operands, the lease test, the test of mode and register contents, the busy
test, and its effect. -/
def vector (s : State) (reads : List Nat) (write : Option Nat) (rows : List Nat) (row : Option Nat)
    (allowed : AccFmt → List Word → Bool) (f : Lease → List Word → State → Run) : Outcome State Fault Refusal :=
  conclude s do
    let (vs, s') ← s.operands reads write
    match s.me.lease with
    | none => .error (trapAt 0x0F 0 0)
    | some (b, _) =>
      let cl := clusterOf s.myCore
      let k := s.bank cl b
      if !allowed k.mode vs then .error (s.illegal 3)
      else if k.busyFor rows row then .error (trapAt 0x0C 0 0)
      else f { cluster := cl, bank := b, mode := k.mode, rnd := s.me.tileMode } vs s'

/-- Any mode and any register contents. -/
def anyMode (_ : AccFmt) (_ : List Word) : Bool := true
/-- Not mode I32. -/
def floatMode (m : AccFmt) (_ : List Word) : Bool := m != .i32

/-- Writes lane codes to a row and sets flags. -/
def State.putLanes (s : State) (x : Lease) (r : Nat) (cs : List (Nat × Nat)) : State :=
  (s.writeRow x.cluster x.bank r (bytesOfLanes (laneBytes x.mode) (cs.map (·.1)))).modMe
    (·.flag (cs.foldl (fun f c => f ||| c.2) 0))

/-- Lane by lane over rows a and b. -/
def lanes2 (s : State) (d a b : Nat) (f : Lease → Nat → Nat → Nat × Nat) : Outcome State Fault Refusal :=
  vector s [] none [a, b] (some d) anyMode fun x _ s =>
    .ok (s.putLanes x d (List.zipWith (f x) (s.row x.cluster x.bank x.mode a) (s.row x.cluster x.bank x.mode b)))

/-- Lane by lane over rows d, a and b. -/
def lanes3 (s : State) (d a b : Nat) (f : Lease → Nat → Nat → Nat → Nat × Nat) : Outcome State Fault Refusal :=
  vector s [] none [d, a, b] (some d) anyMode fun x _ s =>
    let row := s.row x.cluster x.bank x.mode
    .ok (s.putLanes x d (List.zipWith (fun (p : Nat × Nat) z => f x p.1 p.2 z) ((row d).zip (row a)) (row b)))

/-- Lane by lane over row a. -/
def lanes1 (s : State) (d a : Nat) (allowed : AccFmt → List Word → Bool) (f : Lease → Nat → Nat × Nat) : Outcome State Fault Refusal :=
  vector s [] none [a] (some d) allowed fun x _ s =>
    .ok (s.putLanes x d ((s.row x.cluster x.bank x.mode a).map (f x)))

/-- Low 32 bits of an integer. -/
def low32 (i : Int) : Nat := (i % 2 ^ 32).toNat

/-- A lane operation: on values of the lane format, or on I32 values. -/
def laneOp (x : Lease) (f : Ieee → Nat × Nat) (i : Int) : Nat × Nat :=
  match laneFormat x.mode with
  | some fmt => f fmt
  | none => (low32 i, 0)

/-! ## Lane arithmetic (R336, R337) -/

def execVadd (d a b : Nat) (s : State) : Outcome State Fault Refusal :=
  lanes2 s d a b fun x p q => laneOp x (fun f => f.add x.rnd (f.decode p) (f.decode q)) (signedOf 32 p + signedOf 32 q)
def execVsub (d a b : Nat) (s : State) : Outcome State Fault Refusal :=
  lanes2 s d a b fun x p q => laneOp x (fun f => f.add x.rnd (f.decode p) (f.decode q).negate) (signedOf 32 p - signedOf 32 q)
def execVmul (d a b : Nat) (s : State) : Outcome State Fault Refusal :=
  lanes2 s d a b fun x p q => laneOp x (fun f => f.mul x.rnd (f.decode p) (f.decode q)) (signedOf 32 p * signedOf 32 q)
def execVfma (d a b : Nat) (s : State) : Outcome State Fault Refusal :=
  lanes3 s d a b fun x c p q =>
    laneOp x (fun f => f.fma x.rnd (f.decode c) (f.decode p) (f.decode q)) (signedOf 32 c + signedOf 32 p * signedOf 32 q)
def execVmin (d a b : Nat) (s : State) : Outcome State Fault Refusal :=
  lanes2 s d a b fun x p q => laneOp x (fun f => f.minMax false p q) (Min.min (signedOf 32 p) (signedOf 32 q))
def execVmax (d a b : Nat) (s : State) : Outcome State Fault Refusal :=
  lanes2 s d a b fun x p q => laneOp x (fun f => f.minMax true p q) (Max.max (signedOf 32 p) (signedOf 32 q))
def execVabs (d a : Nat) (s : State) : Outcome State Fault Refusal :=
  lanes1 s d a anyMode fun x p => laneOp x (fun f => (p % 2 ^ (f.width - 1), 0)) (if signedOf 32 p < 0 then -signedOf 32 p else signedOf 32 p)
def execVneg (d a : Nat) (s : State) : Outcome State Fault Refusal :=
  lanes1 s d a anyMode fun x p => laneOp x (fun f => (p ^^^ 2 ^ (f.width - 1), 0)) (-signedOf 32 p)
def execVex2 (d a : Nat) (s : State) : Outcome State Fault Refusal :=
  lanes1 s d a floatMode fun x p => laneOp x (fun f => f.ex2 x.rnd (f.decode p)) 0
def execVrcp (d a : Nat) (s : State) : Outcome State Fault Refusal :=
  lanes1 s d a floatMode fun x p => laneOp x (fun f => f.rcp x.rnd (f.decode p)) 0
def execVrsq (d a : Nat) (s : State) : Outcome State Fault Refusal :=
  lanes1 s d a floatMode fun x p => laneOp x (fun f => f.rsq x.rnd (f.decode p)) 0
def execVscl (d a b : Nat) (s : State) : Outcome State Fault Refusal :=
  vector s [b] none [a] (some d) anyMode fun x vs s =>
    let k := (vs.getD 0 0).toNat
    .ok (s.putLanes x d ((s.row x.cluster x.bank x.mode a).map fun p =>
      laneOp x (fun f => f.mul x.rnd (f.decode p) (fp32.decode k)) (signedOf 32 p * signedOf 32 k)))

/-! ## Whole rows (R337, R340) -/

def execVmov (d a : Nat) (s : State) : Outcome State Fault Refusal :=
  vector s [] none [a] (some d) anyMode fun x _ s => .ok (s.writeRow x.cluster x.bank d (s.rowBytes x.cluster x.bank a))
def execVzero (d : Nat) (s : State) : Outcome State Fault Refusal :=
  vector s [] none [] (some d) anyMode fun x _ s => .ok (s.writeRow x.cluster x.bank d (List.replicate 512 0))

/-- Byte by byte over rows a and b. -/
def bytes2 (s : State) (d a b : Nat) (f : Byte → Byte → Byte) : Outcome State Fault Refusal :=
  vector s [] none [a, b] (some d) anyMode fun x _ s =>
    .ok (s.writeRow x.cluster x.bank d (List.zipWith f (s.rowBytes x.cluster x.bank a) (s.rowBytes x.cluster x.bank b)))

def execVand (d a b : Nat) (s : State) : Outcome State Fault Refusal := bytes2 s d a b (· &&& ·)
def execVor (d a b : Nat) (s : State) : Outcome State Fault Refusal := bytes2 s d a b (· ||| ·)
def execVxor (d a b : Nat) (s : State) : Outcome State Fault Refusal := bytes2 s d a b (· ^^^ ·)

/-! ## Comparison and selection (R338, R339) -/

/-- The condition of fcmp that a vector comparison uses. -/
def scalarCond : VCond → FCond
  | .eq => .eq | .ne => .ne | .lt => .lt | .le => .le

/-- A signed comparison. -/
def intCond (c : VCond) (p q : Int) : Bool :=
  match c with
  | .eq => p == q | .ne => p != q | .lt => decide (p < q) | .le => decide (p ≤ q)

def execVcmp (c : VCond) (d a b : Nat) (s : State) : Outcome State Fault Refusal :=
  lanes2 s d a b fun x p q =>
    let ones := 2 ^ (8 * laneBytes x.mode) - 1
    match laneFormat x.mode with
    | some f => let r := f.compare (scalarCond c) p q; (ofBool r.1 * ones, r.2)
    | none => (ofBool (intCond c (signedOf 32 p) (signedOf 32 q)) * ones, 0)

def execVsel (d a b : Nat) (s : State) : Outcome State Fault Refusal :=
  lanes3 s d a b fun _ m p q => (if m = 0 then q else p, 0)

/-! ## Shifts (R341) -/

/-- A shift of lanes of `w` bits. -/
def shiftLanes (s : State) (d a b : Nat) (f : Nat → Nat → Nat → Nat) : Outcome State Fault Refusal :=
  vector s [b] none [a] (some d) anyMode fun x vs s =>
    .ok (s.putLanes x d ((s.row x.cluster x.bank x.mode a).map fun p => (f (8 * laneBytes x.mode) (vs.getD 0 0).toNat p, 0)))

def execVshl (d a b : Nat) (s : State) : Outcome State Fault Refusal :=
  shiftLanes s d a b fun w c p => if w ≤ c then 0 else p * 2 ^ c % 2 ^ w

/-- A right shift of a lane: logical, or with copies of the top bit. -/
def shiftRight (ar : Bool) (w c p : Nat) : Nat :=
  let top := ar && decide (2 ^ (w - 1) ≤ p)
  if w ≤ c then (if top then 2 ^ w - 1 else 0) else p / 2 ^ c + (if top then 2 ^ w - 2 ^ (w - c) else 0)

def execVshr (ar : Bool) (d a b : Nat) (s : State) : Outcome State Fault Refusal := shiftLanes s d a b (shiftRight ar)

/-! ## Conversion and reduction (R342, R343) -/

/-- Bytes of a code of a scalar format. -/
def codeBytes : SFmt → Nat
  | .fp32 => 4 | .fp16 | .bf16 => 2 | _ => 1

/-- Conversion of an element of a bank mode to a format, with its flags (R143, R145). An I32 source sets the flags of its
conversion, as R342 says of every converted lane, where R333 says that instructions in I32 mode set none: DESIGN CHOICE
(notes/assumptions/102.md). -/
def convertLane (m : AccFmt) (dst : SFmt) (rnd code : Nat) : Nat × Nat :=
  match m with
  | .fp32 => convertFF dst .fp32 rnd code
  | .fp16 => convertFF dst .fp16 rnd code
  | .bf16 => convertFF dst .bf16 rnd code
  | .i32 => sfmtConvert dst rnd (valOfInt (signedOf 32 code))

def execVcvt (dst : SFmt) (d a : Nat) (s : State) : Outcome State Fault Refusal :=
  vector s [] none [a] (some d) anyMode fun x _ s =>
    let e := codeBytes dst
    let n := Nat.min (laneCount x.mode) (512 / e)
    let cs := ((s.row x.cluster x.bank x.mode a).take n).map (convertLane x.mode dst x.rnd)
    let bs := bytesOfLanes e (cs.map (·.1)) ++ List.replicate (512 - n * e) 0
    .ok ((s.writeRow x.cluster x.bank d bs).modMe (·.flag (cs.foldl (fun f c => f ||| c.2) 0)))

/-- One level of the pairwise tree: neighbours are combined and the flags gathered. -/
def combinePairs (f : Nat → Nat → Nat × Nat) : List Nat → List Nat × Nat
  | p :: q :: r =>
    let c := f p q
    let (cs, fl) := combinePairs f r
    (c.1 :: cs, c.2 ||| fl)
  | l => (l, 0)

/-- The tree of R343, `n` levels. -/
def reduceTree (f : Nat → Nat → Nat × Nat) : Nat → List Nat → Nat × Nat
  | 0, l => (l.headD 0, 0)
  | n + 1, l =>
    let (l', fl) := combinePairs f l
    let r := reduceTree f n l'
    (r.1, fl ||| r.2)

/-- The step that combines two lanes. -/
def combine (x : Lease) (op : RedOp) (p q : Nat) : Nat × Nat :=
  match op with
  | .add => laneOp x (fun f => f.add x.rnd (f.decode p) (f.decode q)) (signedOf 32 p + signedOf 32 q)
  | .min => laneOp x (fun f => f.minMax false p q) (Min.min (signedOf 32 p) (signedOf 32 q))
  | .max => laneOp x (fun f => f.minMax true p q) (Max.max (signedOf 32 p) (signedOf 32 q))

def execVred (op : RedOp) (d a : Nat) (s : State) : Outcome State Fault Refusal :=
  vector s [] none [a] (some d) anyMode fun x _ s =>
    let w := laneBytes x.mode
    let r := reduceTree (combine x op) (if w = 4 then 7 else 8) (s.row x.cluster x.bank x.mode a)
    .ok ((s.writeRow x.cluster x.bank d (bytesLe w r.1 ++ List.replicate (512 - w) 0)).modMe (·.flag r.2))

/-! ## Lane access (R344) -/

def execVbcast (d a : Nat) (s : State) : Outcome State Fault Refusal :=
  vector s [a] none [] (some d) anyMode fun x vs s =>
    .ok (s.putLanes x d (List.replicate (laneCount x.mode) ((vs.getD 0 0).toNat % 2 ^ (8 * laneBytes x.mode), 0)))

/-- The lane number in the last register read is one of the mode's lanes. -/
def laneExists (m : AccFmt) (vs : List Word) : Bool := decide ((vs.getLastD 0).toNat < laneCount m)

def execVgetl (d a b : Nat) (s : State) : Outcome State Fault Refusal :=
  vector s [b] (some d) [a] none laneExists fun x vs s =>
    let c := (s.row x.cluster x.bank x.mode a).getD (vs.getD 0 0).toNat 0
    .ok (s.writeX d (if x.mode = .i32 then wordOfInt (signedOf 32 c) else word c))

def execVsetl (d a b : Nat) (s : State) : Outcome State Fault Refusal :=
  vector s [a, b] none [d] (some d) laneExists fun x vs s =>
    let cs := (s.row x.cluster x.bank x.mode d).set (vs.getD 1 0).toNat ((vs.getD 0 0).toNat % 2 ^ (8 * laneBytes x.mode))
    .ok (s.putLanes x d (cs.map fun c => (c, 0)))

def execVperm (d a b : Nat) (s : State) : Outcome State Fault Refusal :=
  vector s [] none [a, b] (some d) anyMode fun x _ s =>
    let src := s.row x.cluster x.bank x.mode a
    .ok (s.putLanes x d ((s.row x.cluster x.bank x.mode b).map fun u => (src.getD (u % laneCount x.mode) 0, 0)))

/-! ## Rows and memory (R345), lanes (R346) -/

def execVld (d a : Nat) (s : State) : Outcome State Fault Refusal :=
  vector s [a] none [] (some d) anyMode fun x vs s' => do
    let (cs, es) ← s'.check (s'.accessor s.cur) (vs.getD 0 0) 512 0 .load
    s'.loadThen s [a] none cs es .cached (.row x.cluster x.bank d) fun bs t => .ok (t.writeRow x.cluster x.bank d bs)

def execVst (d a : Nat) (s : State) : Outcome State Fault Refusal :=
  vector s [a] none [d] none anyMode fun x vs s' => do
    let (cs, es) ← s'.check (s'.accessor s.cur) (vs.getD 0 0) 512 0 .store
    (s'.installAll s.myCore es).store s s.cur [a] cs (s.rowBytes x.cluster x.bank d)

/-- Code of a bank mode (R346). -/
def modeCode : AccFmt → Nat
  | .fp32 => 0 | .fp16 => 1 | .bf16 => 2 | .i32 => 3

def execVlanes (d : Nat) (s : State) : Outcome State Fault Refusal :=
  vector s [] (some d) [] none anyMode fun x _ s =>
    .ok (s.writeX d (word (x.bank * 2 ^ 12 + modeCode x.mode * 2 ^ 10 + laneCount x.mode)))

end Sys2Proof.Machine
end

