-- ==== Sys2Proof/Machine/Tile.lean ====
section
/-! DEFINITION. Meanings of page 6 (R347 to R372): leases, operand rings, tile commands, batches, the quantising store,
copies and bindings; and the start and retirement of tile commands (R308 to R325). -/

namespace Sys2Proof.Machine

open Host

/-! ## Shapes and tests of R349 -/

/-- A ring number at or above the kernel's ring count (R166). -/
def State.ringBounds (s : State) (ns : List Nat) : Except Stop Unit :=
  if ns.any fun n => s.me.ringBound ≤ n then .error (trapAt 0x04 0 3) else .ok ()

/-- The lease of the issuing slot: its cluster and bank; cause 0x0F without one (R347). -/
def State.leased (s : State) : Except Stop (Nat × Nat) :=
  match s.me.lease with
  | some (b, _) => .ok (clusterOf s.myCore, b)
  | none => .error (trapAt 0x0F 0 0)

/-- A ring of a core. -/
def State.ring (s : State) (c n : Nat) : Ring := Tab.getD (s.core c).rings n {}
def State.modRing (s : State) (c n : Nat) (f : Ring → Ring) : State :=
  s.modCore c fun k => { k with rings := Tab.modify k.rings n {} f }

/-- The launch owns the ring (R354). -/
def State.ownsRing (s : State) (n : Nat) : Bool := (s.ring s.myCore n).owner == some s.me.launch && s.me.unit.isSome

/-- Cause 0x01, subcode 3, where a test holds. -/
def State.illegalIf (s : State) (b : Bool) : Except Stop Unit := if b then .error (s.illegal 3) else .ok ()

/-- Place of a stop in the order of R271. -/
def stopRank : Stop → Nat
  | .trap t => match t.cause with | 0x13 => 1 | 0x04 => 2 | 0x05 => 3 | 0x06 => 5 | 0x07 => 6 | _ => 7
  | .drop _ _ _ => 4
  | _ => 8

/-- The stop that comes first: by R271, then the lower address; page faults are reported together. -/
def firstStop (x y : Stop) : Stop :=
  match x, y with
  | .drop ps f w, .drop qs _ w' => .drop (ps ++ qs.filter fun q => !ps.any fun p => p / 65536 == q / 65536) f (w || w')
  | .trap t, .trap u => if stopRank (.trap u) < stopRank (.trap t) || (stopRank (.trap u) == stopRank (.trap t) && decide (u.taddr.toNat < t.taddr.toNat)) then .trap u else .trap t
  | a, b => if stopRank b < stopRank a then b else a

/-- The checks of R271 over several ranges. -/
def State.checkRanges (s : State) (x : Accessor) (op : Op) : List (Word × Nat) → Except Stop (List Chunk × List TlbEntry)
  | [] => .ok ([], [])
  | (a, n) :: r =>
    match s.check x a n 0 op, s.checkRanges x op r with
    | .ok (cs, es), .ok (cs', es') => .ok (cs ++ cs', es ++ es')
    | .error e, .ok _ => .error e
    | .ok _, .error e => .error e
    | .error e, .error e' => .error (firstStop e e')

/-- Issues a tile command (R347, R297, R319): into the core's command queue, the slot's open batch and its bank's order. -/
def State.issueTile (s : State) (b : Nat) (op : TileOp) (waits : List Nat := []) : Run :=
  if Config.commandQueueEntries ≤ (s.core s.myCore).cmdQueue then .error (.park .commandQueue)
  else
    let (id, s) := s.fresh
    let cl := clusterOf s.myCore
    let k : TileCmd := { id := id, slot := s.cur, uid := s.me.uid, core := s.myCore, batch := s.me.batch, seq := s.me.tileSeq, op := op
                         mode := (s.bank cl b).mode, tfrm := s.me.tileMode, acc := s.accessor s.cur, waits := waits }
    let s := (s.modCore s.myCore fun c => { c with cmdQueue := c.cmdQueue + 1 }).modBank cl b fun x => { x with order := x.order ++ [k] }
    .ok (s.modMe fun sl => { sl with openCmds := sl.openCmds + 1, tileSeq := sl.tileSeq + 1 })

/-! ## Leases and bank modes (R350 to R353) -/

def execLease (k : BankPick) (d w : Nat) (s : State) : Outcome State Fault Refusal :=
  conclude s do
    let (_, s') ← s.operandsNP [] (some d)
    match s.me.lease, s.me.leaseNew with
    | some (b, _), true => .ok ((s'.modMe fun sl => { sl with leaseNew := false }).writeX d (word b))
    | some _, false => .error (s.illegal 3)
    | none, _ =>
      if w = 0 ∨ 8 < w then .error (s.illegal 3)
      else
        let named := match k with | .bank n => some n | .any => none
        .error (.wait .lease (s.modCluster (clusterOf s.myCore) fun c => { c with leaseQ := c.leaseQ ++ [(s.cur, named, w)] }))

/-- The slot has tile commands on its bank that have not retired. -/
def State.bankBusy (s : State) (cl b : Nat) : Bool := (s.bank cl b).order.any fun k => k.slot == s.cur

/-- Frees a lease: the bank is free, the scale bindings end. -/
def State.freeLease (s : State) (g : Nat) : State :=
  match (s.slot g).lease with
  | none => s
  | some (b, _) =>
    (s.modSlot g fun sl => { sl with lease := none, leaseNew := false, scaleA := none, scaleB := none }).modBank (clusterOf (coreOf g)) b fun x =>
      { x with holder := none }

def execUnlease (s : State) : Outcome State Fault Refusal :=
  conclude s do
    let (cl, b) ← s.leased
    if s.bankBusy cl b then .error (trapAt 0x0C 0 0) else .ok (s.freeLease s.cur)

def execTmode (m : AccFmt) (s : State) : Outcome State Fault Refusal :=
  conclude s do
    let (cl, b) ← s.leased
    .ok (s.modBank cl b fun x => { x with mode := m })

def execTzero (s : State) : Outcome State Fault Refusal :=
  conclude s do
    let (_, b) ← s.leased
    s.issueTile b .zero

/-! ## Operand rings and scale rings (R354 to R358) -/

/-- A tile command names ring `n` of a core. -/
def TileCmd.names (k : TileCmd) (core n : Nat) : Bool :=
  k.core == core && match k.op with
  | .mma _ _ _ _ ra _ rb _ sc => n == ra || n == rb || match sc with | some (x, _, y, _) => n == x || n == y | none => false
  | _ => false

/-- A command that has not retired names the ring. -/
def State.ringNamed (s : State) (core n : Nat) : Bool :=
  [0, 1, 2, 3].any fun b => (s.bank (clusterOf core) b).order.any (·.names core n)

/-- A descriptor without an owner is unconfigured: what its last launch has left in its counts does not count (R354), unless a
command of that launch has still to take its slots. DESIGN CHOICE (notes/assumptions/96.md). -/
def execRingCfg (n a b : Nat) (s : State) : Outcome State Fault Refusal :=
  conclude s do
    let (vs, s') ← s.operandsNP [a, b] none
    s.ringBounds [n]
    let xa := vs.getD 0 0
    let xb := vs.getD 1 0
    let base := bits xa 17 0
    let size := (bits xb 12 3 + 1) * 64
    let count := 2 ^ bits xb 2 0
    let r := s.ring s.myCore n
    let other := match r.owner with | some l => l != s.me.launch | none => false
    let moved := (r.owner.isSome || s.ringNamed s.myCore n) && (r.head != r.tail || r.tail != r.next || r.claims != [])
    s.illegalIf (bits xa 63 18 != 0 || bits xb 63 13 != 0 || base % 64 != 0 || bits xb 2 0 == 7 || decide (0x40000 < base + size * count) ||
      other || s.me.unit == none || moved)
    if s.me.scratchBound < base + size * count then
      .error (trapAt 0x04 (word (0xE000000000000000 + Nat.max base s.me.scratchBound)) 4)
    else
      .ok (s'.modRing s.myCore n fun _ => { owner := some s.me.launch, base := base, size := size, count := count })

/-- Address range of the slot of a ring that a sequence number names. -/
def Ring.slotAt (r : Ring) (core seq : Nat) : Nat × Nat := (scratchPa core (r.base + seq % r.count * r.size), r.size)

/-- tail moves past the claimed steps whose slots' earlier writes have all been accepted, `n` at most (R356). -/
def State.advanceTails : Nat → State → Nat → Nat → State
  | 0, s, _, _ => s
  | k + 1, s, core, n =>
    match (s.ring core n).claims with
    | (g, ids) :: rest =>
      if (s.slot g).stores.all fun o => !ids.contains o.id then
        State.advanceTails k (s.modRing core n fun r => { r with claims := rest, tail := n16 (r.tail + 1) }) core n
      else s
    | [] => s

def State.advanceTail (s : State) (core n : Nat) : State := State.advanceTails (s.ring core n).claims.length s core n

def execRingPush (n : Nat) (s : State) : Outcome State Fault Refusal :=
  conclude s do
    s.ringBounds [n]
    s.illegalIf (!s.ownsRing n)
    let r := s.ring s.myCore n
    if r.room = 0 then .error (trapAt 0x0B 0 n)
    else
      let (lo, len) := r.slotAt s.myCore (r.tail + r.claims.length)
      let ids := (s.core s.myCore).wb.flatMap fun e => if e.touches lo len then (e.ops.filter fun o => o.slot == s.cur).map (·.id) else []
      .ok (s.modRing s.myCore n fun r => { r with claims := r.claims ++ [(s.cur, ids)] })

def execRingRoom (d n w : Nat) (s : State) : Outcome State Fault Refusal :=
  conclude s do
    let (_, s') ← s.operandsNP [] (some d)
    s.ringBounds [n]
    let r := s.ring s.myCore n
    s.illegalIf (!s.ownsRing n || decide (r.count < w))
    if r.room < w then .error (.park (.ringRoom n w)) else .ok (s'.writeX d (word r.room))

def execSclCfg (isB : Bool) (n a : Nat) (s : State) : Outcome State Fault Refusal :=
  conclude s do
    let (vs, s') ← s.operandsNP [a] none
    s.ringBounds [n]
    let _ ← s.leased
    let x := vs.getD 0 0
    s.illegalIf (decide (1 < x.toNat) || (x == 1 && !s.ownsRing n))
    let v := if x = 1 then some n else none
    .ok (s'.modMe fun sl => if isB then { sl with scaleB := v } else { sl with scaleA := v })

/-! ## Matrix and distance commands (R359, R360) -/

/-- Reserves slot next of a ring: its sequence number (R313). -/
def State.takeNext (s : State) (n : Nat) : Nat × State :=
  let q := (s.ring s.myCore n).next
  (q, s.modRing s.myCore n fun r => { r with next := n16 (r.next + 1) })

/-- The issue of tmma or tdist. -/
def matrix (s : State) (f : TFmt) (scaled : Bool) (dist : Option Dist) (d ra rb : Nat) : Outcome State Fault Refusal :=
  conclude s do
    let (vs, s') ← s.operandsNP [d] none
    s.ringBounds [ra, rb]
    let (cl, b) ← s.leased
    let k := (vs.getD 0 0).toNat
    let fits (n lines : Nat) : Bool := decide (lines * operandStride f k ≤ (s.ring s.myCore n).size)
    let scales := match s.me.scaleA, s.me.scaleB with | some x, some y => some (x, y) | _, _ => none
    s.illegalIf (decide (65535 < k) || !s.ownsRing ra || !s.ownsRing rb || !modeAccepts f scaled (s.bank cl b).mode ||
      !fits ra 64 || !fits rb 128 || (scaled && scales.isNone))
    if Config.commandQueueEntries ≤ (s.core s.myCore).cmdQueue then .error (.park .commandQueue)
    else
      let (qa, s') := s'.takeNext ra
      let (qb, s') := s'.takeNext rb
      match if scaled then scales else none with
      | none => s'.issueTile b (.mma f scaled dist k ra qa rb qb none)
      | some (x, y) =>
        let (qx, s') := s'.takeNext x
        let (qy, s') := s'.takeNext y
        s'.issueTile b (.mma f scaled dist k ra qa rb qb (some (x, qx, y, qy)))

def execTmma (f : TFmt) (scaled : Bool) (d ra rb : Nat) (s : State) : Outcome State Fault Refusal := matrix s f scaled none d ra rb

def execTdist (f : TFmt) (scaled : Bool) (k : Dist) (d ra rb : Nat) (s : State) : Outcome State Fault Refusal :=
  matrix s f scaled (some k) d ra rb

/-! ## Batches (R319, R361) -/

def execTcommit (d : Nat) (s : State) : Outcome State Fault Refusal :=
  conclude s do
    let (_, s') ← s.operandsNP [] (some d)
    if 65535 ≤ s.me.tb then .error (.park (.counterLimit 3))
    else
      let n := s.me.batch
      .ok ((s'.modMe fun sl => { sl with batches := sl.batches ++ [(n, sl.openCmds)], openCmds := 0, batch := n + 1, tb := sl.tb + 1 }).writeX d (word n))

def execTwaitb (n : Nat) (s : State) : Outcome State Fault Refusal :=
  conclude s (match s.me.reported false (some n) with
    | some e => .error (s.raiseAsync e)
    | none => if s.me.tb ≤ n then .ok s else .error (.park (.batches n)))

/-! ## Loading and storing tiles (R362 to R364) -/

/-- The parts of a region word. -/
structure Region6 where
  row0 : Nat
  nr : Nat
  lane0 : Nat
  nl : Nat

/-- The region of a word; `hi` adds 128 lanes (R322). -/
def regionOf (x : Word) (hi : Bool) : Region6 :=
  { row0 := bits x 5 0, nr := bits x 11 6 + 1, lane0 := bits x 18 12 + ofBool hi * 128, nl := bits x 25 19 + 1 }

/-- A region that fits the tile. -/
def regionFits (x : Word) : Bool := decide (bits x 5 0 + bits x 11 6 + 1 ≤ 64) && decide (bits x 18 12 + bits x 25 19 + 1 ≤ 128)

/-- Ranges of `n` runs of `len` bytes at a stride. -/
def runs (a : Word) (stride : Int) (n len : Nat) : List (Word × Nat) := (List.range n).map fun i => (a + wordOfInt ((i : Nat) * stride), len)

/-- Memory stride of a tload or tstore. -/
def tileStride (x : Word) : Int := signedOf 32 (bits x 63 32)

def execTload (tr : Bool) (a b : Nat) (s : State) : Outcome State Fault Refusal :=
  conclude s do
    let (vs, s') ← s.operandsNP [a, b] none
    let (cl, bk) ← s.leased
    let x := vs.getD 1 0
    s.illegalIf (bits x 31 26 != 0 || !regionFits x)
    let r := regionOf x false
    let e := laneBytes (s.bank cl bk).mode
    let rs := runs (vs.getD 0 0) (tileStride x) (if tr then r.nl else r.nr) ((if tr then r.nr else r.nl) * e)
    let (_, es) ← s.checkRanges (s.accessor s.cur) .load rs
    (s'.installAll s.myCore es).issueTile bk (.load tr (vs.getD 0 0) x) (s.me.releases.map (·.id))

def execTstore (dst : SFmt) (a b : Nat) (s : State) : Outcome State Fault Refusal :=
  conclude s do
    let (vs, s') ← s.operandsNP [a, b] none
    let (_, bk) ← s.leased
    let x := vs.getD 1 0
    s.illegalIf (bits x 31 26 != 0 || !regionFits x)
    let r := regionOf x false
    let (_, es) ← s.checkRanges (s.accessor s.cur) .store (runs (vs.getD 0 0) (tileStride x) r.nr (r.nl * codeBytes dst))
    (s'.installAll s.myCore es).issueTile bk (.store dst (vs.getD 0 0) x)

/-! ## Quantising declarations, stores and residues (R321 to R325, R365 to R367) -/

def execQsax (f : QFmt) (col blk : Bool) (a b : Nat) (s : State) : Outcome State Fault Refusal :=
  conclude s do
    let (vs, s') ← s.operandsNP [a, b] none
    let (cl, bk) ← s.leased
    s.illegalIf (bits (vs.getD 0 0) 63 16 != 0)
    let d : QDecl := { col := col, fmt := f, blk := blk, tag := bits (vs.getD 0 0) 15 0, stride := vs.getD 1 0 }
    .ok (s'.modBank cl bk fun x => { x with decl := some d })

/-- First axis index, half and chain length of a region word (R322). -/
def axisStart (x : Word) : Nat := bits x 63 40
def upperHalf (x : Word) : Bool := bit x 26
def chainLength (d : QDecl) (x : Word) : Nat := if d.col then bits x 25 19 + 1 else bits x 11 6 + 1

/-- A region word that qst accepts (R322). -/
def quantFits (d : QDecl) (m : AccFmt) (x : Word) : Bool :=
  bits x 39 27 == 0 && regionFits x && !(upperHalf x && (d.col || laneBytes m == 4)) &&
  (!d.blk || (chainLength d x % 32 == 0 && axisStart x % 32 == 0))

/-- The residue file continues with this declaration (R323). -/
def Residue.continues (f : Residue) (d : QDecl) (upper : Bool) : Bool :=
  f.decl == some (d.col, d.fmt, d.blk) && f.tag == d.tag && (d.col || f.upper == upper)

/-- The residue file as a qst takes it up: reset at axis index 0. -/
def Residue.begin (f : Residue) (d : QDecl) (x : Word) : Residue :=
  let f := if axisStart x = 0 then { decl := some (d.col, d.fmt, d.blk), tag := d.tag, upper := !d.col && upperHalf x } else f
  { f with next := (axisStart x + chainLength d x) % 2 ^ 32 }

/-- The residue-order test (R323). DEDUCED (notes/assumptions/47.md). -/
def residueTest (f : Residue) (d : QDecl) (x : Word) : Except Stop Unit :=
  let index := axisStart x != f.next
  let decl := !f.continues d (upperHalf x)
  if axisStart x = 0 ∨ !(index || decl) then .ok () else .error (trapAt 0x0D 0 (ofBool index + 2 * ofBool decl))

/-- Destination ranges of a qst: its rows, and its scales (R322, R366). -/
def quantRanges (d : QDecl) (a x scale : Word) : List (Word × Nat) :=
  let r := regionOf x false
  runs a (signedOf 64 d.stride.toNat) r.nr (r.nl * quantBytes d.fmt) ++ (if d.blk then [(scale, r.nr * r.nl / 32)] else [])

/-- DEDUCED (notes/assumptions/47.md). -/
def execQst (d a b : Nat) (s : State) : Outcome State Fault Refusal :=
  conclude s do
    let (vs, s') ← s.operandsNP [a, b, d] none
    let (cl, bk) ← s.leased
    let k := s.bank cl bk
    match k.decl with
    | none => .error (s.illegal 3)
    | some q => do
      let x := vs.getD 1 0
      s.illegalIf (!quantFits q k.mode x)
      residueTest k.issue q x
      let (_, es) ← s.checkRanges (s.accessor s.cur) .store (quantRanges q (vs.getD 0 0) x (vs.getD 2 0))
      ((s'.installAll s.myCore es).modBank cl bk fun y => { y with issue := y.issue.begin q x }).issueTile bk
        (.quant (vs.getD 0 0) x (vs.getD 2 0) q)

/-- rsav once the bank's commands have retired (R367). -/
def State.saveResidue (s : State) (a : Word) : Run := do
  let (cl, b) ← s.leased
  let (cs, es) ← s.check (s.accessor s.cur) a 576 64 .store
  (s.installAll s.myCore es).storeRecord s [] cs (residueBytes (s.bank cl b).residue)

/-- DEDUCED (notes/assumptions/48.md). -/
def execRsav (a : Nat) (s : State) : Outcome State Fault Refusal :=
  conclude s do
    let (vs, s') ← s.operandsNP [a] none
    let (cl, b) ← s.leased
    let _ ← s'.check (s'.accessor s.cur) (vs.getD 0 0) 576 64 .store
    if s.bankBusy cl b then
      .error (.wait (.tilesDone b) (s'.pend s [a] none { id := 0, len := 0, finish := .rsav (vs.getD 0 0) }))
    else s'.saveResidue (vs.getD 0 0)

/-- The bank takes a residue record (R367). -/
def Bank.takes (k : Bank) (r : Residue) : Bool :=
  match r.decl, k.decl with
  | none, _ => true
  | some (col, f, blk), some d => col == d.col && f == d.fmt && blk == d.blk
  | _, _ => false

/-- The record that rlod has read (R367). -/
def State.loadResidue (s : State) (bs : List Byte) : Run := do
  let (cl, b) ← s.leased
  match residueOf bs with
  | none => .error (trapAt 0x0D 0 2)
  | some r =>
    if !(s.bank cl b).takes r then .error (trapAt 0x0D 0 2)
    else .ok (s.modBank cl b fun k => { k with residue := r, issue := r })

/-- rlod once the bank's commands have retired: the record is read at its points of acceptance. -/
def State.readResidue (s : State) (a : Word) : Run := do
  let (cs, es) ← s.check (s.accessor s.cur) a 576 64 .load
  s.loadThen s [] none cs es .home .record fun bs t => t.loadResidue bs

/-- DEDUCED (notes/assumptions/48.md). -/
def execRlod (a : Nat) (s : State) : Outcome State Fault Refusal :=
  conclude s do
    let (vs, s') ← s.operandsNP [a] none
    let (cl, b) ← s.leased
    let _ ← s'.check (s'.accessor s.cur) (vs.getD 0 0) 576 64 .load
    if s.bankBusy cl b then
      .error (.wait (.tilesDone b) (s'.pend s [a] none { id := 0, len := 0, finish := .rlod (vs.getD 0 0) }))
    else s'.readResidue (vs.getD 0 0)

/-! ## Copies and copy status (R299, R300, R368, R369) -/

/-- The shape of a copy: rows, bytes of a row, strides of destination and source, cores of a multicast. -/
structure Shape where
  rows : Nat
  rowBytes : Nat
  dstride : Int := 0
  sstride : Int := 0
  mask : Option Nat := none

/-- Lowest byte and number of bytes from the lowest to the highest address of the rows. -/
def extent (a : Word) (stride : Int) (rows rowBytes : Nat) : Word × Nat :=
  let far : Int := (rows - 1 : Nat) * stride
  (a + wordOfInt (Min.min 0 far), far.natAbs + rowBytes)

/-- Address just past the part of an aperture that a range of `n` bytes at `a` lies in; none where it lies wholly there. -/
def State.apertureFault (s : State) (a : Word) (n : Nat) : Option Word :=
  let core := s.myCore
  let within (o lim : Nat) : Option Word := if o + n ≤ lim then none else some (a + word (lim - o))
  match aperture core a with
  | .unmapped => some a
  | .virt va => within va (2 ^ 49)
  | .stack o => within o (2 ^ 28)
  | .scratch _ o => if bits a 63 56 = 0xE1 then within (bits a 20 0) (2 ^ 21) else within o (2 ^ 18)
  | .window _ =>
    let parts := chunksOf (n / 64 + 2) a n
    (parts.find? fun p => aperture core p.1 == .unmapped).map (·.1)

/-- The first scratchpad byte of a range beyond the declaration; through aperture 0xE1 a range that a stage declares whole goes on
in the next core's scratchpad (R36). -/
def State.scratchFault (s : State) (a : Word) (n : Nat) : Option Word :=
  match aperture s.myCore a with
  | .scratch _ o =>
    let lim := s.me.scratchBound
    if lim < o + n ∧ lim < 2 ^ 18 then some (a + word (lim - o)) else none
  | _ => none

/-- The lower of two addresses. -/
def lower : Option Word → Option Word → Option Word
  | some a, some b => some (if b.toNat < a.toNat then b else a)
  | some a, none => some a
  | none, b => b

/-- The checks of a copy at issue (R300). -/
def State.copyChecks (s : State) (d : Word × Nat) (a : Word × Nat) : Except Stop Unit :=
  match lower (s.apertureFault a.1 a.2) (s.apertureFault d.1 d.2) with
  | some x => .error (trapAt 0x13 x 0)
  | none =>
    match lower (s.scratchFault a.1 a.2) (s.scratchFault d.1 d.2) with
    | some x => .error (trapAt 0x04 x 4)
    | none => .ok ()

/-- Starts a copy that has passed its checks. -/
def State.startCopy (s : State) (dst src : Word) (p : Shape) : Run :=
  if 65535 ≤ s.me.cp then .error (.park (.counterLimit 2))
  else if Config.copiesInFlight ≤ (s.core s.myCore).copies.length then .error (.park .copySlots)
  else
    let (id, s) := s.fresh
    let c : Copy := { id := id, slot := s.cur, uid := s.me.uid, seq := s.me.copySeq, acc := s.accessor s.cur, src := src, dst := dst
                      rows := p.rows, rowBytes := p.rowBytes, dstride := p.dstride, sstride := p.sstride, mask := p.mask
                      waits := s.me.releases.map (·.id), todo := [(0, p.rows * p.rowBytes)] }
    .ok ((s.modCore s.myCore fun k => { k with copies := k.copies ++ [c] }).modMe fun sl => { sl with cp := sl.cp + 1, copySeq := sl.copySeq + 1 })

def execCopy (twoD : Bool) (d a b : Nat) (s : State) : Outcome State Fault Refusal :=
  conclude s do
    if twoD && (b == 0 || decide (46 < b)) && !isPort b && !(51 ≤ b && b ≤ 55) then .error (s.illegal 3)
    let (vs, s') ← s.operandsNP (if twoD then [d, a, b, b + 1] else [d, a, b]) none
    let dst := vs.getD 0 0
    let src := vs.getD 1 0
    let x := vs.getD 2 0
    let y := vs.getD 3 0
    let p : Shape := if twoD then { rows := bits x 63 32, rowBytes := bits x 31 0, dstride := signedOf 32 (bits y 63 32), sstride := signedOf 32 (bits y 31 0) }
      else { rows := 1, rowBytes := x.toNat }
    s.illegalIf (if twoD then p.rows == 0 || p.rowBytes == 0 else decide (2 ^ 32 < x.toNat))
    if p.rowBytes = 0 then .ok s'
    else do
      s.copyChecks (extent dst p.dstride p.rows p.rowBytes) (extent src p.sstride p.rows p.rowBytes)
      s'.startCopy dst src p

def execCopyMc (d a b : Nat) (s : State) : Outcome State Fault Refusal :=
  conclude s do
    let (vs, s') ← s.operandsNP [d, a, b] none
    let dst := vs.getD 0 0
    let src := vs.getD 1 0
    let x := vs.getD 2 0
    let n := bits x 31 0
    s.illegalIf (bits x 63 56 != 0 || bits x 55 48 == 0 || bits x 47 32 != 0 || n == 0 || decide (262144 < n) || bits dst 63 56 != 0xE0)
    s.copyChecks (dst, n) (src, n)
    s'.startCopy dst src { rows := 1, rowBytes := n, mask := some (bits x 55 48) }

def execCstat (d : Nat) (s : State) : Outcome State Fault Refusal :=
  conclude s do
    let (_, s') ← s.operandsNP [] (some d)
    let sl := s.me
    let e := ({ sl with pend := sl.pend.filter (·.copy) } : Slot).reported true none
    let oldest := match e with | some x => x.seq % 256 | none => 0
    let merr := match e with | some x => x.cause == 0x11 | none => false
    .ok (s'.writeX d (word (sl.copySeq % 256 * 2 ^ 40 + oldest * 2 ^ 32 + ofBool e.isSome * 2 ^ 28 + ofBool merr * 2 ^ 27 +
      (s.core s.myCore).copies.length * 2 ^ 16 + sl.cp)))

/-! ## Stream, gather and top-k bindings (R303, R306, R328, R370 to R372) -/

/-- Frees the generator of a stream port. -/
def State.freeGen (s : State) (g p : Nat) : State :=
  match (s.slot g).port p with
  | .gen n => (s.modSlot g (·.setPort p .unbound)).modCore (coreOf g) fun c => { c with gens := Tab.del c.gens n }
  | _ => s

/-- The generator of a descriptor (R303); none where a field is out of range. -/
def generatorOf (g p id uid : Nat) (x : Accessor) (bs : List Byte) : Option Generator :=
  let base := word (fieldLe bs 0 8)
  let count := (List.range 4).map fun i => fieldLe bs (8 + 4 * i) 4
  let stride := (List.range 4).map fun i => signedOf 64 (fieldLe bs (24 + 8 * i) 8)
  let size := fieldLe bs 56 1
  let flags := fieldLe bs 57 1
  let toks := fieldLe bs 58 1
  let e : Nat := 2 ^ size
  let inAperture := match aperture x.core base with | .virt _ | .stack _ | .scratch _ _ => true | _ => false
  if count.all (0 < ·) && decide (size < 4) && decide (flags < 2) && decide (toks < 8) && fieldLe bs 59 5 == 0 &&
      base.toNat % e == 0 && (stride.all fun (i : Int) => i % (e : Nat) == 0) && inAperture then
    some { id := id, slot := g, uid := uid, port := p, base := base, count := count, stride := stride, size := size
           signExt := flags == 1, mask := toks, next := 0, acc := x }
  else none

def execGbind (p a : Nat) (s : State) : Outcome State Fault Refusal :=
  conclude s do
    let (vs, s') ← s.operandsNP [a] none
    if a = 0 then
      match s.me.port p with
      | .gen _ | .unbound => .ok (s'.freeGen s.cur p)
      | _ => .error (s.illegal 3)
    else
      let x := vs.getD 0 0
      let o := bits x 17 0
      let core := s.myCore
      let free := (List.range 16).find? fun n => (Tab.get? (s.core core).gens n).isNone
      s.illegalIf ((match aperture core x with | .scratch _ _ => false | _ => true) || bits x 63 56 != 0xE0 || o % 64 != 0 || s.me.port p != .unbound)
      match free with
      | none => .error (s.illegal 3)
      | some n =>
        if s.me.scratchBound < o + 64 then .error (trapAt 0x04 (word (0xE000000000000000 + Nat.max o s.me.scratchBound)) 4)
        else
          match [0, 1].find? fun k => s.lost.contains (scratchPa core o / 32 + k) with
          | some k => .error (trapAt 0x11 (word (0xE000000000000000 + o + 32 * k)) 0)
          | none =>
            let (id, s') := (s'.flush core (poaCore core)).fresh
            match generatorOf s.cur p id s.me.uid (s.accessor s.cur) (s'.ownPortBytes core (scratchPa core o) 64) with
            | some g => .ok ((s'.modMe (·.setPort p (.gen n))).modCore core fun c => { c with gens := Tab.set c.gens n g })
            | none => .error (s.illegal 3)

/-- What a port is once it is lent. -/
def Port.lend (p : Port) (topk input : Bool) : Port :=
  let mk (q e : Nat) (g : Option Nat) : Port := if topk then .lentTopk input q e g else .lentRef input q e g
  match p with
  | .pop q e | .push q e => mk q e none
  | .gen n => mk 0 0 (some n)
  | p => p

/-- The port is bound for popping, or for pushing. -/
def Port.mayLend (p : Port) (input : Bool) : Bool :=
  match p with
  | .pop _ _ | .gen _ => input
  | .push _ _ => !input
  | _ => false

/-- Lends two ports of the issuing slot. -/
def Slot.lendPorts (sl : Slot) (topk : Bool) (qd qa : Nat) : Slot :=
  (sl.setPort qd ((sl.port qd).lend topk false)).setPort qa ((sl.port qa).lend topk true)

def execGref (idx64 el8 : Bool) (qd qa b : Nat) (s : State) : Outcome State Fault Refusal :=
  conclude s do
    let (vs, s') ← s.operandsNP [b] none
    let core := s.myCore
    match s.me.unit, s.me.port qd, s.me.port qa, (s.core core).ref with
    | some u, .push out _, pa, none =>
      if !pa.mayLend true then .error (s.illegal 3)
      else
        let (id, s') := s'.fresh
        let (q, g) := match pa with | .pop q _ => (some q, none) | .gen n => (none, some n) | _ => (none, none)
        let r : RefAcc := { id := id, slot := s.cur, unit := u, qd := qd, qa := qa, out := out, inQueue := q, inGen := g
                            base := vs.getD 0 0, idx64 := idx64, el8 := el8, acc := s.accessor s.cur }
        .ok ((s'.modMe (·.lendPorts false qd qa)).setRef core (some r))
    | _, _, _, _ => .error (s.illegal 3)

def execTopk (qd qa b : Nat) (s : State) : Outcome State Fault Refusal :=
  conclude s do
    let (vs, s') ← s.operandsNP [b] none
    let x := vs.getD 0 0
    let cl := clusterOf s.myCore
    let k := bits x 8 0
    s.illegalIf (bits x 63 13 != 0 || bits x 12 11 == 0 || k == 0 || decide (256 < k) || (s.cluster cl).topk.isSome ||
      s.me.unit == none || !(s.me.port qd).mayLend false || !(s.me.port qa).mayLend true)
    let t : TopK := { slot := s.cur, uid := s.me.uid, qd := qd, qa := qa, level := bits x 12 11, largest := bit x 10, ikey := bit x 9, k := k }
    .ok ((s'.modMe (·.lendPorts true qd qa)).modCluster cl fun c => { c with topk := some t })

end Sys2Proof.Machine
end

