-- ==== Sys2Proof/Machine/EvEngines.lean ====
section
/-! DEFINITION. The steps of the engines: push registers (R213), copies (R296), generators (R305), the reference accelerator
(R307), leases (R308), the array and the tile commands (R313 to R325), operand rings (R356), the top-k unit (R329) and the
ridge's forwarding of posts (R423). -/

namespace Sys2Proof.Machine

open Host

/-- An event that takes place where it can. DEDUCED (notes/assumptions/87.md). -/
def occur (r : Option State) : Outcome State Fault Refusal :=
  match r with
  | some s => .next s
  | none => .fault .eventNotEnabled

/-- An event under a condition. DEDUCED (notes/assumptions/87.md). -/
def when (b : Bool) (s : State) : Outcome State Fault Refusal := if b then .next s else .fault .eventNotEnabled

/-! ## Push registers, copies, generators, gathers -/

/-- An earlier write to the same push register is still there. -/
def State.pushBehind (s : State) (i : Nat) (w : PushWrite) : Bool :=
  (s.pushWrites.take i).any fun x => x.core == w.core && x.q == w.q

/-- The store that made a write to a push register is accepted (R16, R248). -/
def State.acceptPush (s : State) (w : PushWrite) : State := match w.from_ with | some m => s.arrived m | none => s

/-- A write of a slot is accepted when its queue takes it; where no queue is, it takes no effect. DESIGN CHOICE
(notes/assumptions/45.md). -/
def execQueuePushRegisterWrite (i : Nat) (s : State) : Outcome State Fault Refusal :=
  match s.pushWrites[i]? with
  | none => .fault .eventNotEnabled
  | some w =>
    let gone := { s with pushWrites := dropAt s.pushWrites i }.acceptPush w
    match (Tab.get? (s.core w.core).local_ w.q).bind fun q => (Tab.get? s.queues q).map fun x => (q, x) with
    | none => .next gone
    | some (qid, q) => when (q.room 0 && !s.pushBehind i w) (gone.pushQueueAs (dieOfCore w.core) none qid w.data w.tag)

def execCopyComplete (core i : Nat) (s : State) : Outcome State Fault Refusal :=
  occur ((s.core core).copies[i]?.bind s.copyStep)

def execGeneratorElementLoad (core gen : Nat) (s : State) : Outcome State Fault Refusal := occur (s.generatorLoad core gen)

def execRefAcceleratorPop (core : Nat) (s : State) : Outcome State Fault Refusal := occur (s.refStep core)

def execGatherComplete (core i : Nat) (s : State) : Outcome State Fault Refusal := occur (s.gatherStep core i)

/-! ## Leases (R308, R309) -/

/-- A bank that may be granted: none holds it and its commands have retired. -/
def Bank.grantable (k : Bank) : Bool := k.holder == none && k.order == []

/-- The bank that a request can have now. -/
def State.bankFor (s : State) (cl : Nat) (named : Option Nat) : Option Nat :=
  match named with
  | some b => if (s.bank cl b).grantable then some b else none
  | none => [0, 1, 2, 3].find? fun b => (s.bank cl b).grantable

/-- Delivers a bank to a slot: as it is where the last holder was of the same launch, else reset (R309). -/
def State.grantBank (s : State) (cl b g w : Nat) : State :=
  let l := (s.slot g).launch
  let s := if (s.bank cl b).lastLaunch = some l then s
    else { s with mem := s.mem.zero (bankPa cl b 0) (bankPa cl b 0x8000) }.modBank cl b fun _ => {}
  (s.modBank cl b fun k => { k with holder := some g, weight := w, lastLaunch := some l }).modSlot g fun sl => { sl with lease := some (b, w), leaseNew := true }

def execLeaseGrant (cluster : Nat) (s : State) : Outcome State Fault Refusal :=
  match (s.cluster cluster).leaseQ.findSome? fun r => (s.bankFor cluster r.2.1).map fun b => (r, b) with
  | none => .fault .eventNotEnabled
  | some (r, b) => .next ((s.modCluster cluster fun c => { c with leaseQ := c.leaseQ.erase r }).grantBank cluster b r.1 r.2.2)

/-! ## The array (R317, R318) -/

/-- Every reserved slot of a command has been passed by its ring's tail (R313). -/
def State.ringPassed (s : State) (core n seq : Nat) : Bool :=
  let d := diff16 (s.ring core n).tail seq
  decide (0 < d) && decide (d < 32768)

/-- A command is ready (R313, R363). -/
def State.cmdReady (s : State) (k : TileCmd) : Bool :=
  !s.enginesRest k.acc.launch &&
  match k.op with
  | .mma _ _ _ _ ra qa rb qb sc =>
    s.ringPassed k.core ra qa && s.ringPassed k.core rb qb &&
    match sc with
    | some (x, qx, y, qy) => s.ringPassed k.core x qx && s.ringPassed k.core y qy
    | none => true
  | _ => k.waits.all fun r => (s.slot k.slot).releases.all fun x => x.id != r

/-- The command uses the array. -/
def TileOp.usesArray : TileOp → Bool
  | .mma _ _ _ _ _ _ _ _ _ => true
  | _ => false

/-- Cycles from the start of a command to its last group or row (R318). -/
def TileOp.cycles : TileOp → Nat
  | .zero => 64
  | .load _ _ region | .store _ _ region | .quant _ region _ _ => bits region 11 6 + 1
  | .mma f _ _ k _ _ _ _ _ => ceilDiv k (groupOf f)

/-- The command has been under way for as long as it takes at least (R318, R360). -/
def TileCmd.due (k : TileCmd) (now : Nat) : Bool :=
  match k.started with
  | some c => decide (c + k.op.cycles + 24 ≤ now)
  | none => false

/-- The command of a bank that starts next: it is ready, and every earlier one has retired, but for those of the array before
another one of the array (R317, R318). DEDUCED (notes/assumptions/97.md). -/
def State.nextCmd (s : State) (cl b : Nat) : Option TileCmd :=
  let order := (s.bank cl b).order
  let before := order.takeWhile (·.started.isSome)
  match order.find? (·.started.isNone) with
  | some k => if s.cmdReady k && (before == [] || (k.op.usesArray && before.all (·.op.usesArray))) then some k else none
  | none => none

/-- A bank's next command waits for the array and is ready. -/
def State.wantsArray (s : State) (cl b : Nat) : Bool := match s.nextCmd cl b with | some k => k.op.usesArray | none => false

/-- The run of the bank that is served goes on. -/
def State.runGoesOn (s : State) (cl : Nat) : Bool :=
  match (s.cluster cl).served with
  | some (b, n) => n != 0 && s.wantsArray cl b
  | none => false

/-- Arbitration when the array is free and the run that it served is over. -/
def execArrayArbitration (cluster : Nat) (s : State) : Outcome State Fault Refusal :=
  let c := s.cluster cluster
  let winner := ((List.range 4).map fun i => (c.arbiter + i) % 4).find? (s.wantsArray cluster)
  when (decide (c.arrayFree ≤ s.cycle) && !s.runGoesOn cluster && (winner.isSome || c.served.isSome)) (s.modCluster cluster fun c =>
    match winner with
    | some b => { c with arbiter := (b + 1) % 4, served := some (b, Nat.min 16 (2 * (s.bank cluster b).weight)) }
    | none => { c with served := none })

/-! ## Start and retirement -/

/-- A command of a bank starts in this cycle and leaves its core's command queue. -/
def State.startCmd (s : State) (cl b : Nat) (k : TileCmd) : State :=
  (s.modBank cl b fun x => { x with order := x.order.map fun y => if y.id = k.id then { y with started := some s.cycle } else y }).modCore
    k.core fun c => { c with cmdQueue := c.cmdQueue - 1 }

/-- A command takes the array (R318): back to back in a run, 24 cycles after the last group after a change of bank. -/
def State.takeArray (s : State) (cl b : Nat) (k : TileCmd) : Option State :=
  let c := s.cluster cl
  match c.served with
  | some (w, n) =>
    let gap := if c.arrayBank = none ∨ c.arrayBank = some b then 0 else 24
    if w = b ∧ n ≠ 0 ∧ c.arrayFree + gap ≤ s.cycle then
      some ((s.startCmd cl b k).modCluster cl fun c =>
        { c with served := some (w, n - 1), arrayFree := s.cycle + k.op.cycles, arrayBank := some b })
    else none
  | none => none

def execTileCommandStart (cluster bank : Nat) (s : State) : Outcome State Fault Refusal :=
  match s.nextCmd cluster bank with
  | none => .fault .eventNotEnabled
  | some k => if k.op.usesArray then occur (s.takeArray cluster bank k) else .next (s.startCmd cluster bank k)

/-- Releases a reserved slot of a ring: head passes every slot released in order (R313). -/
def Ring.release (r : Ring) (seq : Nat) : Ring := advance 64 { r with released := r.released ++ [seq] }
where
  /-- head passes released slots, `n` at most. -/
  advance : Nat → Ring → Ring
    | 0, r => r
    | n + 1, r => if r.released.contains r.head then advance n { r with head := n16 (r.head + 1), released := r.released.erase r.head } else r

/-- A closed batch all of whose commands have retired leaves TB (R319). -/
def Slot.retireBatches (sl : Slot) : Slot :=
  let done := (sl.batches.filter fun b => b.2 == 0).length
  { sl with batches := sl.batches.filter fun b => b.2 != 0, tb := sl.tb - done }

/-- Counts a retired command toward its batch. -/
def Slot.retireCmd (sl : Slot) (k : TileCmd) : Slot :=
  if k.batch = sl.batch then { sl with openCmds := sl.openCmds - 1 }
  else { sl with batches := sl.batches.map fun (b : Nat × Nat) => if b.1 = k.batch then (b.1, b.2 - 1) else b : Slot }.retireBatches

/-- A command leaves its bank's order; its error, if any, becomes pending (R298): a rejected access as a copy error (R393). -/
def State.retireTile (s : State) (cl b : Nat) (k : TileCmd) (err : Option (Nat × Word)) : State :=
  let s := s.modBank cl b fun x => { x with order := x.order.drop 1 }
  if !s.stillUnit k.slot k.uid ∧ (s.slot k.slot).unit.isSome then s
  else
    let s := match err with
      | some (c, a) => s.pendError k.slot k.uid { cause := c, addr := a, seq := k.seq, order := k.id, batch := if c = 0x10 then none else some k.batch }
      | none => s
    s.modSlot k.slot (·.retireCmd k)

/-- `n` bytes of a scratchpad as a tile command reads them: those of a failing sector are left open.
DEDUCED (notes/assumptions/46.md). -/
def State.operandBytes (s : State) (core off n : Nat) : List Byte :=
  (List.range n).map fun i =>
    let pa := scratchPa core (off + i)
    if s.lost.contains (pa / 32) then BitVec.ofNat 8 (s.free pa).toNat else s.mem.byte pa

/-- Lowest failing byte of a ring slot, as a generic address. -/
def State.lostOperand (s : State) (core : Nat) (r : Ring) (seq n : Nat) : Option Word :=
  let off := r.base + seq % r.count * r.size
  ((List.range n).find? fun i => s.lost.contains (scratchPa core (off + i) / 32)).map fun i =>
    word (0xE000000000000000 + (off + i) / 32 * 32)

/-- Offset of the slot that a sequence number names. -/
def Ring.offset (r : Ring) (seq : Nat) : Nat := r.base + seq % r.count * r.size

/-- A scale slot does not fit K (R316): `lines` is 64 for A and 128 for B. -/
def State.desynced (s : State) (core n seq k lines : Nat) : Bool :=
  let r := s.ring core n
  numLe (s.operandBytes core (r.offset seq) 4) != ceilDiv k 32 || decide (r.size < 64 + lines * ceilDiv k 32)

/-- The lanes of a row with its first `n` lanes replaced. -/
def mergeLanes (row new : List Nat) : List Nat := new ++ row.drop new.length

/-- The bank rows after a tmma or tdist (R105 to R108, R315). -/
def State.mmaRows (s : State) (cl b : Nat) (k : TileCmd) (f : TFmt) (dist : Option Dist) (kk ra qa rb qb : Nat)
    (sc : Option (Nat × Nat × Nat × Nat)) : State :=
  let sa := operandStride f kk
  let aAt := (s.ring k.core ra).offset qa
  let bAt := (s.ring k.core rb).offset qb
  let cols := (List.range 128).map fun j => numLe (s.operandBytes k.core (bAt + j * sa) sa)
  let nb := ceilDiv kk 32
  let code (n q i blk : Nat) : Nat := numLe (s.operandBytes k.core ((s.ring k.core n).offset q + 64 + i * nb + blk) 1)
  let scale (i j : Nat) (blk : Nat) : Scale := match sc with
    | some (x, qx, y, qy) => scaleOf (code x qx i blk) (code y qy j blk)
    | none => .one
  let x : CellMode := { f := f, dist := dist, k := kk, mode := k.mode, rnd := k.tfrm, core := k.core }
  (List.range 64).foldl (fun s i =>
    let a := numLe (s.operandBytes k.core (aAt + i * sa) sa)
    let old := s.row cl b k.mode i
    let new := (cols.zip old).mapIdx fun j p => cell x a p.1 (scale i j) p.2
    s.writeRow cl b i (bytesOfLanes (laneBytes k.mode) (mergeLanes old new))) s

/-- Retirement of tmma and tdist (R313, R316, R360). DEDUCED (notes/assumptions/46.md). -/
def State.retireMma (s : State) (cl b : Nat) (k : TileCmd) (f : TFmt) (dist : Option Dist) (kk ra qa rb qb : Nat)
    (sc : Option (Nat × Nat × Nat × Nat)) : State :=
  let bad : Bool := match sc with
    | some (x, qx, y, qy) => s.desynced k.core x qx kk 64 || s.desynced k.core y qy kk 128
    | none => false
  let at_ (n q len : Nat) : Option Word := s.lostOperand k.core (s.ring k.core n) q len
  let nb := ceilDiv kk 32
  let lost := lower (lower (at_ ra qa (64 * operandStride f kk)) (at_ rb qb (128 * operandStride f kk))) (match sc with
    | some (x, qx, y, qy) => lower (at_ x qx (64 + 64 * nb)) (at_ y qy (64 + 128 * nb))
    | none => none)
  let t := if bad ∨ kk = 0 then s else s.mmaRows cl b k f dist kk ra qa rb qb sc
  let free (t : State) (n q : Nat) : State := t.modRing k.core n (·.release q)
  let t := free (free t ra qa) rb qb
  let t := match sc with | some (x, qx, y, qy) => free (free t x qx) y qy | none => t
  t.retireTile cl b k (if bad then some (0x0E, 0) else lost.map fun a => (0x11, a))

/-- What a tile command's reads of memory give. -/
inductive PullAll where
  | bytes (bss : List (List Byte)) (err : Option (Nat × Word))
  | wait (s : Option State)

/-- Reads several runs; the bytes of a failing run are left open. -/
def State.pullAll (s : State) (x : Accessor) (id : Nat) : Nat → List (Word × Nat) → PullAll
  | _, [] => .bytes [] none
  | i, (a, n) :: r =>
    match s.pull x a n (engineKey id i), s.pullAll x id (i + 1) r with
    | .wait s', _ => .wait s'
    | _, .wait s' => .wait s'
    | .bytes bs _, .bytes bss e => .bytes (bs :: bss) e
    | .fail c b _, .bytes bss e =>
      .bytes ((List.range n).map (fun j => BitVec.ofNat 8 (s.free (i * 2 ^ 10 + j)).toNat) :: bss)
        (some (match e with | some (c', b') => if b'.toNat < b.toNat then (c', b') else (if c = 0x11 then 0x11 else 0x10, b)
                            | none => (if c = 0x11 then 0x11 else 0x10, b)))

/-- Lane codes of a region after a tload: code (r, l) from the runs (R363). -/
def loadRows (tr : Bool) (r : Region6) (e : Nat) (bss : List (List Byte)) (old : Nat → List Nat) : List (Nat × List Nat) :=
  (List.range r.nr).map fun i =>
    let code (l : Nat) : Nat := if tr then fieldLe (bss.getD l []) (i * e) e else fieldLe (bss.getD i []) (l * e) e
    (r.row0 + i, (old (r.row0 + i)).mapIdx fun l c => if r.lane0 ≤ l ∧ l < r.lane0 + r.nl then code (l - r.lane0) else c)

/-- Retirement of a tload; none while it waits and nothing changes. -/
def State.retireLoad (s : State) (cl b : Nat) (k : TileCmd) (tr : Bool) (a x : Word) : Option State :=
  let r := regionOf x false
  let e := laneBytes k.mode
  match s.pullAll k.acc k.id 0 (runs a (tileStride x) (if tr then r.nl else r.nr) ((if tr then r.nr else r.nl) * e)) with
  | .wait s' => s'
  | .bytes bss err =>
    let t := (loadRows tr r e bss (s.row cl b k.mode)).foldl (fun t p => t.writeRow cl b p.1 (bytesOfLanes e p.2)) s
    let others {α : Type} (l : Tab α) : Tab α := l.filter fun h => h.1 / 2 ^ 128 != engineKey k.id 0 / 2 ^ 128
    some ({ t with hostData := others t.hostData, remote := others t.remote }.retireTile cl b k err)

/-- The writes of a tstore or qst: those out of reach are an error, the others enter the slot's stores (R364), whose pieces in
scratchpads are tested as they arrive (R314). None where they have to wait and nothing changes. R16 states the wait at 65,535 for an instruction that issues; the retirement of a
command, which would raise ST above 65,535, waits in the same way: DESIGN CHOICE (notes/assumptions/103.md). -/
def State.tileStores (s : State) (k : TileCmd) (ws : List (Word × List Byte)) : PullAll ⊕ (State × Option (Nat × Word)) :=
  let located := ws.map fun w => (w, s.partsOf k.acc w.1 w.2.length)
  match located.findSome? fun p => match s.outOfReach k.acc .store p.2 with | some (.wait s') => some s' | _ => none with
  | some s' => .inl (.wait s')
  | none =>
    let failOf (p : (Word × List Byte) × List (Word × Nat × Located)) : Option Word :=
      match s.outOfReach k.acc .store p.2 with
      | some (.fail _ b _) => some b
      | _ => none
    let good := located.filter fun p => (failOf p).isNone
    let err := (located.filterMap failOf).foldl (fun b a => lower b (some a)) none
    let own := s.stillUnit k.slot k.uid
    let full := own && decide (65535 ≤ (s.slot k.slot).st)
    let (id, t) := s.fresh
    let write (t : Option State) (p : (Word × List Byte) × List (Word × Nat × Located)) : Option State :=
      t.bind fun t =>
        if own then t.storePieces k.slot id (piecesOf (chunksAt p.2)) p.1.2 (some (k.seq, k.id))
        else match t.put k.acc p.1.1 p.1.2 none with | .done t => some t | .wait _ => none | .fail _ => some t
    match if full then none else good.foldl write (some t) with
    | none => .inl (.wait none)
    | some t => .inr (t, err.map fun a => (0x10, a))

/-- The code that a tstore writes: unchanged where it is in the destination format (R364). -/
def storeCode (m : AccFmt) (dst : SFmt) (rnd c : Nat) : Nat :=
  match m, dst with
  | .fp32, .fp32 | .fp16, .fp16 | .bf16, .bf16 => c
  | m, dst => (convertLane m dst rnd c).1

/-- Retirement of a tstore (R364). -/
def State.retireStore (s : State) (cl b : Nat) (k : TileCmd) (dst : SFmt) (a x : Word) : Option State :=
  let r := regionOf x false
  let row (i : Nat) : Word × List Byte :=
    let cs := ((s.row cl b k.mode (r.row0 + i)).drop r.lane0).take r.nl
    (a + wordOfInt ((i : Nat) * tileStride x), bytesOfLanes (codeBytes dst) (cs.map (storeCode k.mode dst k.tfrm)))
  match s.tileStores k ((List.range r.nr).map row) with
  | .inl (.wait s') => s'
  | .inl _ => none
  | .inr (t, err) => some (t.retireTile cl b k err)

/-- Columns of a list of rows. -/
def transpose (n : Nat) (rows : List (List Nat)) : List (List Nat) := (List.range n).map fun j => rows.map fun r => r.getD j 0

/-- Retirement of a qst (R324). -/
def State.retireQuant (s : State) (cl b : Nat) (k : TileCmd) (a x scale : Word) (d : QDecl) : Option State :=
  let r := regionOf x (upperHalf x)
  let file := (s.bank cl b).residue.begin d x
  let rows := (List.range r.nr).map fun i => ((s.row cl b k.mode (r.row0 + i)).drop r.lane0).take r.nl
  let chains := if d.col then rows else transpose r.nl rows
  let entry (i : Nat) : Nat := if d.col then r.row0 + i else (r.lane0 + i) % 128
  let out := chains.mapIdx fun i c =>
    quantChain d.fmt d.blk k.tfrm (file.entries.getD (entry i) 0).toNat (c.map (bankDecode k.mode))
  let file := { file with entries := (List.range out.length).foldl (fun es i =>
    match out[i]? with | some o => putAt es (entry i) (BitVec.ofNat 32 o.2.2.1) | none => es) file.entries }
  let codes := if d.col then out.map (·.1) else transpose r.nr (out.map (·.1))
  let scales := if d.col then out.flatMap (·.2.1) else (transpose (r.nr / 32) (out.map (·.2.1))).flatten
  let stride := signedOf 64 d.stride.toNat
  let ws := codes.mapIdx (fun i c => (a + wordOfInt ((i : Nat) * stride), bytesOfLanes (quantBytes d.fmt) c)) ++
    (if d.blk then [(scale, bytesOfLanes 1 scales)] else [])
  match s.tileStores k ws with
  | .inl (.wait s') => s'
  | .inl _ => none
  | .inr (t, err) =>
    let t := t.modBank cl b fun y => { y with residue := file }
    let t := if (out.any fun o => o.2.2.2) && t.stillUnit k.slot k.uid then t.modSlot k.slot (·.flag fQS) else t
    some (t.retireTile cl b k err)

/-- Retirement of a tzero (R353). -/
def State.retireZero (s : State) (cl b : Nat) (k : TileCmd) : State :=
  ((List.range 64).foldl (fun t i =>
    t.writeRow cl b i (bytesOfLanes (laneBytes k.mode) (mergeLanes (t.row cl b k.mode i) (List.replicate 128 0)))) s).retireTile cl b k none

def execTileCommandRetire (cluster bank : Nat) (s : State) : Outcome State Fault Refusal :=
  match (s.bank cluster bank).order with
  | [] => .fault .eventNotEnabled
  | k :: _ =>
    if !k.due s.cycle then .fault .eventNotEnabled
    else
      match k.op with
      | .zero => .next (s.retireZero cluster bank k)
      | .mma f _ dist kk ra qa rb qb sc => .next (s.retireMma cluster bank k f dist kk ra qa rb qb sc)
      | .load tr a x => occur (s.retireLoad cluster bank k tr a x)
      | .store dst a x => occur (s.retireStore cluster bank k dst a x)
      | .quant a x sc d => occur (s.retireQuant cluster bank k a x sc d)

/-! ## Operand rings (R356) -/

def execRingTailAdvance (core ring : Nat) (s : State) : Outcome State Fault Refusal :=
  let t := s.advanceTail core ring
  when (t.ring core ring != s.ring core ring) t

/-! ## The top-k unit (R328, R329) -/

/-- Element x is better than element y. -/
def TopK.better (t : TopK) (x y : Word) : Bool :=
  let id (w : Word) : Nat := bits w 31 0
  let byOrder (o : Ordering) : Bool :=
    match o with
    | .eq => decide (id x < id y)
    | .lt => !t.largest
    | .gt => t.largest
  if t.ikey then byOrder (compare (signedOf 32 (bits x 63 32)) (signedOf 32 (bits y 63 32)))
  else
    let kx := fp32.decode (bits x 63 32)
    let ky := fp32.decode (bits y 63 32)
    match kx.isNan, ky.isNan with
    | true, true => decide (id x < id y)
    | true, false => false
    | false, true => true
    | false, false => byOrder (cmpVal kx ky)

/-- Inserts an element, best first. -/
def TopK.insert (t : TopK) (x : Word) : List Word → List Word
  | [] => [x]
  | y :: r => if t.better x y then x :: y :: r else y :: t.insert x r

/-- The unit takes an element (R329). -/
def TopK.take (t : TopK) (e : Elem) : TopK :=
  if e.tag = 0 then { t with kept := (t.insert e.data t.kept).take t.k }
  else if e.tag < t.level then t
  else { t with kept := [], out := t.kept.map (fun w => { data := w, tag := 0 }) ++ [e] }

/-- What stands at a port that is lent to the top-k unit, and the state after its pop. -/
def State.topkPop (s : State) (t : TopK) : Option (Elem × State) :=
  match (s.slot t.slot).port t.qa with
  | .lentTopk _ q _ none =>
    match Tab.get? s.queues q, (s.slot t.slot).unit with
    | some x, some u => (s.visible u q x).head?.map fun e => (e, s.popQueue t.slot q 1)
    | _, _ => none
  | .lentTopk _ _ _ (some n) =>
    let c := coreOf t.slot
    match Tab.get? (s.core c).gens n with
    | some g => match g.ahead with
      | (e, none) :: r => some (e, s.modCore c fun k => { k with gens := Tab.set k.gens n { g with ahead := r } })
      | _ => none
    | none => none
  | _ => none

/-- Pushes the next element of the unit's output. -/
def State.topkPush (s : State) (cl : Nat) (t : TopK) (e : Elem) : Option State :=
  match (s.slot t.slot).port t.qd with
  | .lentTopk _ q _ none =>
    match Tab.get? s.queues q with
    | some x =>
      if x.room t.uid then
        some ((s.pushQueue t.slot q e.data e.tag).modCluster cl fun c => { c with topk := some { t with out := t.out.drop 1 } })
      else none
    | none => none
  | _ => none

def execTopkElement (cluster : Nat) (s : State) : Outcome State Fault Refusal :=
  match (s.cluster cluster).topk with
  | none => .fault .eventNotEnabled
  | some t =>
    if s.enginesRest (s.slot t.slot).launch then .fault .eventNotEnabled
    else
    match t.out with
    | e :: _ => occur (s.topkPush cluster t e)
    | [] => occur ((s.topkPop t).map fun (e, s) => s.modCluster cluster fun c => { c with topk := some (t.take e) })

/-! ## Posts (R422, R423, R445) -/

/-- A host ring has room for an entry now. -/
def HostRing.roomy (r : HostRing) : Bool := r.held == [] && decide ((r.tail + 2 ^ 32 - r.head) % 2 ^ 32 < r.entries)

/-- The ridge reads the oldest entry of a die's inbound queue. -/
def State.readInbound (s : State) (d : Nat) : State :=
  let s := s.modDie d fun x => { x with inbound := x.inbound.drop 1, rqhead := word ((x.rqhead.toNat + 1) % 2 ^ 32) }
  s.settleInbound d

def execPostForward (die : Nat) (s : State) : Outcome State Fault Refusal :=
  match (s.die die).inbound with
  | [] => .fault .eventNotEnabled
  | e :: _ =>
    if e.kind ≠ 1 then .next (s.readInbound die)
    else
      let p := (s.job e.job).port
      when (Tab.getD (s.port p).rings 2 {}).roomy ((s.readInbound die).record p 2 (inboundBytes e))

end Sys2Proof.Machine
end

