-- ==== Sys2Proof/Machine/System.lean ====
section
/-! DEFINITION. Meanings of page 7 (R63, R411 to R426): control and status registers, software traps and their return,
translation and keys, the control, save and load of slots, promotion of a core, posts and wakes. -/

namespace Sys2Proof.Machine

open Host

/-! ## Control and status registers (R19 to R25, R220, R425, R426, R471) -/

/-- A configuration word of a submission queue as qcfg reads (R426). -/
def SubQ.config (q : SubQ) : Word := word (ofBool q.enabled * 2 ^ 63 + q.prio % 8 * 2 ^ 56 + q.asid % 4096 * 2 ^ 44 + q.job % 2 ^ 32)

/-- What csrw writes to qcfg. -/
def SubQ.configure (q : SubQ) (v : Word) : SubQ :=
  { q with enabled := bit v 63, prio := bits v 58 56, asid := bits v 55 44, job := bits v 31 0 }

/-- Word `w` of a group mask (R425). -/
def maskWord (m w : Nat) : Nat := m / 2 ^ (64 * w) % 2 ^ 64

/-- A group mask with one word replaced. -/
def maskWith (m w : Nat) (v : Word) : Nat := m - maskWord m w * 2 ^ (64 * w) + v.toNat * 2 ^ (64 * w)

/-- Records that wait in a submission queue (R425): handed over and not placed. -/
def State.waitingIn (s : State) (q : Nat) : Nat :=
  (s.subQ q).waiting.length + (s.subQ q).records.length +
  if 128 ≤ q then ((Tab.getD (s.die ((q - 128) / 16)).spawnQ (q % 16) {}).entries.filter (·.2.1)).length else 0

/-- The value of a CSR of the issuing slot; none for a number that is not assigned (R19, R20, R425). -/
def State.readCsr (s : State) (c : Nat) : Option Word :=
  let sl := s.me
  let a := s.asidOf (bits sl.rasid 11 0)
  let q := bits sl.qsel 7 0
  let w := bits sl.agsel 3 0
  let d := s.die (dieOf s.cur)
  match c with
  | 0x001 => some sl.frm
  | 0x002 => some sl.fflags
  | 0x003 => some sl.tfrm
  | 0x010 => some sl.asid
  | 0x011 => some (word s.myCore)
  | 0x012 => some (word (s.cur % 16))
  | 0x020 => some sl.tcause
  | 0x021 => some sl.tip
  | 0x022 => some sl.taddr
  | 0x023 => some sl.thand
  | 0x024 => some sl.tinfo
  | 0x030 => some Config.capatom
  | 0x031 => some Config.capdev
  | 0x040 => some (word s.stepctr)
  | 0x050 => some (word sl.ld)
  | 0x051 => some (word sl.st)
  | 0x052 => some (word sl.cp)
  | 0x053 => some (word sl.tb)
  | 0x100 => some sl.rasid
  | 0x101 => some a.root
  | 0x102 => some (word a.gen)
  | 0x103 => some sl.agsel
  | 0x104 => if w ≤ 11 then some (word (maskWord (a.mask (bits sl.agsel 19 12)) w)) else none
  | 0x110 => some sl.qsel
  | 0x111 => if q ≤ 191 then some (s.subQ q).config else none
  | 0x112 => if q ≤ 191 then
      some (word ((s.subQ q).passes % 2 ^ 16 * 2 ^ 32 + s.waitingIn q % 2 ^ 32)) else none
  | 0x118 => some d.rqbase
  | 0x119 => some d.rqhead
  | 0x11A => some (word d.rqtail)
  | c =>
    if 0x108 ≤ c ∧ c ≤ 0x10F then some (a.grant (c - 0x108))
    else if 0x120 ≤ c ∧ c ≤ 0x12B then some (word (s.lowMark (c - 0x120)))
    else s.deviceCsr c

/-- A CSR that may be written (R19, R425, R471). -/
def csrWritable (c : Nat) : Bool :=
  c ∈ [0x001, 0x002, 0x003, 0x020, 0x021, 0x022, 0x023, 0x024, 0x100, 0x101, 0x103, 0x104, 0x110, 0x111, 0x118, 0x119,
       0x200, 0x204, 0x205] ||
  (decide (0x108 ≤ c) && decide (c ≤ 0x10F)) || (decide (0x120 ≤ c) && decide (c ≤ 0x12B)) ||
  (decide (0x210 ≤ c) && decide (c ≤ 0x21B))

/-- The bits of a word that a mask lets through. -/
def keep (v : Word) (mask : Nat) : Word := v &&& word mask

/-- Changes the address space that rasid selects. -/
def State.modSelected (s : State) (f : Asid → Asid) : State := s.modAsid (bits s.me.rasid 11 0) f

/-- The ridge has read a die's inbound queue up to an index. -/
def State.readUpTo (s : State) (d : Nat) (v : Nat) : State :=
  let x := s.die d
  let n := (v + 2 ^ 32 - x.rqhead.toNat % 2 ^ 32) % 2 ^ 32
  (s.modDie d fun x => { x with rqhead := word v, inbound := x.inbound.drop n }).settleInbound d

/-- Writes a CSR that may be written; reserved fields keep reading zero (R5). -/
def State.writeCsr (s : State) (c : Nat) (v : Word) : State :=
  let d := dieOf s.cur
  match c with
  | 0x001 => s.modMe fun sl => { sl with frm := keep v 3 }
  | 0x002 => s.modMe fun sl => { sl with fflags := keep v 63 }
  | 0x003 => s.modMe fun sl => { sl with tfrm := keep v 3 }
  | 0x020 => s.modMe fun sl => { sl with tcause := v }
  | 0x021 => s.modMe fun sl => { sl with tip := v }
  | 0x022 => s.modMe fun sl => { sl with taddr := v }
  | 0x023 => s.modMe fun sl => { sl with thand := v }
  | 0x024 => s.modMe fun sl => { sl with tinfo := v }
  | 0x100 => s.modMe fun sl => { sl with rasid := keep v 0xFFF }
  | 0x101 => s.modSelected fun a => { a with root := keep v 0x80003FFFFFFFE000 }
  | 0x103 => s.modMe fun sl => { sl with agsel := keep v 0xFF00F }
  | 0x104 => s.modSelected fun a => { a with
      masks := Tab.set a.masks (bits s.me.agsel 19 12) (maskWith (a.mask (bits s.me.agsel 19 12)) (bits s.me.agsel 3 0) v) }
  | 0x110 => s.modMe fun sl => { sl with qsel := keep v 0xFF }
  | 0x111 => s.modSubQ (bits s.me.qsel 7 0) fun q => q.configure v
  | 0x118 => s.modDie d fun x => { x with rqbase := keep v 0x3FFFFFFFF00F }
  | 0x119 => s.readUpTo d (bits v 31 0)
  | c =>
    if 0x108 ≤ c ∧ c ≤ 0x10F then
      s.modSelected fun a => { a with grants := Tab.set a.grants (c - 0x108) (keep v 0xFFFFFFFF3FFFFFFF) }
    else if 0x120 ≤ c ∧ c ≤ 0x12B then { s with lowmark := Tab.set s.lowmark (c - 0x120) (bits v 31 0) }
    else s.writeDeviceCsr c v

/-- The tests of a CSR instruction in the order of R67, up to its ports: its value. -/
def State.csrAccess (s : State) (d c : Nat) (write : Bool) : Except Stop Word :=
  if 51 ≤ d ∧ d ≤ 55 then .error (s.illegal 2)
  else if 0xFFF < c then .error (s.illegal 3)
  else if 0x100 ≤ c ∧ !isRidgeCore s.myCore then .error (trapAt 0x03 0 0)
  else
    match s.readCsr c with
    | none => .error (s.illegal 4)
    | some v => if write && !csrWritable c then .error (s.illegal 4) else .ok v

def execCsrr (d csr : Nat) (s : State) : Outcome State Fault Refusal :=
  conclude s do
    let v ← s.csrAccess d csr false
    let (_, s') ← s.operands [] (some d)
    .ok (s'.writeX d v)

/-- A CSR that every die applies (R425): all of the ridge's but the selectors of the slot. -/
def csrDeviceWide (c : Nat) : Bool := decide (0x100 ≤ c) && !(c ∈ [0x100, 0x103, 0x110])

/-- What csrw (0), csrs (1) or csrc (2) makes of a CSR's value and X(d). -/
def csrResult (op : Nat) (c v : Word) : Word := match op with | 0 => v | 1 => c ||| v | _ => c &&& ~~~v

/-- Writes a CSR with what an instruction makes of its value and `v`. -/
def State.applyCsr (s : State) (op csr : Nat) (v : Word) : State := s.writeCsr csr (csrResult op ((s.readCsr csr).getD 0) v)

/-- A write to a CSR: at once, or, where it is device-wide, once every die applies it (R425). DEDUCED (notes/assumptions/50.md). -/
def csrUpdate (s : State) (d csr op : Nat) : Outcome State Fault Refusal :=
  conclude s do
    let _ ← s.csrAccess d csr true
    let (vs, s') ← s.operands [d] none
    if csrDeviceWide csr then
      let (id, s') := s'.fresh
      let s' : State := { s' with csrWrites := s'.csrWrites ++ [{ slot := s.cur, id := id, issued := s.cycle }] }
      .error (s'.await s [d] none { id := id, len := 0, finish := .csr op csr (vs.getD 0 0), left := 1 })
    else .ok (s'.applyCsr op csr (vs.getD 0 0))

def execCsrw (d csr : Nat) (s : State) : Outcome State Fault Refusal := csrUpdate s d csr 0
/-- DEDUCED (notes/assumptions/51.md). -/
def execCsrs (d csr : Nat) (s : State) : Outcome State Fault Refusal := csrUpdate s d csr 1
/-- DEDUCED (notes/assumptions/51.md). -/
def execCsrc (d csr : Nat) (s : State) : Outcome State Fault Refusal := csrUpdate s d csr 2

/-! ## Software traps (R414, R415) -/

def execTrap (code : Nat) (s : State) : Outcome State Fault Refusal := conclude s (.error (trapAt 0x12 0 (code % 256)))

def execTret (s : State) : Outcome State Fault Refusal :=
  conclude s (
    if !isRidgeCore s.myCore then .error (trapAt 0x03 0 0)
    else if bit s.me.tip 0 then .error (trapAt 0x05 s.me.tip 0)
    else .error (.done ((s.jump s.me.tip).modMe fun sl => { sl with tcause := keep sl.tcause (2 ^ 63 - 1) })))

/-! ## Privilege (R64) and the operands of the other instructions (R411) -/

/-- Operands of an instruction that only a ridge slot may issue: reserved registers, privilege, ports. -/
def State.ridgeOperands (s : State) (reads : List Nat) : Except Stop (List Word × State) :=
  if reads.any fun n => 51 ≤ n && n ≤ 55 then .error (s.illegal 2)
  else if !isRidgeCore s.myCore then .error (trapAt 0x03 0 0)
  else s.operandsNP reads none

/-! ## Translation and keys (R416 to R418) -/

/-- The issuing slot waits until every access of an ASID, or of a range of it, that is under way now has ended (R227). -/
def State.awaitOlder (s before : State) (reads : List Nat) (asid : Nat) (range : Option (Nat × Nat)) : Stop :=
  let (id, s) := s.fresh
  let x : TlbOp := { slot := s.cur, asid := asid, bound := id, range := range }
  { s with tlbOps := s.tlbOps ++ [x] }.await before reads none
    { id := id, len := 0, finish := .none, left := 1 }

def execTlbGen (a : Nat) (s : State) : Outcome State Fault Refusal :=
  conclude s do
    let (vs, s') ← s.ridgeOperands [a]
    let x := vs.getD 0 0
    if bits x 63 12 ≠ 0 then .error (s.illegal 3)
    else .error ((s'.raiseGen x.toNat).awaitOlder s [a] x.toNat none)

/-- Removes the TLB entries of an ASID that overlap a range (R417). -/
def State.dropEntries (s : State) (asid lo n : Nat) : State :=
  let keeps (e : TlbEntry) : Bool := !(e.asid == asid && decide (e.va < lo + n) && decide (lo < e.va + e.size))
  { s with
    cores := s.cores.each fun _ c => { c with tlb := c.tlb.filter keeps }
    clusters := s.clusters.each fun _ c => { c with tlb := c.tlb.filter keeps } }

/-- DEDUCED (notes/assumptions/39.md). -/
def execTlbInv (a b : Nat) (s : State) : Outcome State Fault Refusal :=
  conclude s do
    let (vs, s') ← s.ridgeOperands [a, b]
    let lo := (vs.getD 0 0).toNat
    let n := (vs.getD 1 0).toNat
    let asid := bits s.me.rasid 11 0
    if n = 0 then .ok s'
    else if 2 ^ 49 < lo + n then .error (s.illegal 3)
    else .error ((s'.dropEntries asid lo n).awaitOlder s [a, b] asid (some (lo, n)))

/-- Loads a key slot; 64 zero bytes unload it (R418). -/
def State.setKey (s : State) (k : Nat) (key : List Byte) : State :=
  { s with keys := if key = List.replicate 64 0 then Tab.del s.keys k else Tab.set s.keys k key }

/-- DEDUCED (notes/assumptions/31.md). DEDUCED (notes/assumptions/53.md). -/
def execKeySet (a b : Nat) (s : State) : Outcome State Fault Refusal :=
  conclude s do
    let (vs, s') ← s.ridgeOperands [a, b]
    if 1024 ≤ (vs.getD 0 0).toNat then .error (s.illegal 3)
    else do
      let k := (vs.getD 0 0).toNat
      let (cs, es) ← s'.check (s'.accessor s.cur) (vs.getD 1 0) 64 64 .load
      s'.loadThen s [a, b] none cs es .cached (.key k) fun bs t => .ok (t.setKey k bs)

/-! ## Control of slots (R419) -/

/-- The unit of the slot may go on: it has not halted, trapped or been cancelled, since it can then only end (R155), and its thread is
not on its way to another slot (R179). DEDUCED (notes/assumptions/109.md). -/
def State.mayRun (s : State) (g : Nat) : Bool :=
  (match (s.slot g).unit with | some u => u.how == 0 | none => true) && s.migrations.all (·.origin != g)

/-- A request of slot.ctl reaches its target. -/
def State.control (s : State) (op : SlotOp) (g : Nat) : State :=
  let sl := s.slot g
  match op with
  | .stop => s.setSlot g sl.stop
  | .run =>
    if sl.status = .stopped ∧ s.mayRun g then s.setSlot g { sl with status := .running, dropFlag := false, held := false, blocks := [] } else s
  | .kill =>
    match sl.unit with
    | none => s.setSlot g sl.stop
    | some u => (s.setSlot g sl.cancelUnit).modLaunch u.launch fun l => { l with cancelled := l.cancelled || l.status == 0 }

def execSlotCtl (op : SlotOp) (a : Nat) (s : State) : Outcome State Fault Refusal :=
  conclude s do
    let (vs, s') ← s.ridgeOperands [a]
    let x := vs.getD 0 0
    if Config.firstRidgeSlot ≤ x.toNat then .error (s.illegal 3)
    else
      let t := (s'.control op x.toNat).sweepLeases
      if targetReady (t.slot x.toNat) op then .ok t
      else .error (.wait (.target x.toNat op) (t.pend s [a] none { id := 0, len := 0, finish := .none, left := 1 }))

/-! ## Save and load of slots (R420) -/

/-- The bindings field of a port. -/
def Port.field : Port → Nat
  | .unbound => 0
  | .pop _ e => 1 * 2 ^ 56 + e
  | .push _ e => 2 * 2 ^ 56 + e
  | .gen n => 3 * 2 ^ 56 + n
  | .lentRef _ _ e g => 4 * 2 ^ 56 + (match g with | some n => n | none => e)
  | .lentTopk _ _ e g => 5 * 2 ^ 56 + (match g with | some n => n | none => e)

/-- The lease field of a slot. -/
def Slot.leaseField (sl : Slot) : Nat :=
  (match sl.lease with | some (b, w) => 1 + b * 2 + w * 8 | none => 0) +
  (match sl.scaleA with | some n => 128 + n * 256 | none => 0) + (match sl.scaleB with | some n => 2048 + n * 4096 | none => 0)

/-- The repeat field of a slot. -/
def repeatBytes (r : Option Repeat) : List Byte :=
  match r with
  | none => bytesLe 32 0
  | some r => bytesLe 8 r.start.toNat ++ bytesLe 8 r.stop.toNat ++ bytesLe 8 r.remaining.toNat ++
      bytesLe 8 (r.len - 1 + r.mode * 256 + 65536)

/-- The 1,024 bytes that slot.sv writes, with the state code of bits 1:0. -/
def slotBytes (sl : Slot) (l : Launch) (code : Nat) : List Byte :=
  bytesLe 8 sl.pc.toNat ++ bytesLe 8 (code + ofBool sl.dropFlag * 4) ++ (sl.regs.toList.flatMap fun w => bytesLe 8 w.toNat) ++
  ([sl.frm, sl.fflags, sl.tfrm, sl.tcause, sl.tip, sl.taddr, sl.thand, sl.tinfo].flatMap fun w => bytesLe 8 w.toNat) ++
  bytesLe 8 sl.asid.toNat ++ bytesLe 8 sl.stackBase ++ bytesLe 8 sl.stackSize ++
  bytesLe 2 sl.ld ++ bytesLe 2 sl.st ++ bytesLe 2 sl.cp ++ bytesLe 2 sl.tb ++
  (sl.tvec.toList.flatMap fun w => bytesLe 8 w.toNat) ++ (sl.ports.toList.flatMap fun p => bytesLe 8 p.field) ++
  repeatBytes sl.rep ++ bytesLe 4 l.graph ++ bytesLe 2 l.tag ++ bytesLe 2 l.phase ++ bytesLe 2 l.queue ++ bytesLe 6 0 ++
  bytesLe 8 sl.leaseField ++ bytesLe 8 sl.copySeq ++ bytesLe 8 sl.batch ++ bytesLe 8 sl.probeSeq ++ bytesLe 8 sl.tileSeq ++ bytesLe 168 0

/-- DEDUCED (notes/assumptions/53.md). -/
def execSlotSv (a b : Nat) (s : State) : Outcome State Fault Refusal :=
  conclude s do
    let (vs, s') ← s.ridgeOperands [a, b]
    let g := (vs.getD 1 0).toNat
    if Config.firstRidgeSlot ≤ g ∨ (s.slot g).status ≠ .stopped then .error (s.illegal 3)
    else do
      let (cs, es) ← s'.check (s'.accessor s.cur) (vs.getD 0 0) 1024 64 .store
      (s'.installAll s.myCore es).storeRecord s [a, b] cs (slotBytes (s.slot g) (s.launch (s.slot g).launch) 3)

/-- Whether a lent port brings elements in: not where its queue entry takes them from the unit's stage. The record does not tell.
DESIGN CHOICE (notes/assumptions/54.md). -/
def lentInput (la : Option Launch) (stage p n : Nat) : Bool :=
  match la.bind fun l => l.kernel.queues[n]? with
  | some q => !(q.from_ == stage && (q.fromPort == p || q.to_ != stage))
  | none => true

/-- The binding that a record's field gives port `p` on a core, for a unit of a stage of a launch; none where it is out of range. -/
def bindingOf (s : State) (la : Option Launch) (stage core p : Nat) (w : Nat) : Option Port :=
  let n := w % 65536
  let q := la.bind fun l => l.queueIds[n]?
  let input := lentInput la stage p n
  if w / 65536 % 2 ^ 40 ≠ 0 then none
  else
    match w / 2 ^ 56 with
    | 0 => if n = 0 then some .unbound else none
    | 1 => q.map fun q => .pop q n
    | 2 => q.map fun q => .push q n
    | 3 => if n < 16 then some (.gen n) else none
    | 4 => (q.map fun q => Port.lentRef input q n none).orElse fun _ =>
        if n < 16 ∧ (Tab.get? (s.core core).gens n).isSome then some (.lentRef true 0 0 (some n)) else none
    | 5 => (q.map fun q => Port.lentTopk input q n none).orElse fun _ =>
        if n < 16 ∧ (Tab.get? (s.core core).gens n).isSome then some (.lentTopk true 0 0 (some n)) else none
    | _ => none

/-- All elements of a list, where each is there. -/
def allSome {α : Type} : List (Option α) → Option (List α)
  | [] => some []
  | none :: _ => none
  | some x :: r => (allSome r).map (x :: ·)

/-- Words of a record, `n` from an offset on. -/
def recordWords (bs : List Byte) (off n : Nat) : List Word := (List.range n).map fun i => word (fieldLe bs (off + 8 * i) 8)

/-- The launch that a record names: of the job whose ASID it holds. -/
def State.launchNamed (s : State) (bs : List Byte) : Option (Nat × Launch) :=
  s.launches.find? fun e => e.2.asid == fieldLe bs 480 2 % 4096 && e.2.graph == fieldLe bs 800 4 && e.2.tag == fieldLe bs 804 2 &&
    e.2.phase == fieldLe bs 806 2 && e.2.queue == fieldLe bs 808 2 && e.2.status == 0

/-- A code address that a record gives: bit 0 is not held, as in PC (R15). DESIGN CHOICE (notes/assumptions/54.md). -/
def codeAddress (w : Word) : Word := w &&& ~~~1

/-- The stage that the unit of a record runs stands in no field of it: it is a free value. DESIGN CHOICE
(notes/assumptions/54.md). -/
def State.freeStage (s : State) (la : Launch) : Nat := (s.free 0).toNat % Nat.max 1 la.kernel.stages.length

/-- The slot that a record describes, on a core (R420). -/
def State.slotOf (s : State) (core : Nat) (bs : List Byte) : Option Slot := do
  let f (o n : Nat) : Nat := fieldLe bs o n
  let found := s.launchNamed bs
  let stage := match found with | some (_, la) => s.freeStage la | none => 0
  let ports ← allSome ((List.range 8).map fun i => bindingOf s (found.map (·.2)) stage core (56 + i) (f (704 + 8 * i) 8))
  let reserved := f 8 8 / 8 ≠ 0 ∨ f 810 6 ≠ 0 ∨ f 856 168 ≠ 0 ∨ f 816 8 / 2 ^ 15 ≠ 0 ∨ f 792 8 / 2 ^ 17 ≠ 0 ∨
    f 792 8 / 8 % 32 ≠ 0 ∨ f 792 8 / 1024 % 64 ≠ 0
  if reserved ∨ f 0 8 % 2 = 1 ∨ f 504 2 ≠ 0 ∨ f 506 2 ≠ 0 then none
  else
    let regs := recordWords bs 16 50
    let tv := recordWords bs 512 24
    let csr (i : Nat) : Word := word (f (416 + 8 * i) 8)
    let lease := f 816 8
    let sl : Slot := {
      status := .stopped, pc := word (f 0 8), dropFlag := f 8 8 / 4 % 2 = 1
      regs := Vector.ofFn fun i => regs.getD i.val 0
      frm := keep (csr 0) 3, fflags := keep (csr 1) 63, tfrm := keep (csr 2) 3, tcause := csr 3, tip := csr 4, taddr := csr 5
      thand := csr 6, tinfo := csr 7, asid := keep (word (f 480 8)) 0xFFFFFFF, stackBase := f 488 8, stackSize := f 496 8
      cp := f 508 2, tb := f 510 2
      tvec := Vector.ofFn fun i => codeAddress (tv.getD i.val 0)
      ports := Vector.ofFn fun i => ports.getD i.val .unbound
      lease := if lease % 2 = 1 then some (lease / 2 % 4, lease / 8 % 16) else none
      scaleA := if lease / 128 % 2 = 1 then some (lease / 256 % 8) else none
      scaleB := if lease / 2048 % 2 = 1 then some (lease / 4096 % 8) else none
      copySeq := f 824 8, batch := f 832 8, probeSeq := f 840 8, tileSeq := f 848 8 }
    match found with
    | none => some sl
    | some (l, la) =>
      let st := la.stage stage
      some { sl with
        regBound := st.regs, scratchBound := st.scratch, barrierBound := la.kernel.barriers, ringBound := la.kernel.rings
        unit := some { launch := l, stage := stage, uid := s.nextId, root := s.nextId, parent := none, kind := .stage } }

/-- The repeat buffer of a record: its body is read again (R420). -/
def State.repeatOf (s : State) (g : Nat) (bs : List Byte) : Option Repeat :=
  let w := fieldLe bs 792 8
  if w / 65536 % 2 = 0 then none
  else
    let start := codeAddress (word (fieldLe bs 768 8))
    match s.bodyFrom g (w % 8 + 1) start with
    | .ok (body, _) => some { start := start, stop := codeAddress (word (fieldLe bs 776 8)), len := w % 8 + 1, remaining := word (fieldLe bs 784 8)
                              unbounded := w / 256 % 4 == 2, mode := w / 256 % 4, body := body }
    | .error _ => none

/-- A slot that is loaded with a lease holds the bank again (R308, R420). DESIGN CHOICE (notes/assumptions/54.md). -/
def State.holdLease (s : State) (g : Nat) : State :=
  match (s.slot g).lease with
  | some (b, w) => s.modBank (clusterOf (coreOf g)) b fun k => { k with holder := some g, weight := w, lastLaunch := some (s.slot g).launch }
  | none => s

/-- The record of a slot has been read: it goes into the slot, which has to be empty still (R420). -/
def State.loadSlot (s : State) (g : Nat) (bs : List Byte) : Run :=
  match if (s.slot g).status = .empty then s.slotOf (coreOf g) bs else none with
  | none => .error (s.illegal 3)
  | some sl =>
    let t := { s with nextId := s.nextId + 1 }.setSlot g sl
    .ok ((t.setSlot g { sl with rep := t.repeatOf g bs, releases := (s.slot g).releases }).holdLease g)

/-- DESIGN CHOICE (notes/assumptions/54.md). -/
def execSlotLd (a b : Nat) (s : State) : Outcome State Fault Refusal :=
  conclude s do
    let (vs, s') ← s.ridgeOperands [a, b]
    let g := (vs.getD 1 0).toNat
    if Config.firstRidgeSlot ≤ g ∨ (s.slot g).status ≠ .empty then .error (s.illegal 3)
    else do
      let (cs, es) ← s'.check (s'.accessor s.cur) (vs.getD 0 0) 1024 64 .load
      s'.loadThen s [a, b] none cs es .cached (.slotLoad g) fun bs t => t.loadSlot g bs

/-! ## Promotion, posts, wakes (R421 to R424) -/

def execPromAll (a : Nat) (s : State) : Outcome State Fault Refusal :=
  conclude s do
    let (vs, s') ← s.ridgeOperands [a]
    let x := vs.getD 0 0
    if !(x == wordOfInt (-1) || decide (x.toNat ≤ 767)) then .error (s.illegal 3)
    else
      let ts := if x = wordOfInt (-1) then List.range Config.cores else [x.toNat]
      .error ((s'.promote ts none).await s [a] none { id := 0, len := 0, finish := .none, left := ts.length })

/-- The 48 bytes are read as a plain load reads, while the slot goes on; the entry stands among those that wait for the inbound queue
from the issue on, so that the slot's entries keep their order (R422). DEDUCED (notes/assumptions/55.md). -/
def execPost (a : Nat) (s : State) : Outcome State Fault Refusal :=
  conclude s do
    let (vs, s') ← s.operandsNP [a] none
    let (cs, es) ← s'.check (s'.accessor s.cur) (vs.getD 0 0) 48 0 .load
    let s' := s'.installAll s.myCore es
    match s'.lostPiece s.myCore s.cur (piecesOf cs) with
    | some t => .error (trapAt 0x11 t 0)
    | none =>
      if 65535 ≤ s.me.st then .error (.park (.counterLimit 1))
      else
        let (id, s') := s'.fresh
        let (parts, s') := (s'.raiseOp s.cur id 1 0).readLater s.cur id (piecesOf cs)
        let e : Inbound := { source := s.cur, kind := 1, flags := 0, asid := s.me.asidNo, body := [], job := (s.launch s.me.launch).job
                             op := some { slot := s.cur, uid := s.me.uid, id := id, poa := poaDevice }, reads := some id }
        let s' : State := { s' with sendings := s'.sendings ++ [{ id := id, slot := s.cur, uid := s.me.uid, parts := parts }] }
        .ok (s'.inboundEntry (dieOf s.cur) e)

/-- The body of a post has been read: its entry is written as soon as it can be (R422, R423). -/
def State.postLeaves (s : State) (x : Sending) (body : List Byte) : State :=
  let d := dieOf x.slot
  (s.modDie d fun y => { y with inWaiting := y.inWaiting.map fun e => if e.reads = some x.id then { e with body := body, reads := none } else e }).settleInbound d

/-- The lowest byte that the last fault report of a slot names, and whether it was a fetch (R392). -/
def Slot.droppedAt (sl : Slot) : Word × Bool := (word (sl.dropPieces.foldl Nat.min (sl.dropPieces.getD 0 0)), sl.dropFetch)

def execWake (a : Nat) (s : State) : Outcome State Fault Refusal :=
  conclude s do
    let (vs, s') ← s.ridgeOperands [a]
    let x := vs.getD 0 0
    let g := bits x 13 0
    if bits x 59 48 ≠ 0 ∨ bits x 15 14 ≠ 0 ∨ 5 ≤ bits x 62 60 ∨ Config.firstRidgeSlot ≤ g then .error (s.illegal 3)
    else
      let (p, f) := (s.slot g).droppedAt
      .ok { s' with wakes := s'.wakes ++ [{ slot := g, seq := bits x 47 16, reject := if bit x 63 then some (bits x 62 60, p, f) else none, by_ := some s.cur }] }

end Sys2Proof.Machine
end

