-- ==== Sys2Proof/Machine/Finish.lean ====
section
/-! DEFINITION. How an instruction that waits for its own data ends (R151 to R153), and where replies go: to a waiting
instruction, to an asynchronous load (R274), to a message or a post whose body is being read (R191, R423). -/

namespace Sys2Proof.Machine

open Host

/-! ## Replies for the parts of an access -/

/-- The part has been answered. -/
def Part.answered (p : Part) : Bool := p.bytes.isSome || p.failed.isSome

/-- A part takes a reply. -/
def Part.take (p : Part) (r : Reply) : Part :=
  if p.off = r.off ∧ !p.answered then { p with bytes := some r.bytes, failed := r.failed } else p

/-- The bytes of all parts. -/
def bytesOf (ps : List Part) : List Byte := ps.flatMap fun p => p.bytes.getD []

/-- The trap of the lowest part whose reply was a fault: of an uncorrectable error with the address of the sector (R399), of
another fault with that of the byte. -/
def failureOf (ps : List Part) : Option Trap :=
  ps.findSome? fun p => p.failed.map fun (cause, i, tinfo) =>
    let a := p.a + word i
    { cause := cause, taddr := if cause = 0x11 then word (a.toNat / 32 * 32) else a, tinfo := tinfo }

/-! ## What is left to do once the data is there -/

/-- A no-return atomic that has passed the test at its port goes to be performed (R314). -/
def State.acceptAmo (s : State) (g id : Nat) (op : AmoOp) (t : AType) (pa poa : Nat) (b : Word) : State :=
  (s.modCore (coreOf g) fun c => c.forget pa (atypeBytes t)).sendWrite (coreOf g) poa (.atomic op t pa b none)
    [{ slot := g, uid := (s.slot g).uid, id := id, poa := poa }] g none true

/-- The number of a store that was counted as it issued and ends without effect. -/
def Pending.counted (p : Pending) : Option Nat :=
  match p.finish with
  | .store _ | .amo _ _ _ _ _ => some p.id
  | _ => none

/-- The fetch block at `va` is there (R404): a sector with an uncorrectable error is noted, and another fault of its read is that of
the fetch, at the first byte of the failed sector. DESIGN CHOICE (notes/assumptions/118.md). -/
def State.holdBlock (s : State) (va : Nat) (ps : List Part) : Run :=
  let lost (p : Part) : Bool := match p.failed with | some (0x11, _, _) => true | _ => false
  match failureOf (ps.filter fun p => !lost p) with
  | some t => .error (.trap { t with tinfo := t.tinfo + 1 })
  | none =>
    let block : Block := { va := va, bytes := ps.flatMap fun p => if lost p then List.replicate p.n 0 else p.bytes.getD []
                           bad := (ps.filter lost).map fun p => p.off / 32 }
    .error (.done (s.modMe fun sl => { sl.complete with blocks := block :: sl.blocks }))

/-- What the instruction of slot `s.cur` does with the bytes of its access. -/
def State.finishWith (s : State) (id : Nat) (bs : List Byte) (f : Finish) : Run :=
  match f with
  | .load z d => .ok (s.writeX d (extend z (numLe bs)))
  | .group d n => .ok (s.modMe (·.setXs d (groupWords n bs)))
  | .acquire z sc d => .ok ((s.acquire s.myCore sc).writeX d (extend z (numLe bs)))
  | .prom a z d => s.promLoad s [] a z d
  | .word d => .ok (s.writeX d (word (numLe bs)))
  | .atomic t d => .ok (s.writeX d (amoOld t (numLe bs)))
  | .row cl b r => .ok (s.writeRow cl b r bs)
  | .store parts => .ok (s.acceptTested s.cur id parts)
  | .amo op t pa poa b => .ok (s.acceptAmo s.cur id op t pa poa b)
  | .spawn i d => .error (s.reserveSpawn s [] i d bs)
  | .spawned i d op => .ok (s.spawnReplied i d op (word (numLe bs)))
  | .slotLoad g => s.loadSlot g bs
  | .record => s.loadResidue bs
  | .rsav a => s.saveResidue a
  | .rlod a => s.readResidue a
  | .key k => .ok (s.setKey k bs)
  | .csr op csr x => .ok (s.applyCsr op csr x)
  | .fetch _ | .none => .ok s

/-- The waiting instruction of slot `g` goes on with what has come for it, or ends in the fault of a store of its own that a port has
refused (R314). -/
def State.finish (s : State) (g : Nat) : State :=
  match (s.slot g).pending with
  | none => s
  | some p =>
    match (s.slot g).late with
    | some (a, ring) => (s.modSlot g fun sl => { sl with late := none }).resume g fun _ => .error (.trap { cause := 0x0B, taddr := a, tinfo := ring })
    | none =>
      match p.finish, failureOf p.parts with
      | .fetch va, _ => s.resume g fun t => t.holdBlock va p.parts
      | _, some f => (match p.counted with | some id => s.dropOp g id | none => s).resume g fun _ => .error (.trap f)
      | k, none => s.resume g fun t => t.finishWith p.id (bytesOf p.parts) k

/-- Nothing is missing for the waiting instruction of slot `g`: it goes on. -/
def State.finishDone (s : State) (g : Nat) : State :=
  match (s.slot g).pending, (s.slot g).status with
  | some p, .parked .own => if p.left = 0 && p.parts.all Part.answered then s.finish g else s
  | _, _ => s

/-- One of the replies without data that the instruction of slot `g` waits for has come. -/
def State.oneLess (s : State) (g : Nat) : State :=
  (s.modSlot g fun sl => { sl with pending := sl.pending.map fun p => { p with left := p.left - 1 } }).finishDone g

/-! ## Where a reply goes -/

/-- An asynchronous load, `step` or `home` takes a reply (R274): when it is complete LD falls, and x(d) is written unless the
slot has written it. -/
def Slot.takeLoad (sl : Slot) (r : Reply) : Slot :=
  match sl.outstanding.find? (·.id == r.id) with
  | none => sl
  | some o =>
    let o : Outstanding := { o with parts := o.parts.map fun p => p.take r }
    if o.parts.all Part.answered then
      let sl := { sl with ld := sl.ld - 1, outstanding := sl.outstanding.filter (·.id != r.id) }
      if o.live then sl.setX o.d (extend o.z (numLe (bytesOf o.parts))) else sl
    else { sl with outstanding := sl.outstanding.map fun x => if x.id = r.id then o else x }

/-- A message or a post whose body has been read leaves (R191, R423); the stores that were held back for it follow. -/
def State.sendBody (s : State) (x : Sending) : State :=
  let s := s.unhold (coreOf x.slot) (.body x.id)
  let body := bytesOf x.parts
  match x.mail with
  | some m => s.mailLeaves m body
  | none => s.postLeaves x body

/-- The reading of a body takes a reply. -/
def State.takeBody (s : State) (r : Reply) : State :=
  match s.sendings.find? (·.id == r.id) with
  | none => s
  | some x =>
    let x : Sending := { x with parts := x.parts.map fun p => p.take r }
    if x.parts.all Part.answered then ({ s with sendings := s.sendings.filter (·.id != r.id) }).sendBody x
    else { s with sendings := s.sendings.map fun y => if y.id = r.id then x else y }

/-- The waiting instruction of a slot takes a reply. -/
def Slot.takePending (sl : Slot) (r : Reply) : Slot :=
  { sl with pending := sl.pending.map fun p => if p.id = r.id then { p with parts := p.parts.map fun q => q.take r } else p }

/-- A reply reaches its slot, or the reading of a body that its slot has left behind. -/
def State.deliverReply (s : State) (r : Reply) : State :=
  let s := s.takeBody r
  if (s.slot r.slot).uid = r.uid then
    let mine := match (s.slot r.slot).pending with | some p => p.id == r.id | none => false
    let s := s.modSlot r.slot fun sl => (sl.takeLoad r).takePending r
    let s := if mine then s.finishDone r.slot else s
    s.settle (coreOf r.slot)
  else s

end Sys2Proof.Machine
end

