-- ==== Sys2Proof/Machine/Place.lean ====
section
/-! DEFINITION. Launch records and kernel images (R79 to R82, R157, R159), where the stages of a launch are placed (R160 to
R165, R194, R354, R475), and the start of a unit (R28, R164). -/

namespace Sys2Proof.Machine

/-! ## Reading an image -/

/-- A stage record (R80) with its token table (R82); none where a count or an offset is out of its limits (R159). Reserved bits and
bytes of the record and of its token entries are not looked at, an entry may lie anywhere in the image, and a token entry with a port
or a level out of range makes the header invalid. DESIGN CHOICE (notes/assumptions/98.md). An odd entry or
handler offset is no offset of an instruction (R15). DEDUCED (notes/assumptions/98.md). -/
def stageOf (img : Nat → Nat → Nat) (size i : Nat) : Option Stage :=
  let f (o n : Nat) : Nat := img (64 + 32 * i + o) n
  let nt := f 11 1
  let table := f 12 4
  let tokens := (List.range nt).map fun k =>
    let o := table + 8 * k
    (img o 1, img (o + 1) 1, img (o + 4) 4)
  let flags := f 10 1
  let code (o : Nat) : Bool := decide (o < size) && o % 2 == 0
  if code (f 0 4) && decide (f 4 4 ≤ 262144) && decide (1 ≤ f 8 1) && decide (f 8 1 ≤ 48) && decide (nt ≤ 24) &&
      decide (flags / 2 % 8 < 4) && (if nt = 0 then table == 0 else decide (table + 8 * nt ≤ size)) &&
      (tokens.all fun t => decide (56 ≤ t.1) && decide (t.1 ≤ 63) && decide (1 ≤ t.2.1) && decide (t.2.1 ≤ 3) && code t.2.2) then
    some { entry := f 0 4, scratch := f 4 4, regs := f 8 1, replicas := f 9 1, ordered := flags % 2 == 1, hint := flags / 2 % 8
           tokens := tokens }
  else none

/-- A queue table entry (R81, R163, R168). A depth outside the limits of its kind, a kind above 1, a port outside 60 to
63 or a stage that is not there makes the header invalid; reserved bytes are not looked at. DESIGN CHOICE (notes/assumptions/98.md). -/
def queueOf (img : Nat → Nat → Nat) (table : Nat) (stages : List Stage) (i : Nat) : Option QEntry :=
  let f (o n : Nat) : Nat := img (table + 16 * i + o) n
  let q : QEntry := { depth := f 0 4, ring := f 4 1 == 1, from_ := f 5 1, fromPort := f 6 1, to_ := f 7 1, toPort := f 8 1 }
  let port (p : Nat) : Bool := decide (60 ≤ p) && decide (p ≤ 63)
  let depthOk := if q.ring then (List.range 13).any fun k => q.depth == 2 ^ (k + 4) else decide (1 ≤ q.depth) && decide (q.depth ≤ 8)
  let replicable (k : Nat) : Bool := match stages[k]? with | some st => st.replicas != 0 | none => false
  if decide (f 4 1 ≤ 1) && depthOk && port q.fromPort && port q.toPort && decide (q.from_ < stages.length) &&
      decide (q.to_ < stages.length) && (q.ring || !(replicable q.from_ || replicable q.to_)) then some q else none

/-- Every entry of a list, where all are there. -/
def everyOne {α : Type} (l : List (Option α)) : Option (List α) :=
  l.foldr (fun x r => match x, r with | some x, some r => some (x :: r) | _, _ => none) (some [])

/-- The kernel of an image whose bytes are read by `img` (R79); none where the header is not valid. -/
def kernelOf (img : Nat → Nat → Nat) : Option Kernel := do
  let size := img 20 4
  let n := img 6 1
  let nq := img 10 2
  let table := img 12 4
  let ok := img 0 4 == 0x484B4E58 && img 4 2 == 1 && decide (1 ≤ n) && decide (n ≤ 16) && decide (img 7 1 ≤ 64) &&
    decide (img 8 1 ≤ 8) && decide (64 + 32 * n ≤ size) && (if nq = 0 then table == 0 else decide (table + 16 * nq ≤ size)) && decide (img 16 4 < size)
  let stages ← if ok then everyOne ((List.range n).map (stageOf img size)) else none
  let queues ← everyOne ((List.range nq).map (queueOf img table stages))
  some { stages := stages, queues := queues, barriers := img 7 1, rings := img 8 1, handler := img 16 4, size := size }

/-- The pages of a range: an address in each block of 64 KiB. -/
def blocksOf (va n : Nat) : List Nat :=
  if n = 0 then [] else (List.range ((va + n - 1) / 65536 - va / 65536 + 1)).map fun i => Nat.max va ((va / 65536 + i) * 65536)

/-- A page of an image that lacks R or X, or carries W (R18). -/
def State.badCode (s : State) (asid va : Nat) : Bool :=
  match s.walk asid va with
  | some (_, w) => !(leafR w && leafX w && !leafW w)
  | none => true

/-- The first block of a range that the ridge has to bring, with the state after it was asked for. -/
def State.bring (s : State) (asid : Nat) : List Nat → Option State
  | [] => none
  | va :: r => match s.serveVa asid va with | .wait s' => some s' | _ => s.bring asid r

/-! ## Taking a record (R157, R159) -/

/-- The reasons of R159 that a record and its image give, but for reason 1. DEDUCED (notes/assumptions/40.md). -/
def State.recordFaults (s : State) (job : Nat) (b : List Byte) (k : Option Kernel) (asid image : Nat) : List Nat :=
  let f (o n : Nat) : Nat := fieldLe b o n
  let graph := Tab.get? s.graphs (graphKey job (f 8 4))
  let twin := s.launches.any fun e => e.2.job == job && e.2.graph == f 8 4 && e.2.tag == f 12 2
  let size := match k with | some k => k.size | none => 64
  (if k.isNone then [2] else []) ++ (if 4 < f 24 1 then [3] else []) ++ (if f 12 2 = 0xFFFF ∨ twin then [4] else []) ++
  (if image % 64 ≠ 0 then [5] else []) ++ (if 4 ≤ f 25 1 ∨ f 28 4 ≠ 0 then [6] else []) ++
  (if (blocksOf image size).any (s.badCode asid) then [7] else []) ++
  (if match graph with | some g => g.phase != f 14 2 | none => false then [8] else [])

/-- The ridge takes the first record handed over in a queue; first it brings the pages of the image.
DEDUCED (notes/assumptions/40.md). -/
def State.takeRecord (s : State) (qn : Nat) : Option State :=
  let q := s.subQ qn
  match q.records with
  | [] => none
  | b :: rest =>
    if s.recordCancelled q.job b then some ((s.modSubQ qn fun q => { q with records := rest }).cancelRecord qn b)
    else
    let image := fieldLe b 0 8
    let img := s.imageNat q.asid image
    match s.bring q.asid (blocksOf image (Nat.max 64 (img 20 4))) with
    | some s' => if s' = s then none else some s'
    | none =>
      let k := kernelOf img
      let l := launchOf q qn b k (s.recordFaults q.job b k q.asid image)
      let (id, s) := s.fresh
      let s := (s.enroll l.job l.graph l.phase).closeGroups l.job l.graph l.phase (fieldLe b 25 1)
      let s := { s with launches := Tab.set s.launches id l }
      some (s.modSubQ qn fun q => { q with records := rest, waiting := q.waiting ++ [id] })

/-! ## Heads of queues (R159) -/

/-- The launch of a tag within a graph: the first that was taken. -/
def State.launchTagged (s : State) (job graph tag : Nat) : Option (Nat × Launch) :=
  s.launches.find? fun e => e.2.job == job && e.2.graph == graph && e.2.tag == tag

/-- Reason 1: a predecessor is the record itself, or no launch of a closed graph. -/
def State.orphan (s : State) (l : Launch) : Bool :=
  let closed := (Tab.getD s.graphs (graphKey l.job l.graph) { job := 0 }).closed
  l.preds.any fun t => t == l.tag || (closed && (s.launchTagged l.job l.graph t).isNone)

/-- The reason for which a head fails. -/
def State.failReason (s : State) (l : Launch) : Option Nat :=
  if s.orphan l then some 1
  else (l.faults.foldl (fun b r => match b with | none => some r | some x => some (Nat.min x r)) none)

/-- Every predecessor is complete. -/
def State.predsDone (s : State) (l : Launch) : Bool :=
  l.preds.all fun t => match s.launchTagged l.job l.graph t with | some (_, p) => p.status != 0 | none => false

/-- Heads of all queues, by queue number. -/
def State.heads (s : State) : List (Nat × Nat) :=
  s.subQs.filterMap fun e => match e.2.waiting with | l :: _ => some (e.1, l) | [] => none

/-- Removes the head of a queue. -/
def State.popHead (s : State) (qn : Nat) : State := s.modSubQ qn fun q => { q with waiting := q.waiting.drop 1 }

/-- Home die of a submission queue (R158). -/
def homeDieOf (qn : Nat) : Nat := if qn < 64 then 0 else if qn < 128 then 2 else (qn - 128) / 16

/-- A head fails at dequeue (R159, R474). -/
def State.failHead (s : State) (qn l reason : Nat) : State :=
  let la := s.launch l
  let s := (s.popHead qn).faultRecord { source := 13408 + 4 * homeDieOf qn, kind := 3, taddr := word la.image, tinfo := word reason } la
  ((s.modLaunch l fun x => { x with failed := true, count := 0 }).tryLaunch l)

/-! ## Cores for stages (R160, R162, R163, R165, R354) -/

/-- The core of a list with the most empty slots, the first among equals. -/
def State.emptiest (s : State) (cs : List Nat) : Nat :=
  (cs.foldl (fun (b : Option (Nat × Nat)) c => let n := s.emptyCount c
    match b with
    | none => some (c, n)
    | some (d, m) => if m < n then some (c, n) else some (d, m)) none).elim 0 (·.1)

/-- The order in which cores are tried after a first choice. DESIGN CHOICE (notes/assumptions/41.md). -/
def coreOrder (c : Nat) : List Nat :=
  let chain := chainAfter c
  [c] ++ chain.filter (fun x => clusterOf x == clusterOf c) ++ chain.filter (fun x => clusterOf x != clusterOf c) ++
  ((diesFrom (dieOfCore c)).drop 1).flatMap coresOfDie

/-- Cores of a cluster. -/
def coresOfCluster (cl : Nat) : List Nat := (List.range 8).map (cl * 8 + ·)

/-- First choice for stage `i`, given the cores of the stages before it and the home die.
DESIGN CHOICE (notes/assumptions/41.md). -/
def State.firstChoice (s : State) (hint home : Nat) (before : List Nat) : Nat :=
  match before.head?, before.getLast? with
  | some c0, some c =>
    match hint with
    | 0 => c
    | 1 => (chainAfter c).headD c
    | 2 => s.emptiest (coresOfCluster (clusterOf c0))
    | _ => s.emptiest (coresOfDie ((dieOfCore c0 + before.length) % 4))
  | _, _ => s.emptiest (coresOfDie home)

/-- Local queues of a kernel that come to stand on a core with stage `i`: those that join it to an earlier stage or to
itself. -/
def localWith (k : Kernel) (i : Nat) : List QEntry :=
  k.queues.filter fun q => !q.ring && ((q.from_ == i && decide (q.to_ ≤ i)) || (q.to_ == i && decide (q.from_ ≤ i)))

/-- Local queues of a core that no launch holds. -/
def State.freeLocal (s : State) (c : Nat) : List Nat := (List.range 32).filter fun q => (Tab.get? (s.core c).local_ q).isNone

/-- A core can hold a stage of a launch, with `n` local queues. -/
def State.canHold (s : State) (l c : Nat) (st : Stage) (rings n : Nat) : Bool :=
  let k := s.core c
  (s.emptyOn c).isSome && s.scratchFor l st c &&
  ((List.range rings).all fun r => match (Tab.getD k.rings r {}).owner with | none => true | some o => o == l) &&
  decide (n ≤ (s.freeLocal c).length)

/-! ## Start of a unit (R28, R164) -/

/-- Ports of a stage's units (R81). Where entries name one port twice, the last binds it, and pushing comes before popping in one
entry. DESIGN CHOICE (notes/assumptions/98.md). -/
def stagePorts (la : Launch) (stage : Nat) : Vector Port 8 :=
  Vector.ofFn fun i =>
    let p := i.val + 56
    ((List.range la.kernel.queues.length).foldl (fun b e =>
      match la.kernel.queues[e]? with
      | some q =>
        if q.from_ == stage && q.fromPort == p then Port.push (la.queueIds.getD e 0) e
        else if q.to_ == stage && q.toPort == p then .pop (la.queueIds.getD e 0) e else b
      | none => b) .unbound)

/-- Token vectors of a stage's units (R82); of two entries for one port and level the last stands. DESIGN CHOICE
(notes/assumptions/98.md). -/
def stageVectors (la : Launch) (st : Stage) : Vector Word 24 :=
  Vector.ofFn fun i => (st.tokens.foldl (fun (b : Word) t => if (t.1 - 56) * 3 + t.2.1 - 1 = i.val then word (la.image + t.2.2) else b) 0)

/-- The slot of a unit that starts on a stage (R28, R164); its stack window lies at `base`. -/
def unitSlot (la : Launch) (gen : Nat) (u : UnitInfo) (base : Nat) (views : Tab BarrierView) : Slot :=
  let st := la.stage u.stage
  let sl : Slot := {
    status := .running, pc := word (la.image + st.entry), asid := word (la.asid % 4096 + gen * 4096)
    thand := if la.kernel.handler = 0 then 0 else word (la.image + la.kernel.handler)
    tvec := stageVectors la st, ports := stagePorts la u.stage, unit := some u
    regBound := st.regs, scratchBound := st.scratch, barrierBound := la.kernel.barriers, ringBound := la.kernel.rings
    stackBase := base, stackSize := la.stackBytes, views := views }
  let top := word (0xE800000000000000 + la.stackBytes)
  ((sl.setXs 1 la.args).setX 49 top).setX 50 top

/-- Starts a root unit of a stage on a core: its number; none where no slot or no stack window is free. -/
def State.startUnit (s : State) (l c stage : Nat) (kind : UnitKind) (member : Bool) : Option (Nat × State) := do
  let la := s.launch l
  let g ← s.emptyOn c
  let (base, s) ← s.mapStack la.asid c la.stackBytes
  let (uid, s) := s.fresh
  let u : UnitInfo := { launch := l, stage := stage, uid := uid, root := uid, parent := none, kind := kind }
  let views : Tab BarrierView := if member then (List.range la.kernel.barriers).map fun n => (n, { member := true }) else []
  let s := s.takeScratch l c (la.stage stage)
  let s := { s with windows := Tab.set s.windows uid (la.asid, base, ceilDiv la.stackBytes 65536 * 65536) }
  some (uid, s.putThread g (unitSlot la la.gen u base views))

/-! ## Placing a launch -/

/-- Cores at which stage `i` may stand, in order (R162, R163). -/
def State.choices (s : State) (k : Kernel) (home i : Nat) (before : List Nat) : List Nat :=
  let joined := (localWith k i).filterMap fun q => if q.from_ < i then before[q.from_]? else if q.to_ < i then before[q.to_]? else none
  match joined with
  | c :: r => if r.all (· == c) then [c] else []
  | [] => coreOrder (s.firstChoice ((k.stages.getD i {}).hint) home before)

/-- Places the stages from number `i` on: their cores and their units. -/
def State.placeStages (l home : Nat) (k : Kernel) : Nat → Nat → List Nat → List Nat → State → Option (List Nat × List Nat × State)
  | 0, _, cores, uids, s => some (cores, uids, s)
  | n + 1, i, cores, uids, s => do
    let st := k.stages.getD i {}
    let mine := localWith k i
    let here (c : Nat) : Nat := mine.length + ((List.range i).foldl (fun m j => if cores[j]? = some c then m + (localWith k j).length else m) 0)
    let c ← (s.choices k home i cores).find? fun c => s.canHold l c st k.rings (here c)
    let (uid, s) ← s.startUnit l c i .stage true
    State.placeStages l home k n (i + 1) (cores ++ [c]) (uids ++ [uid]) s

/-- Gives a launch its queues (R163, R165, R168): all are empty. -/
def State.giveQueues (l : Nat) (cores : List Nat) : List QEntry → Nat → List Nat → State → List Nat × State
  | [], _, ids, s => (ids, s)
  | e :: r, i, ids, s =>
    let c := cores.getD e.to_ 0
    let no := (s.freeLocal c).headD 0
    let id := s.nextQueue
    let q : Queue := { launch := l, entry := i, ring := e.ring, core := c, slotNo := no, depth := e.depth }
    let s := { s with queues := Tab.set s.queues id q, nextQueue := id + 1 }
    let s := if e.ring then s else s.modCore c fun k => { k with local_ := Tab.set k.local_ no id }
    State.giveQueues l cores r (i + 1) (ids ++ [id]) s

/-- Gives a launch its barrier objects on the die of stage 0 (R194, R195); none where too few are free. -/
def State.giveBarriers (s : State) (l die n : Nat) (uids : List Nat) : Option State :=
  let free := (List.range Config.barriersPerDie).filter fun b => (Tab.get? (s.die die).barriers b).isNone
  if free.length < n then none
  else
    let ids := free.take n
    let b : Barrier := { launch := some l, members := uids.map fun u => (u, 0) }
    let s := s.modDie die fun d => { d with barriers := ids.foldl (fun t i => Tab.set t i b) d.barriers }
    some (s.modLaunch l fun x => { x with barrierDie := die, barrierIds := ids })

/-- Every unit of a launch has its ports, now that the queues are there. -/
def State.bindPorts (s : State) (l : Nat) : State :=
  let la := s.launch l
  { s with slots := s.slots.each fun _ sl => match sl.unit with
      | some u => if u.launch = l then { sl with ports := stagePorts la u.stage } else sl
      | none => sl }

/-- The runtime has written the grant ranges of the ASID of a launch that starts (R214). DESIGN CHOICE (notes/assumptions/108.md). -/
def State.grantWindow (s : State) (asid : Nat) : State :=
  s.modAsid asid fun a => if a.grantTick.isSome then a else { a with grantTick := some s.tick }

/-- Places a launch whole (R160); none where it does not fit. -/
def State.place (s : State) (l : Nat) : Option State := do
  let la := s.launch l
  let k := la.kernel
  let s := s.grantWindow la.asid
  let s := s.modLaunch l fun x => { x with gen := (s.asidOf x.asid).gen }
  let (cores, uids, s) ← State.placeStages l (homeDieOf la.queue) k k.stages.length 0 [] [] s
  let s ← s.giveBarriers l (dieOfCore (cores.headD 0)) k.barriers uids
  let (ids, s) := State.giveQueues l cores k.queues 0 [] s
  some ((s.modLaunch l fun x => { x with placed := true, cores := cores, queueIds := ids }).bindPorts l)

/-! ## A decision (R161) -/

/-- Lower value first among pairs. -/
def least (l : List (Nat × Nat)) : Option Nat :=
  (l.foldl (fun (b : Option (Nat × Nat)) x => match b with
    | none => some x
    | some y => if x.1 < y.1 then some x else some y) none).map (·.2)

/-- The state after the head of queue `q` has been placed. -/
def State.placedHead (s : State) (q : Nat) : State :=
  let p := (s.subQ q).prio
  { (s.popHead q).modSubQ q fun x => { x with passes := 0 } with pointers := putAt s.pointers p ((q + 1) % 192) }

/-- Priorities from `p` - 1 down: the first at which a head fits is placed. -/
def State.decideAt (s : State) (ready : List (Nat × Nat)) : Nat → Option State
  | 0 => none
  | p + 1 =>
    let fits := ready.filterMap fun e => if (s.subQ e.1).prio = p then (s.place e.2).map fun t => (e.1, t) else none
    match least (fits.map fun e => ((e.1 + 192 - s.pointers.getD p 0) % 192, e.1)) with
    | none => s.decideAt ready p
    | some q =>
      (fits.find? fun e => e.1 == q).map fun e =>
        (ready.filter fun r => decide (p < (s.subQ r.1).prio)).foldl
          (fun t r => t.modSubQ r.1 fun x => { x with passes := x.passes + 1 }) (e.2.placedHead q)

/-- The placement decision of R161; none where nothing is placed. -/
def State.decision (s : State) : Option State :=
  let ready := s.heads.filter fun e => s.predsDone (s.launch e.2) && !s.frozen e.2
  match least ((ready.filter fun e => decide (64 ≤ (s.subQ e.1).passes)).map fun e => ((7 - (s.subQ e.1).prio) * 192 + e.1, e.1)) with
  | some q => (ready.find? fun e => e.1 == q).bind fun e => (s.place e.2).map fun t => t.placedHead q
  | none => s.decideAt ready 8

end Sys2Proof.Machine
end

