-- ==== Sys2Proof/Machine/EvWork.lean ====
section
/-! DEFINITION. The steps of the ridge, the units and the queues: placement (R161), the end of a unit (R155), cancellation
(R156), tasks (R181), replicas (R175), migration (R177 to R179), load registers (R207), spawns (R201), barriers (R195 to
R198), mailboxes (R191), ring queues (R168, R169, R176) and probes (R183, R209). -/

namespace Sys2Proof.Machine

open Host

/-! ## Placement -/

/-- The ridge takes a record, fails a head, or decides, in this order. DESIGN CHOICE (notes/assumptions/86.md). -/
def State.placement (s : State) : Option State :=
  match deviceQueues.findSome? s.takeSpawn with
  | some t => some t
  | none =>
    match s.subQs.keys.findSome? s.takeRecord with
    | some t => some t
    | none =>
      match s.heads.findSome? fun e => (s.failReason (s.launch e.2)).map fun r => (e, r) with
      | some (e, r) => some (s.failHead e.1 e.2 r)
      | none => s.decision

def execPlacementDecision (s : State) : Outcome State Fault Refusal := occur s.placement

/-! ## The end of a unit (R155, R187, R195, R298, R306, R309, R475) -/

/-- The unit in a slot has ended (R155). -/
def Slot.ended (sl : Slot) : Bool :=
  match sl.unit with
  | some u => u.how != 0 && sl.status == .stopped && sl.ld == 0 && sl.st == 0 && sl.cp == 0 && sl.tb == 0
  | none => false

/-- The fault records of the errors pending at the end of a unit (R298, R474). -/
def State.endErrors (s : State) (g : Nat) (sl : Slot) (l : Launch) : State :=
  sl.pend.foldl (fun s e => s.faultRecord { source := g, kind := 1, cause := e.cause, flags := 2, taddr := e.addr,
                                            tinfo := word (e.seq % 256) } l) s

/-- What the engines keep for a unit that ends: its generators go, the reference accelerator completes its gathers, the
top-k unit is free. DEDUCED (notes/assumptions/44.md). -/
def State.freeEngines (s : State) (g uid : Nat) : State :=
  let c := coreOf g
  let s := s.modCore c fun k => { k with
    gens := k.gens.filter fun x => x.2.slot != g
    ref := match k.ref with
      | some r => if r.unit.uid = uid then (if r.gathers = [] then none else some { r with closing := true }) else some r
      | none => none }
  if isRidgeCore c then s
  else s.modCluster (clusterOf c) fun k => { k with topk := match k.topk with | some t => if t.uid = uid then none else some t | none => none }

/-- Requests that drop an ended unit from its barriers (R195). -/
def dropRequests (g : Nat) (sl : Slot) : List BarrierReq :=
  (sl.views.filter (·.2.member)).map fun v => { slot := g, uid := sl.uid, launch := sl.launch, n := v.1, kind := 1 }

/-- A unit ends and its slot is empty (R155); releases that it has issued go on. -/
def State.endUnit (s : State) (g : Nat) (u : UnitInfo) : State :=
  let sl := s.slot g
  let la := s.launch u.launch
  let s := s.endErrors g sl la
  let s := (s.freeLease g).freeEngines g u.uid
  let s := { s.vacate g with barReqs := s.barReqs ++ dropRequests g sl }
  let s := match u.parent with | some p => s.modUnit p fun v => { v with children := v.children - 1 } | none => s
  let s := s.modLaunch u.launch fun l => { l with
    count := l.count - 1, failed := l.failed || sl.pend != []
    segs := match u.taken.getLast? with
      | some n => Tab.modify l.segs u.stage {} fun x => { x with live := x.live.erase n }
      | none => l.segs }
  let s := (s.deliverAll u.launch).sweepMail (coreOf g) u.launch
  if sl.pend = [] then s.tryLaunch u.launch else (s.cancelLaunch u.launch).tryLaunch u.launch

def execUnitEnd (g : Nat) (s : State) : Outcome State Fault Refusal :=
  match (s.slot g).unit with
  | none => .fault .eventNotEnabled
  | some u => when (s.slot g).ended (s.endUnit g u)

/-- Some thread still shares the stack window of a root unit (R475). -/
def State.rootLives (s : State) (root : Nat) : Bool :=
  s.threads.any fun t => match t.unit with | some u => u.root == root | none => false

/-- A range of an address space can be unmapped: its pages do not move and no access to its frames is under way. -/
def State.unmappable (s : State) (asid va bytes : Nat) : Bool :=
  (s.pagesIn asid va bytes).all (fun p => !p.2.moving) && s.drained (s.framesIn asid va bytes)

/-- The ridge unmaps the stack windows that no thread shares any more (R475), as soon as the accesses to them have drained. -/
def State.sweepWindows (s : State) : State :=
  s.windows.foldl (fun s w =>
    if s.rootLives w.1 then s
    else
      let s := s.sendFrames (s.framesIn w.2.1 w.2.2.1 w.2.2.2)
      if s.unmappable w.2.1 w.2.2.1 w.2.2.2 then
        { s.unmapNow w.2.1 w.2.2.1 w.2.2.2 with windows := Tab.del s.windows w.1 }
      else s) s

/-! ## Cancellation and spawns -/

def execCancellationApply (s : State) : Outcome State Fault Refusal :=
  match s.cancels with
  | [] => .fault .eventNotEnabled
  | c :: r => when (s.aged c.sent) ({ s with cancels := r }.cancelObjectNow c.level c.key)

def execSpawnReservation (s : State) : Outcome State Fault Refusal :=
  match s.spawns with
  | [] => .fault .eventNotEnabled
  | r :: rest =>
    let s := { s with spawns := rest }
    let q := Tab.getD (s.die r.die).spawnQ r.index {}
    let reply (s : State) (v : Word) : State := s.answer r.slot (s.slot r.slot).uid r.id v
    if Config.deviceQueueEntries ≤ q.tail - q.head then .next (reply s (wordOfInt (-1)))
    else .next (reply (s.modDie r.die fun x => { x with
      spawnQ := Tab.set x.spawnQ r.index { q with tail := q.tail + 1, entries := Tab.set q.entries (q.tail % 2 ^ 32) (false, r.record) } })
      (word (q.tail % 2 ^ 32)))

/-! ## Tasks (R181) -/

/-- The slot in which a task of a stage starts (R181): a core whose scratchpad another launch holds is passed over, and one that
the launch takes is written with zeros first (R165). DEDUCED (notes/assumptions/17.md). -/
def State.placeTask (s : State) (l : Nat) (t : Thread) : Option (Nat × State) :=
  match t.slot.unit with
  | none => none
  | some u =>
    let st := (s.launch l).stage u.stage
    let reached (c : Nat) : Bool := s.crossed (dieOfCore t.core) (dieOfCore c) t.sent
    (((s.launchOrder l t.core).filter fun c => s.scratchFor l st c && reached c).findSome? s.emptyOn).map fun g => (g, s.takeScratch l (coreOf g) st)

def execTaskStart (launch : Nat) (s : State) : Outcome State Fault Refusal :=
  let la := s.launch launch
  match la.tasks.findSome? fun t => if s.mayStart t then (s.placeTask launch t).map fun g => (t, g) else none with
  | none => .fault .eventNotEnabled
  | some (t, g, s') =>
    when (!s.frozen launch) ((s'.modLaunch launch fun l => { l with tasks := l.tasks.erase t }).putThread g t.slot)

/-- The launch in which a parent rests, and its thread. -/
def State.restingOf (s : State) (uid : Nat) : Option (Nat × Thread) :=
  s.launches.findSome? fun e => (Tab.get? e.2.resting uid).map fun t => (e.1, t)

def execParentResume (unit : Nat) (s : State) : Outcome State Fault Refusal :=
  match s.restingOf unit with
  | none => .fault .eventNotEnabled
  | some (l, t) =>
    match s.placeTask l t, t.slot.unit with
    | some (g, s'), some u =>
      when (u.children == 0 && s.mayStart t && !s.frozen l) ((s'.modLaunch l fun x => { x with resting := Tab.del x.resting unit }).putThread g t.slot)
    | _, _ => .fault .eventNotEnabled

/-! ## Replicas (R175) -/

/-- Input queues of a stage of a launch: entry, number and queue. -/
def State.inputsOf (s : State) (l stage : Nat) : List (Nat × Nat × Queue) :=
  let la := s.launch l
  (List.range la.kernel.queues.length).filterMap fun e => match la.kernel.queues[e]? with
    | some q => if q.to_ = stage then (Tab.get? s.queues (la.queueIds.getD e 0)).map fun x => (e, la.queueIds.getD e 0, x) else none
    | none => none

/-- Units of a stage, forked tasks apart. DESIGN CHOICE (notes/assumptions/119.md). -/
def State.stageUnits (s : State) (l stage : Nat) : Nat :=
  (s.threads.filter fun t => match t.unit with
    | some u => u.launch == l && u.stage == stage && u.kind != .forked
    | none => false).length

/-- A unit of the stage stands on the die. -/
def State.onDie (s : State) (l stage d : Nat) : Bool :=
  (s.unitsOf l).any fun e => dieOf e.1 == d && match e.2.unit with | some u => u.stage == stage | none => false

/-- The balancer of a die looks at one stage (R175): a sample of its input queues, and a replica where one of them is more than
half full at two successive samples. -/
def State.balance (s : State) (d l stage : Nat) : State :=
  let st := (s.launch l).stage stage
  let past := ((s.inputsOf l stage).filter fun q => decide (q.2.2.depth < 2 * (q.2.2.elems.length + q.2.2.backlog.length))).map fun q => (d, q.1)
  let mine := (s.inputsOf l stage).map fun q => (d, q.1)
  let was := (s.launch l).crowded
  let note (s : State) : State := s.modLaunch l fun x => { x with crowded := x.crowded.filter (!mine.contains ·) ++ past }
  let c := s.emptiest (coresOfDie d)
  if past.any was.contains && decide (s.stageUnits l stage < st.replicas + 1) && s.canHold l c st (s.launch l).kernel.rings 0 then
    match s.startUnit l c stage .replica false with
    | some (_, t) => note (t.modLaunch l fun x => { x with count := x.count + 1 })
    | none => note s
  else note s

/-- Replicable stages with units on a die. -/
def State.replicable (s : State) (d : Nat) : List (Nat × Nat) :=
  s.launches.flatMap fun e => if e.2.placed && e.2.status == 0 && !e.2.cancelled && !s.frozen e.1 then
    ((List.range e.2.kernel.stages.length).filter fun i => (e.2.stage i).replicas != 0 && s.onDie e.1 i d).map fun i => (e.1, i)
  else []

def execBalancerSample (die : Nat) (s : State) : Outcome State Fault Refusal :=
  when (s.cycle % 1024 == 0 && decide (die < 4)) ((s.replicable die).foldl (fun s e => s.balance die e.1 e.2) s)

/-- The unit waits at a segment boundary with every input queue empty. DEDUCED (notes/assumptions/42.md). -/
def State.waitsEmpty (s : State) (sl : Slot) : Bool :=
  match sl.status, sl.unit with
  | .parked (.portEmpty _ _), some u =>
    (s.inputsOf u.launch u.stage).all fun q => q.2.2.elems == [] && Tab.getD u.finished q.2.1 0 == u.taken.length
  | _, _ => false

/-- Notes since when each replica has waited. DEDUCED (notes/assumptions/42.md). -/
def State.markIdle (s : State) : State :=
  { s with slots := s.slots.each fun _ sl => match sl.unit with
      | some u =>
        if u.kind = .replica then
          { sl with unit := some { u with idleSince := if s.waitsEmpty sl then some (u.idleSince.getD s.cycle) else none } }
        else sl
      | none => sl }

/-- A replica has waited 8,192 cycles. -/
def Slot.idledOut (sl : Slot) (now : Nat) : Bool :=
  match sl.unit with
  | some u => u.kind == .replica && u.how == 0 && match u.idleSince with | some t => decide (t + 8192 ≤ now) | none => false
  | none => false

def execReplicaIdleEnd (g : Nat) (s : State) : Outcome State Fault Refusal :=
  when ((s.slot g).idledOut s.cycle && s.waitsEmpty (s.slot g))
    (s.modSlot g fun sl => { sl with status := .stopped, unit := sl.unit.map fun u => { u with how := 1 } })

/-! ## Migration (R177 to R179) -/

/-- The core of a cluster with the lowest load, the lowest number among equals. -/
def State.leastLoaded (s : State) (cl : Nat) : Nat := (least ((coresOfCluster cl).map fun c => (s.loadOf c, c))).getD (cl * 8)

def execMigrationCheck (core : Nat) (s : State) : Outcome State Fault Refusal :=
  let own := s.loadOf core
  let t := s.leastLoaded (clusterOf core)
  match (slotsOf core).find? fun g => (s.slot g).runs && s.movable (s.slot g) with
  | none => .fault .eventNotEnabled
  | some g =>
    when (s.cycle % 4096 == 0 && decide (core < Config.cores) && decide (12 ≤ own) && decide (s.loadOf t + 4 ≤ own) &&
      (s.emptyOn t).isSome && !s.frozen (s.slot g).launch) (s.startMigration g t)

/-- A migrating thread arrives in a slot: what happened to its unit meanwhile stands in the reserved origin slot. -/
def State.land (s : State) (m : Migration) (g : Nat) : State :=
  let o := s.slot m.origin
  let t := { m.thread with unit := o.unit, views := o.views, st := o.st, ld := o.ld, held := o.held, stopAsked := false }
  let status : Status := if o.stopAsked ∨ o.held then .stopped else .running
  let s := if g = m.origin then s else s.vacate m.origin
  let s := (s.putThread g t).modSlot g fun sl => { sl with status := status }
  if g = m.origin then s else s.sweepMail (coreOf m.origin) t.launch

/-- The unit of a migrating thread was cancelled, or has left its reserved slot. -/
def State.migrationVoid (s : State) (m : Migration) : Bool :=
  match (s.slot m.origin).unit with | some u => u.how != 0 || u.uid != m.thread.uid | none => true

def execMigrationMessage (i : Nat) (s : State) : Outcome State Fault Refusal :=
  match s.migrations[i]? with
  | none => .fault .eventNotEnabled
  | some m =>
    let gone := { s with migrations := dropAt s.migrations i }
    if m.back || (s.slot m.origin).releases.any (·.id == m.release) then .fault .eventNotEnabled
    else if s.migrationVoid m then .next gone
    else
      match s.emptyOn m.target with
      | some g => .next (gone.land m g)
      | none => .next { s with migrations := putAt s.migrations i { m with back := true } }

def execMigrationReturn (s : State) : Outcome State Fault Refusal :=
  match s.migrations.find? (·.back) with
  | none => .fault .eventNotEnabled
  | some m =>
    let gone := { s with migrations := s.migrations.erase m }
    if s.migrationVoid m then .next gone else .next (gone.land m m.origin)

/-! ## Load registers (R177, R207) -/

/-- The loads of a cluster's cores. -/
def State.loadsOf (s : State) (cl : Nat) : Vector Nat 8 := Vector.ofFn fun i => s.loadOf (cl * 8 + i.val)

def execLoadRegisterUpdate (s : State) : Outcome State Fault Refusal :=
  when (s.cycle % 64 == 0) ((List.range Config.clusters).foldl (fun t cl =>
    if (t.cluster cl).loads = s.loadsOf cl then t else t.modCluster cl fun c => { c with loads := s.loadsOf cl }) s)

/-! ## Barriers (R195 to R198) -/

/-- C by R195. -/
def Barrier.recount (b : Barrier) : Barrier :=
  match b.members with
  | [] => b
  | m :: r => { b with c := r.foldl (fun n x => Nat.min n x.2) m.2 }

/-- A barrier object after a request. DESIGN CHOICE (notes/assumptions/25.md). -/
def Barrier.apply (b : Barrier) (r : BarrierReq) : Barrier :=
  match r.kind with
  | 0 => match Tab.get? b.members r.uid with
    | some p => ({ b with members := Tab.set b.members r.uid (p + 1) }).recount
    | none => b
  | 1 => ({ b with members := Tab.del b.members r.uid }).recount
  | _ => if (Tab.get? b.members r.uid).isSome ∨ Config.barrierMembers ≤ b.members.length then b
         else { b with members := Tab.set b.members r.uid b.c }

/-- What the object sends after a request: the reply of a join, and a risen phase to every member. -/
def Barrier.answers (b b' : Barrier) (r : BarrierReq) : List BarrierAns :=
  (if r.kind = 2 then
    [{ uid := r.uid, n := r.n, p := Tab.getD b'.members r.uid 0, c := b'.c, join := true, full := (Tab.get? b'.members r.uid).isNone }]
  else []) ++
  (if b.c < b'.c then b'.members.map fun m => { uid := m.1, n := r.n, p := 0, c := b'.c, join := false, full := false } else [])

/-- DESIGN CHOICE (notes/assumptions/25.md). -/
def execBarrierRequest (i : Nat) (s : State) : Outcome State Fault Refusal :=
  match s.barReqs[i]? with
  | none => .fault .eventNotEnabled
  | some r =>
    let gone := { s with barReqs := dropAt s.barReqs i }
    let la := s.launch r.launch
    match la.barrierIds[r.n]? with
    | none => .next gone
    | some id =>
      match Tab.get? (s.die la.barrierDie).barriers id with
      | none => .next gone
      | some b =>
        let b' := { b.apply r with last := (s.cycle, r.slot) }
        when (s.crossed (dieOf r.slot) la.barrierDie r.sent && (s.barReqs.take i).all (·.uid != r.uid) && (b.last.1 != s.cycle || decide (b.last.2 ≤ r.slot)))
          { gone.modDie la.barrierDie fun d => { d with barriers := Tab.set d.barriers id b' } with barAns := s.barAns ++ b.answers b' r }

/-- Changes the thread of a unit wherever it stands. -/
def State.modThread (s : State) (uid : Nat) (f : Slot → Slot) : State :=
  let on (sl : Slot) : Slot := if sl.uid = uid ∧ sl.unit.isSome then f sl else sl
  let onThread (t : Thread) : Thread := { t with slot := on t.slot }
  { s with
    slots := s.slots.each fun _ x => on x
    launches := s.launches.each fun _ l => { l with
      tasks := l.tasks.map onThread, resting := l.resting.each fun _ t => onThread t, saved := l.saved.map (·.map onThread) } }

/-- A unit learns what the object sent it (R196). -/
def Slot.hear (sl : Slot) (a : BarrierAns) : Slot :=
  let v := Tab.getD sl.views a.n {}
  if a.join then
    if a.full then sl else { sl with views := Tab.set sl.views a.n { member := true, p := a.p, c := a.c, mark := false } }
  else { sl with views := Tab.set sl.views a.n { v with c := Nat.max v.c a.c } }

/-- The reply of a join ends the instruction that waits for it (R197): a full barrier raises the resource-bound fault. -/
def State.joined (s : State) (a : BarrierAns) : State :=
  match s.slotOfUnit a.uid with
  | none => s
  | some g => if a.full then s.resume g fun _ => .error (trapAt 0x04 0 6) else s.oneLess g

def execBarrierReply (i : Nat) (s : State) : Outcome State Fault Refusal :=
  match s.barAns[i]? with
  | none => .fault .eventNotEnabled
  | some a =>
    let t := { s with barAns := dropAt s.barAns i }.modThread a.uid fun sl => sl.hear a
    let here := match s.slotOfUnit a.uid with | some g => (dieOf g, (s.launch (s.slot g).launch).barrierDie) | none => (0, 0)
    when (s.crossed here.2 here.1 a.sent && (s.barAns.take i).all fun x => x.uid != a.uid || x.n != a.n) (if a.join then t.joined a else t)

/-! ## Mailboxes (R191) -/

/-- The target core holds a unit that may receive the message. -/
def State.mailWelcome (s : State) (m : Mail) : Bool :=
  match m.fabric with
  | none => s.holdsUnit m.core m.launch
  | some _ => s.launches.any fun e => e.2.job == m.launch && s.holdsUnit m.core e.1

/-- A message reaches its core. -/
def State.deliverMail (s : State) (m : Mail) : State :=
  if s.mailWelcome m then (s.modCore m.core fun c => { c with waitMail := c.waitMail ++ [m] }).fillMailbox m.core m.box
  else s.discard m

/-- DEDUCED (notes/assumptions/26.md). -/
def execMailboxMessageArrival (i : Nat) (s : State) : Outcome State Fault Refusal :=
  match s.mails[i]? with
  | none => .fault .eventNotEnabled
  | some m =>
    when (s.crossed m.dieFrom (dieOfCore m.core) m.sent && (s.mails.take i).all fun x => x.sender != m.sender || x.core != m.core || x.box != m.box)
      ({ s with mails := dropAt s.mails i }.deliverMail m)

/-! ## Ring queues (R168, R169, R176) -/

/-- The eave port in whose skid entries an element on its way to a die stands after some hops; none in the first hop's (R437). -/
def Flight.portAt (f : Flight) (to_ hop : Nat) : Option Nat := if hop = 0 then none else (portsOn f.die to_)[hop - 1]?

def execRingQueueHop (q i : Nat) (s : State) : Outcome State Fault Refusal :=
  match (Tab.get? s.queues q).bind fun x => x.flights[i]?.map fun f => (x, f) with
  | none => .fault .eventNotEnabled
  | some (x, f) =>
    let ahead := (x.flights.take i).all fun y => y.by_ != f.by_ || y.hop != f.hop
    let die := dieOfCore x.core
    let skid := (x.flights.filter fun y => y.portAt die y.hop == f.portAt die (f.hop + 1)).length
    let carried := match f.portAt die f.hop with | some p => s.linkOpen p | none => true
    when (decide (f.hop < f.last) && ahead && decide (skid < 2) && carried)
      { s with queues := Tab.set s.queues q { x with flights := putAt x.flights i { f with hop := f.hop + 1 } } }

def execRingQueueElementArrival (q i : Nat) (s : State) : Outcome State Fault Refusal :=
  match (Tab.get? s.queues q).bind fun x => x.flights[i]?.map fun f => (x, f) with
  | none => .fault .eventNotEnabled
  | some (x, f) =>
    let x' := { x with flights := dropAt x.flights i }
    let first := (x.flights.take i).all fun y => y.by_ != f.by_
    let room := if s.mayDeliver x' f.elem then decide (x.elems.length < x.depth) else decide (x.elems.length + x.backlog.length < x.depth)
    let t := { s with queues := Tab.set s.queues q { x' with backlog := x.backlog ++ [f.elem] } }
    when (f.hop == f.last && first && room && s.crossed f.die (dieOfCore x.core) f.sent)
      (State.deliver (x.backlog.length + 1) (t.traffic x.launch false f.die (dieOfCore x.core)) q)

/-! ## Probes (R183, R209) -/

/-- A slot that can do nothing by itself (R182). -/
def Slot.idle (sl : Slot) : Bool :=
  match sl.status with | .empty | .parked (.portEmpty _ _) | .parked (.mailbox _) => true | _ => false

/-- What the ridge of a die samples for a launch. DEDUCED (notes/assumptions/28.md). -/
def State.sampleDie (s : State) (l d : Nat) : DieSample :=
  let (a, b, o, i) := Tab.getD (s.launch l).traffic d (0, 0, 0, 0)
  { idle := ((s.unitsOf l).all fun e => dieOf e.1 != d || e.2.idle) &&
      (s.queues.all fun q => q.2.launch != l || dieOfCore q.2.core != d || (q.2.elems == [] && q.2.backlog == []))
    a := a, b := b, o := o, i := i }

/-- The samples of the four dies. -/
def State.sampleDies (s : State) (l : Nat) : List DieSample := (List.range 4).map (s.sampleDie l)

def execDuskSample1 (s : State) : Outcome State Fault Refusal :=
  match s.probes.findIdx? (·.sample.isNone) with
  | none => .fault .eventNotEnabled
  | some k =>
    match s.probes[k]? with
    | some p => .next { s with probes := putAt s.probes k { p with sample := some (s.cycle, s.sampleDies p.launch) } }
    | none => .fault .eventNotEnabled

/-- The answer of a die (R183). -/
def dieAnswer (x y : DieSample) : Bool := x.idle && y.idle && x.a == x.b && (x.a, x.b, x.o, x.i) == (y.a, y.b, y.o, y.i)

/-- The answer of a probe. -/
def probeAnswer (p : Probe) (xs ys : List DieSample) : Bool :=
  let sum (f : DieSample → Nat) (l : List DieSample) : Nat := l.foldl (fun n x => n + f x) 0
  if p.dev then
    (List.zipWith dieAnswer xs ys).all id && sum (·.o) xs == sum (·.i) xs && sum (·.o) ys == sum (·.i) ys
  else
    match xs[dieOfCore p.core]?, ys[dieOfCore p.core]? with
    | some x, some y => dieAnswer x y
    | _, _ => false

/-- The body of the message that answers a probe (R209). DESIGN CHOICE (notes/assumptions/27.md). -/
def answerBody (p : Probe) (xs ys : List DieSample) : List Byte :=
  let mine := if p.dev then ys else match ys[dieOfCore p.core]? with | some y => [y] | none => []
  bytesLe 8 p.number ++ bytesLe 8 (ofBool (probeAnswer p xs ys)) ++ bytesLe 8 (mine.foldl (fun n x => n + x.a + x.o) 0) ++
  bytesLe 8 (mine.foldl (fun n x => n + x.b + x.i) 0) ++ bytesLe 32 0

/-- The probe is due for sample 2: 64 cycles after sample 1 (R183). -/
def Probe.due (p : Probe) (now : Nat) : Bool := match p.sample with | some (t, _) => decide (t + 64 ≤ now) | none => false

/-- DESIGN CHOICE (notes/assumptions/27.md). -/
def execDuskSample2 (s : State) : Outcome State Fault Refusal :=
  match s.probes.find? (·.due s.cycle) with
  | none => .fault .eventNotEnabled
  | some p =>
    match p.sample with
    | none => .fault .eventNotEnabled
    | some (_, xs) =>
      let m : Mail := { core := p.core, box := p.box, body := answerBody p xs (s.sampleDies p.launch), sender := (s.free 0).toNat % 16384
                        tip := 0, launch := p.launch, fabric := none, op := none, dieFrom := dieOfCore p.core, counted := false }
      .next { s with probes := s.probes.erase p, mails := s.mails ++ [m] }

end Sys2Proof.Machine
end

