-- ==== Sys2Proof/Machine/EvMemory.lean ====
section
/-! DEFINITION. The steps of the memory system: write buffers (R219), requests at their points of acceptance (R217, R243 to
R245, R261), replies (R16, R152, R274), fills (R218), gathered queries (R249), promotions (R254 to R256), walks and
generations (R227, R228), page faults (R391, R392), moves and evictions (R236, R237), shadow frames (R440), activates and
retraining (R220, R221, R410) and scrubbing (R399, R472). -/

namespace Sys2Proof.Machine

open Host

/-! ## Write buffers and points of acceptance -/

/-- Indices of the write-buffer entries of a core that have been open for 64 cycles (R219), each
as it stands once the ones before it have left. -/
def Core.oldEntries (c : Core) (now : Nat) : List Nat :=
  ((List.range c.wb.length).filter fun i => match c.wb[i]? with
    | some e => e.hold == [] && decide (e.opened + 64 ≤ now)
    | none => false).mapIdx fun k i => i - k

def execWriteBufferTimeout (core i : Nat) (s : State) : Outcome State Fault Refusal :=
  match (s.core core).wb[i]? with
  | none => .fault .eventNotEnabled
  | some e => when (e.hold == [] && decide (e.opened + 64 ≤ s.cycle)) (s.sendEntry core i)

/-- The shadow fill that a request has to wait for (R232, R440). -/
def State.fillOf (s : State) (m : Msg) : Option (Nat × Nat × Nat) := match m.body with | .read r => s.fillFor r | _ => none

/-- The die that serves a request: that of its core where a shadow frame there does, else that of its point of acceptance. -/
def State.servingDie (s : State) (m : Msg) : Nat :=
  let here := dieOfCore m.core
  match m.body with
  | .read r => if s.sourceOf r r.pa = r.pa then (dieOfPoa m.poa).getD here else here
  | _ => (dieOfPoa m.poa).getD here

/-- Request `i` arrives at its point of acceptance: after the earlier requests of its core to the same point (R217), and, where the
point has accepted another in the same cycle, by the order of R231 and R243. -/
def State.arrives (s : State) (i : Nat) (kind : Body → Bool) : Option State :=
  match s.net[i]? with
  | none => none
  | some m =>
    let first := (s.net.take i).all fun x => x.core != m.core || x.poa != m.poa || !s.gateOpen x
    if kind m.body && s.gateOpen m && first then
      match s.fillOf m with
      | some (die, block, gen) =>
        if s.filling.any fun f => f.1 == die && f.2.1 == block then none
        else some { s with filling := s.filling ++ [(die, block, gen, s.cycle)] }
      | none =>
        if s.mayAccept m.poa m.rank && s.crossed (dieOfCore m.core) (s.servingDie m) m.sent then
          some (({ s with net := dropAt s.net i }.noteAccepted m.poa m.rank).perform m)
        else none
    else none

/-- A write arrives, or a piece of a store that is to be tested (R314). -/
def execHomeWrite (i : Nat) (s : State) : Outcome State Fault Refusal :=
  occur (s.arrives i fun b => match b with | .write _ | .test _ => true | _ => false)
/-- DESIGN CHOICE (notes/assumptions/10.md). -/
def execHomeRead (i : Nat) (s : State) : Outcome State Fault Refusal :=
  occur (s.arrives i fun b => match b with | .read _ => true | _ => false)
/-- DEDUCED (notes/assumptions/85.md). -/
def execHomeAtomic (i : Nat) (s : State) : Outcome State Fault Refusal :=
  occur (s.arrives i fun b => match b with | .atomic _ _ _ _ _ => true | _ => false)
def execAppendRequest (i : Nat) (s : State) : Outcome State Fault Refusal :=
  occur (s.arrives i fun b => match b with | .append _ _ _ _ _ _ => true | _ => false)
def execSealRequest (i : Nat) (s : State) : Outcome State Fault Refusal :=
  occur (s.arrives i fun b => match b with | .sealReq _ _ _ _ _ => true | _ => false)
def execTailRequest (i : Nat) (s : State) : Outcome State Fault Refusal :=
  occur (s.arrives i fun b => match b with | .tailReq _ _ _ _ _ => true | _ => false)

/-! ## Replies -/

/-- Both come from one point on another die to one core, so that they keep their order there (R435). -/
def samePath (p q : Option Nat) (g h : Nat) : Bool :=
  p == q && coreOf g == coreOf h && (p.bind dieOfPoa).any (· != dieOf g)

/-- The first was sent in an earlier cycle. -/
def sentBefore (x y : Option Nat) : Bool := match x, y with | some a, some b => decide (a < b) | some _, none => true | none, _ => false

/-- A reply reaches what waits for it (R151, R152, R274), behind earlier replies and acceptances of its path (R435). -/
def execLoadReply (i : Nat) (s : State) : Outcome State Fault Refusal :=
  match s.replies[i]? with
  | none => .fault .eventNotEnabled
  | some r =>
    let first := ((s.replies.take i).all fun x => !samePath x.poa r.poa x.slot r.slot) &&
      s.acks.all fun o => !(samePath (some o.poa) r.poa o.slot r.slot && sentBefore o.sent r.sent)
    when (first && s.crossed ((r.poa.bind dieOfPoa).getD (dieOf r.slot)) (dieOf r.slot) r.sent) ({ s with replies := dropAt s.replies i }.deliverReply r)

/-- An acceptance reaches its slot (R16), behind earlier replies and acceptances of its path (R435). -/
def execWriteAcceptance (i : Nat) (s : State) : Outcome State Fault Refusal :=
  match s.acks[i]? with
  | none => .fault .eventNotEnabled
  | some o =>
    let first := ((s.acks.take i).all fun x => !samePath (some x.poa) (some o.poa) x.slot o.slot) &&
      s.replies.all fun r => !(samePath r.poa (some o.poa) r.slot o.slot && sentBefore r.sent o.sent)
    when (first && s.crossed ((dieOfPoa o.poa).getD (dieOf o.slot)) (dieOf o.slot) o.sent) ({ s with acks := dropAt s.acks i }.accept o)

/-- An engine that addresses no scratchpad and no stack. -/
def pageAccessor (core asid : Nat) : Accessor :=
  { core := core, asid := asid, launch := 0, scratchBound := 0, stackBase := 0, stackSize := 0 }

/-- A block is filled for a prefetch (R283): into L1 by reads at its homes, before which the core's entries with bytes of them leave
(R219), or into the home slices. -/
def State.prefetchBlock (s : State) (core : Nat) (l : Loc) (toL2 : Bool) : State :=
  let sectors := s.blockOf l
  if toL2 then sectors.foldl (fun s x => s.touchL2 x.poa x.pa) s
  else
    let s := s.sendBytes core (sectorPas (s.allSectors core l))
    let read (poa : Nat) : Msg :=
      { core := core, poa := poa, tag := none, span := l.blockSpan, rank := core * 16
        body := .read { slot := core * 16, uid := 0, id := 0, off := 0, pa := l.pa, n := 0, sectors := s.fillSectors core l poa
                        page := s.sealPage l, shadow := l.shadow core } }
    { s with net := s.net ++ ((l.poa :: s.otherHomes l).filter fun poa => s.fillSectors core l poa != []).map read }

def execL1Fill (i : Nat) (s : State) : Outcome State Fault Refusal :=
  match s.prefetches[i]? with
  | none => .fault .eventNotEnabled
  | some p =>
    let rest (t : State) (n : Nat) : State := { t with
      prefetches := if p.left ≤ n then dropAt t.prefetches i else putAt t.prefetches i { p with va := p.va + n, left := p.left - n } }
    match s.locateVa (pageAccessor p.core p.asid) p.va false with
    | .at_ l f =>
      let t := s.installAll p.core f.toList
      let takes := if p.toL2 then l.cls == some .normal || l.cls == some .seal else l.cached
      let t := if takes && l.readFault == 0 then t.prefetchBlock p.core l p.toL2 else t
      .next (rest t (l.grain - p.va % l.grain))
    | _ => .next (rest s (65536 - p.va % 65536))

def execGatheredQueryReply (core : Nat) (s : State) : Outcome State Fault Refusal :=
  occur (s.queryReturns core)

/-! ## Promotions -/

/-- Requests that arrive in one cycle are applied lower slot number first (R411), and those of one slot in their order (R435). -/
def execPromoteRequest (i : Nat) (s : State) : Outcome State Fault Refusal :=
  match s.promReqs[i]? with
  | none => .fault .eventNotEnabled
  | some p =>
    let first := (s.promReqs.take i).all fun x => x.from_ != p.from_ || x.core != p.core
    when (first && s.mayAccept (promotePoint p.core) p.from_ && s.crossed (dieOf p.from_) (dieOfCore p.core) p.sent)
      (({ s with promReqs := dropAt s.promReqs i }.noteAccepted (promotePoint p.core) p.from_).promotionArrives p)
where
  /-- The core as a place at which requests arrive. -/
  promotePoint (core : Nat) : Nat := 5000 + core

/-- One promote reply has reached a slot (R254), behind earlier ones of its path (R435). -/
def execPromoteReply (i : Nat) (s : State) : Outcome State Fault Refusal :=
  match s.promReps[i]? with
  | none => .fault .eventNotEnabled
  | some p =>
    let first := (s.promReps.take i).all fun x => x.core != p.core || coreOf x.from_ != coreOf p.from_
    when (first && s.crossed (dieOfCore p.core) (dieOf p.from_) p.sent) ({ s with promReps := dropAt s.promReps i }.oneLess p.from_)

/-! ## Walks and generations -/

def execWalkComplete (i : Nat) (s : State) : Outcome State Fault Refusal :=
  match s.walks[i]? with
  | none => .fault .eventNotEnabled
  | some w =>
    let gen := (s.asidOf w.asid).gen
    if w.gen ≠ gen then .next { s with walks := putAt s.walks i { w with gen := gen } }
    else
      let reply (t : State) (v : Word) : State :=
        { t with walks := dropAt t.walks i }.answer w.slot w.uid w.id v
      match s.translate w.core w.asid w.va with
      | some (e, _) => .next (reply (s.install w.core e) (s.homeOfEntry w.asid w.va e))
      | none => .next (reply s (word (2 ^ 61)))

/-- An access was translated before a generation change or an invalidation, in its range (R227, R417). -/
def TlbOp.covers (x : TlbOp) (born : Nat) (p : Option Span) : Bool :=
  match p with
  | none => false
  | some p => p.asid == x.asid && decide (born < x.bound) &&
    match x.range with
    | none => true
    | some (lo, n) => decide (p.va < lo + n) && decide (lo < p.va + p.n)

/-- The number given out last when a request was made. -/
def Msg.born (m : Msg) : Nat :=
  match m.body with
  | .read r | .test r => r.id
  | .append _ _ _ _ _ id | .sealReq _ _ _ _ id | .tailReq _ _ _ _ id | .atomic _ _ _ _ (some (_, _, id)) => id
  | _ => m.ops.foldl (fun n o => Nat.min n o.id) (m.ops.headD { slot := 0, uid := 0, id := 0, poa := 0 }).id

/-- The same of an entry of the write buffer. -/
def WbEntry.born (e : WbEntry) : Nat :=
  e.ops.foldl (fun n o => Nat.min n o.id) (e.ops.headD { slot := 0, uid := 0, id := 0, poa := 0 }).id

/-- No access of the range that was translated before is under way. DEDUCED (notes/assumptions/39.md). -/
def State.tlbClear (s : State) (x : TlbOp) : Bool :=
  (s.net.all fun m => !x.covers m.born m.span) && s.cores.all (fun c => c.2.wb.all fun e => !x.covers e.born e.span) &&
  s.hostReads.all fun r => r.spans.all fun p => !x.covers r.born (some p)

/-- Held-back entries of the range leave when they can; those that nothing holds leave now (R227). -/
def State.tlbSend (s : State) (x : TlbOp) : State :=
  s.cores.foldl (fun s c => s.sendEntries c.1 fun e => x.covers e.born e.span) s

def execTlbGenerationComplete (i : Nat) (s : State) : Outcome State Fault Refusal :=
  match s.tlbOps[i]? with
  | none => .fault .eventNotEnabled
  | some x =>
    if s.tlbClear x then
      let t := { s with tlbOps := dropAt s.tlbOps i }
      .next (match (t.slot x.slot).pending with | some p => if p.id = x.bound then t.oneLess x.slot else t | none => t)
    else when (s.tlbSend x != s) (s.tlbSend x)

/-! ## Page faults -/

/-- The service of the pieces of a report: the first that is not in reach, with its address. -/
def State.servePieces (s : State) (x : Accessor) : List Nat → Service × Nat
  | [] => (.ready, 0)
  | p :: r => match s.serve x (word p) with | .ready => s.servePieces x r | y => (y, p)

def execPageFaultService (i : Nat) (s : State) : Outcome State Fault Refusal :=
  match s.reports[i]? with
  | none => .fault .eventNotEnabled
  | some r =>
    let x := { s.accessor r.slot with asid := r.asid }
    let wake (why : Option (Nat × Word × Bool)) : State :=
      { s with reports := dropAt s.reports i, wakes := s.wakes ++ [{ slot := r.slot, seq := r.seq, reject := why }] }
    match s.servePieces x r.pieces with
    | (.ready, _) => .next (wake none)
    | (.wait t, _) => when (t != s) t
    | (.reject why, p) => .next (wake (some (why, word p, r.fetch)))

/-- A wake reaches a slot that is dropped on the report it names (R392): it is eligible from the next cycle on. -/
def Slot.wake (sl : Slot) (w : Wake) : Slot :=
  if sl.status = .dropped ∧ sl.dropSeq = w.seq then { sl with status := .parked .eligible, reject := w.reject } else sl

/-- Wakes for one slot that arrive in one cycle are applied lower number of the sending slot first (R411), and those of one sender in
their order (R435). -/
def execWakeArrival (i : Nat) (s : State) : Outcome State Fault Refusal :=
  match s.wakes[i]? with
  | none => .fault .eventNotEnabled
  | some w =>
    let point := 6000 + w.slot
    let first := (s.wakes.take i).all fun x => x.by_ != w.by_ || x.slot != w.slot
    match w.by_ with
    | none => when first ({ s with wakes := dropAt s.wakes i }.modSlot w.slot fun sl => sl.wake w)
    | some g =>
      when (first && s.mayAccept point g && s.crossed (dieOf g) (dieOf w.slot) w.sent)
        (({ s with wakes := dropAt s.wakes i }.noteAccepted point g).modSlot w.slot fun sl => sl.wake w)

/-! ## Moves and evictions -/

def execPageEviction (stack : Nat) (s : State) : Outcome State Fault Refusal :=
  if stack < 12 ∧ s.freeIn stack < s.lowMark stack then occur ((s.victim stack).bind s.evict)
  else .fault .eventNotEnabled

/-- The ridge takes up the oldest request of pf.fast or pf.cap (R283); none while its page moves. -/
def State.steer (s : State) : Option State :=
  match s.steers with
  | [] => none
  | (id, fast) :: r =>
    let gone := { s with steers := r }
    match Tab.get? s.pages id with
    | none => some gone
    | some p =>
      let tier := leafTier (s.leafOfPage p)
      if p.moving then none
      else if tier = (if fast then 0 else 1) ∨ (!fast ∧ tier = 2) ∨ p.fate ≠ 0 then some gone
      else
        match gone.startMove id (ofBool (!fast)) with
        | some t => some t
        | none =>
          match if fast then s.makeRoom p (s.leafOfPage p) else none with
          | some t => if t = s then none else some t
          | none => some gone

def execPageMove (i : Nat) (s : State) : Outcome State Fault Refusal :=
  match s.moves[i]? with
  | some m => if m.step = 4 then .fault .eventNotEnabled else occur (s.moveStep m)
  | none => if i = s.moves.length then occur s.steer else .fault .eventNotEnabled

def execPageMoveComplete (i : Nat) (s : State) : Outcome State Fault Refusal :=
  match s.moves[i]? with
  | some m => when (m.step == 4) (s.moveEnd m)
  | none => .fault .eventNotEnabled

/-! ## Shadow frames (R232, R440) -/

/-- First byte of the seal-class page that holds a block. -/
def State.sealPageAt (s : State) (pa : Nat) : Option Nat :=
  (s.seals.find? fun e => decide (e.1 ≤ pa) && decide (pa < e.1 + e.2.size)).map (·.1)

/-- A fill that pf.shadow asked for begins, where the page is sealed and has not been freed since (R232, R283). -/
def execShadowFill (s : State) : Outcome State Fault Refusal :=
  match s.shadowFills with
  | [] => .fault .eventNotEnabled
  | (die, pa, gen) :: r =>
    let known := (s.shadowOf die pa gen).isSome || s.filling.any fun f => f.1 == die && f.2.1 == pa
    let sealed := s.sealGenAt pa == gen && (s.sealPageAt pa).any fun p => (s.sealAt p).sealed
    .next { s with shadowFills := r, filling := if known || !sealed then s.filling else s.filling ++ [(die, pa, gen, s.cycle)] }

/-- A shadow fill has read the home, on another die, and ends (R440, R456). -/
def execShadowFillComplete (s : State) : Outcome State Fault Refusal :=
  match s.filling with
  | [] => .fault .eventNotEnabled
  | (die, pa, gen, begun) :: r =>
    when (decide (begun + 2 * Config.crossing ≤ s.cycle) && s.wayOpen ((sectorDie pa).getD die) die) ({ s with filling := r }.shadowFor die (s.sealPageAt pa) pa gen)

/-! ## Stacks (R220, R221, R410, R470) -/

/-- Activates that a stack's regulator allows in a window: the module power controller tightens it down to a quarter. -/
def State.activateLimit (s : State) (stack : Nat) : Nat :=
  Nat.max 1 (bits (s.regulatorOf stack) 19 0 * (4 - Nat.min 3 s.power.tight) / 4)

/-- Activates of a stack in the window that ends now, in ns. -/
def State.recentActivates (s : State) (stack : Nat) : List Nat :=
  (Tab.getD s.activates stack []).filter fun t => decide (s.time < t + bits (s.regulatorOf stack) 47 32)

/-- An activate is kept for as long as any window reaches back to it, so that a later write of the regulator counts it (R221). -/
def execHbmActivate (stack : Nat) (s : State) : Outcome State Fault Refusal :=
  let l := s.recentActivates stack
  when (decide (stack < 12) && (!bit (s.regulatorOf stack) 63 || decide (l.length < s.activateLimit stack)))
    { s with activates := Tab.set s.activates stack (((Tab.getD s.activates stack []).filter fun t => decide (s.time < t + 65536)) ++ [s.time]) }

def execHbmRegulatorWrite (stack : Nat) (v : Word) (s : State) : Outcome State Fault Refusal :=
  when (decide (stack < 12)) { s with regulator := Tab.set s.regulator stack (regulatorValue v) }

/-- A pre-emption writes to a stack in its step 6, and its deadline has not passed (R410). DEDUCED (notes/assumptions/58.md). -/
def State.saving (s : State) (stack : Nat) : Bool :=
  s.preempts.any fun p => p.phase == 6 && p.saveStacks / 2 ^ stack % 2 == 1 && decide (s.time < p.deadline)

def execHbmRetrain (stack : Nat) (s : State) : Outcome State Fault Refusal :=
  if 12 ≤ stack then .fault .eventNotEnabled
  else if s.saving stack then .next { s with again := true }
  else .next { s with retrain := if s.retrain.contains stack then s.retrain else s.retrain ++ [stack] }

/-- The retraining of a stack ends in this cycle, if the free value says so. DESIGN CHOICE (notes/assumptions/58.md). -/
def State.endRetrain (s : State) : State :=
  { s with retrain := s.retrain.filter fun k => Config.schedule (s.tick + 2 ^ 64 * (k + 1)) % 2 == 1 }

/-! ## Scrubbing (R399, R472, R474) -/

/-- A corrected error is counted (R472). -/
def State.countCorrected (s : State) : State := { s with power := { s.power with errcor := (s.power.errcor + 1) % 2 ^ 64 } }

/-- The scrubber corrects an error, or finds one that it cannot correct. DESIGN CHOICE (notes/assumptions/88.md). -/
def execPatrolScrub (pa : Nat) (lost : Bool) (s : State) : Outcome State Fault Refusal :=
  if sectorDie pa = none then .fault .eventNotEnabled
  else if !lost then .next s.countCorrected
  else
    let t := { s with lost := if s.lost.contains (pa / 32) then s.lost else (pa / 32) :: s.lost }
    .next (if s.found.contains (pa / 32) then t else t.findError pa)

/-- A soft error strikes what lies beside the addressed memories (R472): a corrected one; a parity error of the L1 instruction cache of
a core, whose slots fetch again, or of a TLB entry, which is walked for again, each counted as corrected; an uncorrectable one in a
sector of L1 data, which the reads of it report (R399), or in a register file, for which R298 and R399 name no report, so that it is
counted. DESIGN CHOICE (notes/assumptions/88.md). -/
def State.strike (s : State) (kind at_ : Nat) : State :=
  let c := at_ % 784
  let k := at_ / 784
  match kind with
  | 1 => s.countCorrected
  | 2 => { s.countCorrected with slots := s.slots.each fun g sl => if coreOf g = c then { sl with blocks := [] } else sl }
  | 3 => s.countCorrected.modCore c fun x => { x with tlb := dropAt x.tlb (k % (x.tlb.length + 1)) }
  | 4 => s.countCorrected.modCluster (c % Config.clusters) fun x => { x with tlb := dropAt x.tlb (k % (x.tlb.length + 1)) }
  | 5 => s.modCore c fun x => { x with l1 := x.l1.each fun i l => if i = k / 4 then { l with bad := k % 4 :: l.bad } else l }
  | 6 => s.countLost
  | _ => s

/-- A sector fails in this cycle, or a soft error strikes, if the free values say so. DESIGN CHOICE (notes/assumptions/88.md). -/
def State.decay (s : State) : State :=
  let s := match Config.sectorFails s.cycle with
    | some x => if (sectorDie (32 * x)).isSome && !s.lost.contains x then { s with lost := x :: s.lost } else s
    | none => s
  s.strike (Config.upset s.cycle).1 (Config.upset s.cycle).2

end Sys2Proof.Machine
end

