-- ==== Sys2Proof/Machine/EvPreempt.lean ====
section
/-! DEFINITION. Host commands as such (R447), and those that pre-empt, resume and cancel an object (R405 to R409). -/

namespace Sys2Proof.Machine

open Host

/-! ## Host commands (R447) -/

/-- The response to a command, and its vector. -/
def HostPort.respond (hp : HostPort) (seq status r2 r3 : Nat) : HostPort :=
  { hp with busy := none, waiting := none, response := [word seq, word status, word r2, word r3, 0, 0, 0, 0] }.send 4

/-- A doorbell is ignored: dberr (R444, R447). -/
def HostPort.ignore (hp : HostPort) : HostPort := if hp.dberr then hp else { hp with dberr := true }.send 0

/-- What a command comes to. -/
inductive Answer where
  | done (s : State) (r2 r3 : Nat)
  | refused (status : Nat)
  /-- It waits for this; `s` is what it has begun. -/
  | again (s : State) (w : Waiting)
  /-- It runs on; a later event responds. -/
  | running (s : State)

/-- A host command that a port gives with a sequence number. -/
def command (s : State) (port seq : Nat) (r : Answer) : Outcome State Fault Refusal :=
  if 2 ≤ port then .fault .eventNotEnabled
  else if (s.port port).d3 then .next s
  else if !s.ready || (s.port port).busy.isSome then .next (s.modPort port (·.ignore))
  else
    match r with
    | .done t a b => .next (t.modPort port (·.respond seq 0 a b))
    | .refused n => .next (s.modPort port (·.respond seq n 0 0))
    | .again t w => .next (t.modPort port fun hp => { hp with busy := some seq, waiting := some w })
    | .running t => .next (t.modPort port fun hp => { hp with busy := some seq })

/-- A command on a job of the port: no such job is an invalid argument, a job of the other port is denied (R448).
DEDUCED (notes/assumptions/62.md). -/
def onJob (s : State) (port job : Nat) (f : Job → Answer) : Answer :=
  match Tab.get? s.jobs job with
  | none => .refused 1
  | some j => if j.port ≠ port then .refused 3 else if j.status ≠ 0 then .refused 1 else f j

/-- The object that a level and an object word name within a job (R447). DEDUCED (notes/assumptions/84.md). -/
def State.objectNamed (s : State) (job level object : Nat) : Option (Level × Nat) :=
  match level with
  | 1 => (s.launchTagged job (object / 2 ^ 16) (object % 2 ^ 16)).map fun e => (.launch, e.1)
  | 2 => if object < 2 ^ 32 ∧ (Tab.get? s.graphs (graphKey job object)).isSome then some (.graph, graphKey job object) else none
  | 3 => if object < 2 ^ 16 ∧ (Tab.get? s.phases (phaseKey job object)).isSome then some (.phase, phaseKey job object) else none
  | 4 => if object = 0 then some (.job, job) else none
  | _ => none

/-- A command on an object of a job. DEDUCED (notes/assumptions/84.md). -/
def onObject (s : State) (port job level object : Nat) (f : Level → Nat → Answer) : Answer :=
  onJob s port job fun _ => match s.objectNamed job level object with
    | none => .refused 1
    | some (v, k) => f v k

/-- No launch beneath an object runs, and the object itself has completed (R155). -/
def State.objectOver (s : State) (v : Level) (k : Nat) : Bool :=
  (s.launchesOf v k).all (fun l => (s.launch l).status != 0) &&
  match v with
  | .launch => true
  | .graph => match Tab.get? s.graphs k with | some g => g.status != 0 | none => true
  | .phase => match Tab.get? s.phases k with | some g => g.status != 0 | none => true
  | .job => match Tab.get? s.jobs k with | some j => j.status != 0 | none => true

/-- A cancellation has completed, or it waits for the units and counts of its object (R156, R447). -/
def State.cancelAnswer (s : State) (v : Level) (k : Nat) : Answer := if s.objectOver v k then .done s 0 0 else .again s (.cancel v k)

def execCancelObject (port seq job level object : Nat) (s : State) : Outcome State Fault Refusal :=
  command s port seq (onObject s port job level object fun v k => (s.cancelObjectNow v k).cancelAnswer v k)

/-! ## Stopping an object (R405 step 1) -/

/-- A unit stops for a pre-emption; one that has ended, or that the ridge has stopped, stays as it is. -/
def Slot.hold (sl : Slot) (moves : Bool) : Slot :=
  match sl.unit with
  | some u => if u.how ≠ 0 ∨ sl.stopAsked ∨ (sl.status = .stopped ∧ !moves) then sl else { sl.stop with held := true }
  | none => sl

/-- Every slot of an object's launches is to stop. -/
def State.holdObject (s : State) (ls : List Nat) : State :=
  { s with slots := s.slots.each fun g sl =>
      match sl.unit with
      | some u => if ls.contains u.launch then sl.hold (s.migrations.any (·.origin == g)) else sl
      | none => sl }.sweepLeases

def execPreEmpt (port seq job level object deadline : Nat) (s : State) : Outcome State Fault Refusal :=
  command s port seq (onObject s port job level object fun v k =>
    let p : PreEmption := { port := port, seq := seq, level := v, key := k, deadline := deadline }
    let t := s.holdObject (s.launchesOf v k)
    .running { t with preempts := (t.preempts.filter fun x => !(x.level == v && x.key == k)) ++ [p] })

/-! ## The deadline (R406) -/

/-- The key of an access belongs to the work of one of these numbers. -/
def keyOfWork (ids : List Nat) (key : Nat) : Bool := decide (2 ^ 64 ≤ key / 2 ^ 128) && ids.contains (key / 2 ^ 128 - 2 ^ 64)

/-- The accesses of some engines that are under way are given up. -/
def State.dropAccesses (s : State) (ids : List Nat) : State :=
  { s with
    hostReads := s.hostReads.filter fun r => !(r.who == none && keyOfWork ids r.id)
    hostData := s.hostData.filter fun h => !keyOfWork ids h.1
    remote := s.remote.filter fun h => !keyOfWork ids h.1 }

/-- Bytes of a copy below which every destination byte has been written (R407). -/
def Copy.offset (c : Copy) : Nat := (c.todo.map (·.1) ++ c.read.map (·.1)).foldl Nat.min c.total

/-- A copy stops at a piece boundary and is recorded: it restarts from its offset. DESIGN CHOICE (notes/assumptions/61.md). -/
def State.recordCopy (s : State) (c : Copy) : State :=
  let n := (s.pushWrites.filter fun w => w.copy == c.id).length
  let k := c.offset - 16 * n
  { (s.keepCopy { c with recorded := true, todo := if k < c.total then [(k, c.total - k)] else [], read := [] }).dropAccesses [c.id] with
    pushWrites := s.pushWrites.filter fun w => w.copy != c.id }

/-- The copies of some launches that run; those of a cancelled launch run to their end and are never recorded (R156, R373). -/
def State.copiesOf (s : State) (ls : List Nat) : List Copy :=
  s.cores.flatMap fun e => e.2.copies.filter fun c => !c.recorded && ls.contains c.acc.launch && !(s.launch c.acc.launch).cancelled

/-- The deadline has passed. -/
def State.overdue (s : State) (p : PreEmption) : Bool := !p.late && !p.done && decide (p.deadline ≤ s.time)

/-- The deadline binds step 5: the copies that still run in that step are recorded. -/
def execPreemptionDeadline (s : State) : Outcome State Fault Refusal :=
  match s.preempts.find? s.overdue with
  | none => .fault .eventNotEnabled
  | some p =>
    let t := if p.phase = 5 then (s.copiesOf (s.launchesOf p.level p.key)).foldl State.recordCopy s else s
    .next { t with preempts := t.preempts.map fun x => if x = p then { x with late := true } else x }

/-! ## Steps 1 to 5 -/

/-- The slots of an object's units. -/
def State.objectSlots (s : State) (ls : List Nat) : List (Nat × Slot) :=
  s.slots.filter fun e => match e.2.unit with | some u => ls.contains u.launch | none => false

/-- The promotion log of a core holds an entry of one of these slots (R257). -/
def Core.logs (c : Core) (us : List (Nat × Slot)) : Bool := c.log.any fun e => us.any (·.1 == e.2)

/-- Every slot of the object has stopped. -/
def State.objectStopped (s : State) (ls : List Nat) (us : List (Nat × Slot)) : Bool :=
  us.all (fun e => e.2.status == .stopped && e.2.pending.isNone) && s.migrations.all (fun m => !ls.contains m.thread.launch)

/-- The first of the slots on each core. -/
def firstOnCores (us : List (Nat × Slot)) : List Nat :=
  (us.filter fun e => ((us.filter fun x => coreOf x.1 == coreOf e.1).head?.map (·.1)) == some e.1).map (·.1)

/-- Device-scope releases of all stores of the cores of some slots: the slots, the numbers of the releases, the state. -/
def State.releaseCores : List Nat → State → List (Nat × Nat) × State
  | [], s => ([], s)
  | g :: r, s =>
    let (l, t) := State.releaseCores r (s.startRelease g .dev false)
    ((g, s.nextId) :: l, t)

/-- The releases that a step waits for have completed, ST of every slot is 0, and the promotion logs hold nothing of them. -/
def State.releasesDone (s : State) (p : PreEmption) (us : List (Nat × Slot)) : Bool :=
  p.waits.all (fun w => (s.slot w.1).releases.all fun r => r.id != w.2) &&
  us.all (fun e => e.2.st == 0 && e.2.releases == []) && s.cores.all fun e => !e.2.logs us

/-- What the units of an object have sent is there: messages, and the words of dusk. -/
def State.sendsDone (s : State) (ls : List Nat) : Bool :=
  s.mails.all (fun m => m.fabric != none || !ls.contains m.launch) && s.probes.all (fun x => !ls.contains x.launch) &&
  s.sendings.all fun x => !ls.contains (s.slot x.slot).launch

/-- The tile commands that have started, the gathers in flight and the ring claims of an object have ended. -/
def State.enginesDone (s : State) (ls : List Nat) (us : List (Nat × Slot)) : Bool :=
  s.cores.all (fun e =>
    (match e.2.ref with | some r => !ls.contains r.acc.launch || r.gathers.all (fun x => x.value.isSome || x.failed.isSome) | none => true) &&
    e.2.rings.all fun r => r.2.claims.all fun x => us.all fun u => u.1 != x.1) &&
  s.clusters.all fun e => e.2.banks.toList.all fun b => b.order.all fun k => k.started.isNone || !ls.contains k.acc.launch

/-! ## Step 6: the save (R407) -/

/-- Where a slot number that a saved object holds stands: no slot. -/
def awaySlot (g : Nat) : Nat := 2 ^ 20 + g

/-- A generator as it is saved: it is reloaded from the next element to deliver. DESIGN CHOICE (notes/assumptions/61.md). -/
def Generator.rewind (g : Generator) : Generator :=
  { g with next := g.next - (g.ahead.filter fun e => e.1.tag == 0).length, ahead := g.ahead.takeWhile fun e => e.1.tag != 0
           slot := awaySlot g.slot }

/-- Scratchpad bytes that a launch declares on a core, at most. -/
def Kernel.scratchBytes (k : Kernel) : Nat := k.stages.foldl (fun n st => Nat.max n st.scratch) 0

/-- A message in a save area: it counts no more for its sender. -/
def Mail.laidBy (m : Mail) : Mail := { m with op := none, counted := false }

/-- What is saved of a core for a launch. -/
def State.savedCore (s : State) (l c : Nat) : SavedCore :=
  let k := s.core c
  { core := c
    mail := ((k.mail.filter fun e => e.2.ofLaunch l).map (·.2) ++ k.waitMail.filter (·.ofLaunch l)).map Mail.laidBy
    scratch := if k.scratchOwner = some l then s.mem.read (scratchPa c 0) (s.launch l).kernel.scratchBytes else []
    copies := k.copies.filter fun x => x.acc.launch == l
    ref := match k.ref with | some r => if r.acc.launch = l then some r else none | none => none }

/-- The banks that a launch's slots lease. -/
def State.savedBanks (s : State) (us : List (Nat × Slot)) : List SavedBank :=
  us.filterMap fun e => e.2.lease.map fun b =>
    let cl := clusterOf (coreOf e.1)
    { slot := e.1, cluster := cl, bank := s.bank cl b.1, bytes := s.mem.read (bankPa cl b.1 0) 0x8000 }

/-- A core without what was saved of it. -/
def Core.without (k : Core) (l : Nat) (cmds : Nat) : Core :=
  { k with
    mail := k.mail.filter fun e => !e.2.ofLaunch l, waitMail := k.waitMail.filter fun m => !m.ofLaunch l
    scratchOwner := if k.scratchOwner = some l then none else k.scratchOwner
    copies := k.copies.filter fun x => x.acc.launch != l
    ref := match k.ref with | some r => if r.acc.launch = l then none else some r | none => none
    gens := k.gens.each fun _ g => if g.acc.launch = l then g.rewind else g
    cmdQueue := k.cmdQueue - cmds }

/-- Saves a launch and frees its slots, leases and engines (R405 steps 6 and 7). DESIGN CHOICE (notes/assumptions/57.md). -/
def State.saveLaunch (s : State) (l : Nat) : State :=
  let la := s.launch l
  if la.status ≠ 0 ∨ la.cancelled ∨ !la.placed ∨ la.saved.isSome then s
  else
    let us := s.unitsOf l
    let threads : List Thread := us.map fun e =>
      { slot := { e.2 with blocks := [], yielded := none, stopAsked := false }, core := coreOf e.1, origin := e.1 }
    let cores := s.cores.keys
    let banks := s.savedBanks us
    let mine (t : TopK) : Bool := us.any fun e => e.1 == t.slot
    let topks : Tab TopK := s.clusters.filterMap fun e => match e.2.topk with | some t => if mine t then some (e.1, t) else none | none => none
    let cmds (c : Nat) : Nat := banks.foldl (fun n b => if coreOf b.slot = c then n + b.bank.order.length else n) 0
    let stored := cores.map (s.savedCore l)
    let s := s.dropAccesses (s.cores.flatMap fun e => (e.2.gens.filter fun g => g.2.acc.launch == l).map (·.2.id))
    let s := us.foldl (fun t e => match e.2.lease with
      | some b => t.modBank (clusterOf (coreOf e.1)) b.1 fun _ => {}
      | none => t) s
    let s := { s with
      slots := s.slots.each fun g sl => if us.any (·.1 == g) then {} else sl
      cores := s.cores.each fun c k => k.without l (cmds c)
      clusters := s.clusters.each fun _ x => { x with topk := match x.topk with | some t => if mine t then none else some t | none => none } }
    let s := s.modLaunch l fun x => { x with saved := some threads, stored := stored, banks := banks, topks := topks }
    cores.foldl State.fillMailboxes s

/-- Number of a level (R445). -/
def levelNo : Level → Nat
  | .launch => 1 | .graph => 2 | .phase => 3 | .job => 4

/-- What a record about an object says of it; above its level it says 0. DEDUCED (notes/assumptions/59.md). -/
def State.objectLaunch (s : State) (v : Level) (k : Nat) : Launch :=
  match v with
  | .launch => s.launch k
  | .graph => let g := Tab.getD s.graphs k { job := 0 }; { job := g.job, asid := (s.job g.job).asid, graph := k % 2 ^ 32, phase := g.phase }
  | .phase => let g := Tab.getD s.phases k { job := 0 }; { job := g.job, asid := (s.job g.job).asid, phase := g.phase }
  | .job => { job := k, asid := (s.job k).asid }

/-- The save is written: the slots are free, the record is posted, and the command is answered.
DEDUCED (notes/assumptions/59.md). -/
def State.savedObject (s : State) (p : PreEmption) : State :=
  let s := (s.launchesOf p.level p.key).foldl State.saveLaunch s
  let s := { s with preempts := s.preempts.map fun x => if x = p then { x with phase := 7, waits := [] } else x }
  let s := s.faultRecord { source := 13408, kind := if s.time ≤ p.deadline then 4 else 5, tinfo := word (levelNo p.level) }
    (s.objectLaunch p.level p.key)
  if (s.port p.port).busy = some p.seq then s.modPort p.port (·.respond p.seq 0 0 0) else s

/-- A pre-emption with other progress. -/
def State.setPreempt (s : State) (p x : PreEmption) : State := { s with preempts := s.preempts.map fun y => if y = p then x else y }

/-- The next step of a pre-emption; none where it waits. DEDUCED (notes/assumptions/56.md). -/
def State.preemptStep (s : State) (p : PreEmption) : Option State :=
  let ls := s.launchesOf p.level p.key
  let us := s.objectSlots ls
  let next (ok : Bool) : Option State := if ok then some (s.setPreempt p { p with phase := p.phase + 1, waits := [] }) else none
  match p.phase with
  | 1 =>
    if s.objectStopped ls us then
      let (waits, t) := State.releaseCores (firstOnCores us) s
      some (t.setPreempt p { p with phase := 2, waits := waits })
    else none
  | 2 => next (s.releasesDone p us && s.sendsDone ls)
  | 3 => next (us.all fun e => e.2.ld == 0)
  | 4 =>
    if !s.enginesDone ls us then none
    else if p.waits = [] ∧ us.any (fun e => e.2.lease.isSome || e.2.st != 0) then
      let (waits, t) := State.releaseCores (firstOnCores us) s
      some (t.setPreempt p { p with waits := waits })
    else next (s.releasesDone p us)
  | 5 =>
    if s.copiesOf ls = [] then some (s.setPreempt p { p with phase := 6, saveStacks := (s.free 0).toNat % 2 ^ 12 })
    else if p.late then some ((s.copiesOf ls).foldl State.recordCopy s)
    else none
  | 6 => if s.objectStopped ls us && s.retrain.all fun k => p.saveStacks / 2 ^ k % 2 = 0 then some (s.savedObject p) else none
  | _ => none

/-- DEDUCED (notes/assumptions/58.md). -/
def execPreemptionComplete (s : State) : Outcome State Fault Refusal := occur (s.preempts.findSome? s.preemptStep)

/-! ## Resume (R408) -/

/-- The new number of a slot. -/
def renumber (map : List (Nat × Nat)) (g : Nat) : Nat := match map.find? (·.1 == g) with | some e => e.2 | none => g

/-- The cores, clusters and slots can hold what was saved of some launches. -/
def State.canResume (s : State) (ls : List Nat) : Bool :=
  let ts := ls.flatMap fun l => (s.launch l).saved.getD []
  let cs := ls.flatMap fun l => (s.launch l).stored
  let bs := ls.flatMap fun l => (s.launch l).banks
  ts.all (fun t => decide ((ts.filter fun x => x.core == t.core).length ≤ s.emptyCount t.core)) &&
  cs.all (fun c => (c.scratch == [] || (s.core c.core).scratchOwner == none) && (c.ref == none || (s.core c.core).ref == none)) &&
  bs.all (fun b => decide ((bs.filter fun x => x.cluster == b.cluster).length ≤
    ([0, 1, 2, 3].filter fun i => (s.bank b.cluster i).grantable).length)) &&
  ls.all fun l => (s.launch l).topks.all fun t => (s.cluster t.1).topk == none

/-- A saved thread takes an empty slot of its core, which acquires. -/
def State.resumeThread (r : State × List (Nat × Nat)) (t : Thread) : State × List (Nat × Nat) :=
  match r.1.emptyOn t.core with
  | none => r
  | some g =>
    let sl := t.slot
    let sl := { sl with status := if sl.held then .running else .stopped, dropFlag := !sl.held && sl.dropFlag, held := false }
    ((r.1.setSlot g { sl with releases := (r.1.slot g).releases }).acquire t.core .dev, r.2 ++ [(t.origin, g)])

/-- A saved bank comes back: a bank of the same cluster with the same weight. -/
def State.resumeBank (map : List (Nat × Nat)) (s : State) (b : SavedBank) : State :=
  match [0, 1, 2, 3].find? fun i => (s.bank b.cluster i).grantable with
  | none => s
  | some i =>
    let g := renumber map b.slot
    let order := b.bank.order.map fun k => { k with slot := renumber map k.slot }
    let s := { s with mem := s.mem.write (bankPa b.cluster i 0) b.bytes }
    let s := s.modBank b.cluster i fun _ => { b.bank with holder := some g, order := order }
    let s := s.modCore (coreOf g) fun c => { c with cmdQueue := c.cmdQueue + order.length }
    s.modSlot g fun sl => { sl with lease := sl.lease.map fun x => (i, x.2) }

/-- The saved state of a core comes back. -/
def State.resumeCore (map : List (Nat × Nat)) (l : Nat) (s : State) (x : SavedCore) : State :=
  let s := if x.scratch = [] then s
    else
      let pa := scratchPa x.core 0
      { s.modCore x.core fun k => { k with scratchOwner := some l } with mem := (s.mem.zero pa (pa + 0x40000)).write pa x.scratch }
  (s.modCore x.core fun k => { k with
    waitMail := x.mail ++ k.waitMail
    copies := k.copies ++ x.copies.map fun c => { c with slot := renumber map c.slot, recorded := false, waits := [] }
    ref := match x.ref with | some r => some { r with slot := renumber map r.slot } | none => k.ref
    gens := k.gens.each fun _ g => if g.acc.launch = l then { g with slot := renumber map (g.slot - awaySlot 0) } else g }).fillMailboxes x.core

/-- A saved launch comes back. -/
def State.resumeLaunch (s : State) (l : Nat) : State :=
  let la := s.launch l
  match la.saved with
  | none => s
  | some ts =>
    let (s, map) := ts.foldl State.resumeThread (s, [])
    let s := la.banks.foldl (State.resumeBank map) s
    let s := la.stored.foldl (State.resumeCore map l) s
    let s := la.topks.foldl (fun t e => t.modCluster e.1 fun c => { c with topk := some { e.2 with slot := renumber map e.2.slot } }) s
    s.modLaunch l fun x => { x with saved := none, stored := [], banks := [], topks := [] }

/-- What a resume comes to. DEDUCED (notes/assumptions/60.md). -/
def State.resumeAnswer (s : State) (port job level object : Nat) : Answer :=
  onObject s port job level object fun v k =>
    match s.preempts.find? fun p => p.level == v && p.key == k && p.done with
    | none => .refused 1
    | some p =>
      let ls := s.launchesOf v k
      if s.canResume ls && s.retrain.all fun k => p.saveStacks / 2 ^ k % 2 = 0 then .done { ls.foldl State.resumeLaunch s with preempts := s.preempts.filter (· != p) } 0 0
      else .again s (.resume job level object)

def execResume (port seq job level object : Nat) (s : State) : Outcome State Fault Refusal :=
  command s port seq (s.resumeAnswer port job level object)

end Sys2Proof.Machine
end

