-- ==== Sys2Proof/Machine/EvHost.lean ====
section
/-! DEFINITION. What the hosts do: commands on jobs, queues and maps (R447, R448), doorbells and registers (R442 to R446), the
memory window and reads of host memory (R449), the reset of a port (R465) and configuration (R464). -/

namespace Sys2Proof.Machine

open Host

/-! ## Jobs and queues (R447, R448) -/

/-- A job that has not completed holds the ASID, or accesses of a completed one are under way still (R448). -/
def State.asidHeld (s : State) (asid : Nat) : Bool :=
  (s.jobs.any fun j => j.2.asid == asid && j.2.status == 0) || s.leaving.any fun x => x.1 == asid

/-- The ridge writes the home-group table of the ASID (R215). DESIGN CHOICE (notes/assumptions/108.md). -/
def execOpenJob (port seq : Nat) (s : State) : Outcome State Fault Refusal :=
  command s port seq (match ((List.range 4095).map (· + 1)).find? fun a => !s.asidHeld a with
    | none => .refused 2
    | some a =>
      let n := s.nextJob
      let s := s.modAsid a fun x => { x with maskTick := some s.tick }
      .done { s with jobs := Tab.set s.jobs n { asid := a, port := port }, nextJob := n + 1 } n a)

/-- A queue is bound to a job that has not completed. DEDUCED (notes/assumptions/62.md). -/
def State.queueTaken (s : State) (q job : Nat) : Bool :=
  (s.subQ q).enabled && (s.subQ q).job != job && (s.job (s.subQ q).job).status == 0 && (Tab.get? s.jobs (s.subQ q).job).isSome

/-- Binds a submission queue to a job. -/
def State.bindQueue (s : State) (q job prio : Nat) : Answer :=
  if s.queueTaken q job then .refused 2
  else .done (s.modSubQ q fun x => { x with enabled := true, job := job, asid := (s.job job).asid, prio := prio, passes := 0 }) 0 0

def execBindHostQueue (port seq job queue prio : Nat) (s : State) : Outcome State Fault Refusal :=
  command s port seq (onJob s port job fun _ =>
    if 64 ≤ queue ∨ 8 ≤ prio then .refused 1 else s.bindQueue (64 * port + queue) job prio)

def execBindDeviceQueue (port seq job die index prio : Nat) (s : State) : Outcome State Fault Refusal :=
  command s port seq (onJob s port job fun _ =>
    if 4 ≤ die ∨ 16 ≤ index ∨ 8 ≤ prio then .refused 1 else s.bindQueue (128 + 16 * die + index) job prio)

/-- A job's stream is closed (R448). -/
def State.closeJob (s : State) (job : Nat) : State := (s.modJob job fun j => { j with closed := true }).tryJob job

def execCloseJob (port seq job : Nat) (s : State) : Outcome State Fault Refusal :=
  command s port seq (onJob s port job fun _ => .done (s.closeJob job) 0 0)

/-! ## Maps (R447, R475) -/

/-- The leaf that word 4 of a map asks for. DESIGN CHOICE (notes/assumptions/36.md). -/
def partsOfWord (w : Word) : LeafParts :=
  let cls := bits w 61 60
  { cls := cls, tier := bits w 59 58, hashed := bit w 57, home := bits w 56 47, grain := bits w 46 45
    r := leafR w, w := leafW w, x := leafX w, frame := if 2 ≤ cls then leafFrame w else 0 }

/-- A frame that a page with these parts could have. -/
def LeafParts.someFrame (p : LeafParts) (i : Nat) : Nat :=
  if 2 ≤ p.cls then p.frame + i
  else if p.tier = 1 then capacityLow / 65536
  else if p.tier = 0 ∧ !p.hashed then pcbase p.home / 65536 else 0

/-- A range lies in whole pages of the address space, below the stack range. -/
def rangeOk (va bytes : Nat) : Bool := va % 65536 == 0 && bytes % 65536 == 0 && bytes != 0 && decide (va + bytes ≤ stackRange)

/-- Two ranges overlap. -/
def Range.meets (r : Range) (va bytes : Nat) : Bool := decide (r.va < va + bytes) && decide (va < r.va + r.bytes)

/-- Every page of a range can have a leaf with these parts. -/
def State.leafOk (s : State) (asid : Nat) (p : LeafParts) (n : Nat) : Bool :=
  let (k, s) := s.keyFor asid
  [0, n - 1].all fun i => s.leafValid asid 65536 (leafOf { p with key := k, frame := p.someFrame i })

/-- DESIGN CHOICE (notes/assumptions/36.md). -/
def execMapRange (port seq job va bytes : Nat) (w4 w5 : Word) (s : State) : Outcome State Fault Refusal :=
  command s port seq (onJob s port job fun j =>
    let p := partsOfWord w4
    let n := bytes / 65536
    if !rangeOk va bytes || j.ranges.any (·.meets va bytes) || !s.leafOk j.asid p n then .refused 1
    else
      match State.mapPages j.asid p (bits w5 2 0) ((s.stepctr + bits w5 39 3) % 2 ^ 64) n va s with
      | none => .refused 2
      | some t => .done (t.modJob job fun j => { j with ranges := j.ranges ++ [{ va := va, bytes := bytes, attrs := w4 }] }) 0 0)

/-- Every page of a range is mapped. -/
def Job.covers (j : Job) (va bytes : Nat) : Bool :=
  (List.range (bytes / 65536)).all fun i => j.ranges.any fun r => decide (r.va ≤ va + i * 65536) && decide (va + i * 65536 < r.va + r.bytes)

/-- A job's ranges without a range. -/
def Job.without (j : Job) (va bytes : Nat) : List Range :=
  j.ranges.flatMap fun r =>
    if r.meets va bytes then
      ([{ r with bytes := va - r.va }] : List Range).filter (·.bytes != 0) ++
      ([{ r with va := va + bytes, bytes := r.va + r.bytes - (va + bytes) }] : List Range).filter (·.bytes != 0)
    else [r]

/-- What an unmap comes to. DEDUCED (notes/assumptions/60.md). -/
def State.unmapAnswer (s : State) (port job va bytes : Nat) : Answer :=
  onJob s port job fun j =>
    if !rangeOk va bytes || !j.covers va bytes then .refused 1
    else
      let t := s.sendFrames (s.framesIn j.asid va bytes)
      if t.unmappable j.asid va bytes then
        .done ((t.unmapNow j.asid va bytes).modJob job fun j => { j with ranges := j.without va bytes }) 0 0
      else .again t (.unmap job va bytes)

def execUnmapRange (port seq job va bytes : Nat) (s : State) : Outcome State Fault Refusal :=
  command s port seq (s.unmapAnswer port job va bytes)

/-! ## Submission queues (R444) -/

/-- A doorbell of a queue that a port may ring. -/
def State.queueOpen (s : State) (q : Nat) : Bool := s.ready && (s.subQ q).enabled

/-- The 64 bytes of entry `i` of the record area of queue `q` of a port. -/
def HostPort.recordAt (hp : HostPort) (q i : Nat) : List Byte :=
  (List.range 64).map fun k => Tab.getD hp.area (16384 * q + 64 * (i % 256) + k) 0

/-- DEDUCED (notes/assumptions/63.md). -/
def execSubmissionQueueTailWrite (port q tail : Nat) (s : State) : Outcome State Fault Refusal :=
  if 2 ≤ port ∨ 64 ≤ q then .fault .eventNotEnabled
  else if (s.port port).d3 then .next s
  else
    let n := 64 * port + q
    let x := s.subQ n
    let new := (tail + 2 ^ 32 - x.tail) % 2 ^ 32
    if !s.queueOpen n || (s.job x.job).closed || decide (256 < (tail + 2 ^ 32 - x.head) % 2 ^ 32) then
      .next (s.modPort port (·.ignore))
    else
      .next (s.modSubQ n fun x => { x with
        records := x.records ++ (List.range new).map fun i => (s.port port).recordAt q (x.tail + i)
        tail := tail % 2 ^ 32, head := tail % 2 ^ 32 })

def execQueueCtlClose (port q v : Nat) (s : State) : Outcome State Fault Refusal :=
  if 2 ≤ port ∨ 64 ≤ q then .fault .eventNotEnabled
  else if (s.port port).d3 then .next s
  else if !s.queueOpen (64 * port + q) then .next (s.modPort port (·.ignore))
  else if v % 2 = 1 then .next (s.closeJob (s.subQ (64 * port + q)).job)
  else .next s

/-! ## Registers (R442, R443, R445, R446) -/

def execStatusWrite (port : Nat) (v : Word) (s : State) : Outcome State Fault Refusal :=
  if 2 ≤ port then .fault .eventNotEnabled
  else if (s.port port).d3 ∨ !s.ready then .next s
  else
    .next (s.modPort port fun hp =>
      let hp' := { hp with werr := hp.werr && !bit v 2, dberr := hp.dberr && !bit v 1 }
      if hp' = hp then hp else hp'.send 0)

def execHostRingHeadWrite (port ring v : Nat) (s : State) : Outcome State Fault Refusal :=
  if 2 ≤ port ∨ 3 ≤ ring then .fault .eventNotEnabled
  else if (s.port port).d3 ∨ !s.ready then .next s
  else
    .next ((s.modPort port fun hp => { hp with rings := Tab.modify hp.rings ring {} fun r => { r with head := v % 2 ^ 32 } }).flushRing
      port ring)

/-- Writes bytes of a register table from an offset on. -/
def putRegister (t : Tab (BitVec 8)) (off size : Nat) (v : Word) : Tab (BitVec 8) :=
  (List.range size).foldl (fun t i => Tab.set t (off + i) (byteOf (v.toNat / 256 ^ i))) t

/-- An 8-byte register after a write of 4 or 8 bytes at an offset. -/
def mergeRegister (old : Word) (off size : Nat) (v : Word) : Word :=
  if size = 8 then v
  else if off % 8 = 0 then word (bits old 63 32 * 2 ^ 32 + bits v 31 0)
  else word (bits v 31 0 * 2 ^ 32 + bits old 31 0)

/-- Sends the vectors that are pending and not masked. -/
def HostPort.sendPending (hp : HostPort) : HostPort :=
  (List.range 5).foldl (fun h i =>
    if h.msixPending / 2 ^ i % 2 = 1 ∧ !h.masked i then { h with msixPending := h.msixPending - 2 ^ i }.signal i else h) hp

/-- A memory window register as it reads back (R449). -/
def State.windowValue (s : State) (port : Nat) (v : Word) : Word :=
  let asid := bits v 59 48
  let held := s.jobs.any fun j => j.2.asid == asid && j.2.port == port && j.2.status == 0
  word (ofBool (bit v 63 && held) * 2 ^ 63 + ofBool (bit v 62) * 2 ^ 62 + asid * 2 ^ 48 + bits v 18 0)

/-- A register of a ring of a port (R445); the head has an event of its own. -/
def State.writeRing (s : State) (port ring off size : Nat) (v : Word) : Option State :=
  let change (f : HostRing → HostRing) : State :=
    (s.modPort port fun hp => { hp with rings := Tab.modify hp.rings ring {} f }).flushRing port ring
  match off / 8 with
  | 0 => some (change fun r => { r with base := mergeRegister r.base off size v &&& ~~~ (word 0xFFF) })
  | 1 => some (if off % 8 = 0 then change fun r => { r with size := bits v 4 0 } else s)
  | 2 => none
  | _ => some s

/-- A write of a register of BAR0 other than the command doorbell (R442); none where the register has an event of its own. DEDUCED (notes/assumptions/64.md). -/
def State.writeBar0 (s : State) (port off size : Nat) (v : Word) : Option State :=
  let set (f : HostPort → HostPort) : Option State := some (s.modPort port f)
  if off < 0x10 then none
  else if 0x20 ≤ off ∧ off < 0x28 then set fun hp => { hp with hwbase := mergeRegister hp.hwbase off size v &&& ~~~ (word 0xFFF) }
  else if 0x40 ≤ off ∧ off < 0x80 then set fun hp => { hp with cmdSlot := putRegister hp.cmdSlot (off - 0x40) size v }
  else if 0x100 ≤ off ∧ off < 0x160 then s.writeRing port ((off - 0x100) / 32) (off % 32) size v
  else if 0x1000 ≤ off ∧ off < 0x1400 then if off % 16 < 8 then none else if s.queueOpen (64 * port + (off - 0x1000) / 16) then some s else set (·.ignore)
  else if 0x2000 ≤ off ∧ off < 0x2200 then
    set fun hp => { hp with window := Tab.modify hp.window ((off - 0x2000) / 8) 0 fun w => s.windowValue port (mergeRegister w off size v) }
  else if 0x3000 ≤ off ∧ off < 0x3050 then set fun hp => { hp with msixTable := putRegister hp.msixTable (off - 0x3000) size v }.sendPending
  else if 0x100000 ≤ off ∧ off < 0x200000 then set fun hp => { hp with area := putRegister hp.area (off - 0x100000) size v }
  else some s

/-! ## Reads of BAR0 (R442 to R446, R458) -/

/-- The die that a host port stands on (R1). -/
def dieOfPort (port : Nat) : Nat := 2 * port

/-- The status register (R443). -/
def State.statusOf (s : State) (port : Nat) : Nat :=
  let hp := s.port port
  ofBool s.fatal * 2 ^ 63 + hp.gen % 16 * 2 ^ 44 + hp.width % 16 * 2 ^ 40 + ofBool hp.werr * 4 + ofBool hp.dberr * 2 + ofBool s.ready

/-- A register of a host ring (R445). -/
def HostRing.register (r : HostRing) (i : Nat) : Nat :=
  match i with | 0 => r.base.toNat | 1 => r.size | 2 => r.head | _ => r.tail

/-- The 16 bytes of a submission queue (R444): tail and ctl are write only. -/
def State.queueRegisters (s : State) (port q : Nat) : List Byte :=
  let x := s.subQ (64 * port + q)
  bytesLe 8 0 ++ bytesLe 4 x.head ++ bytesLe 4 (ofBool x.enabled + 2 * ofBool (s.job x.job).closed)

/-- A byte of BAR0 as the host reads it (R442); write-only and unassigned bytes read as zero. DESIGN CHOICE (notes/assumptions/64.md). -/
def State.bar0Byte (s : State) (port off : Nat) : Byte :=
  let hp := s.port port
  let of (v i : Nat) : Byte := byteOf (v / 256 ^ i)
  if off < 0x8 then of (s.statusOf port) off
  else if 0x10 ≤ off ∧ off < 0x18 then of (s.timeOf (dieOfPort port)) (off - 0x10)
  else if 0x20 ≤ off ∧ off < 0x28 then of hp.hwbase.toNat (off - 0x20)
  else if 0xC0 ≤ off ∧ off < 0x100 then of (hp.response.getD ((off - 0xC0) / 8) 0).toNat (off % 8)
  else if 0x100 ≤ off ∧ off < 0x160 then of ((Tab.getD hp.rings ((off - 0x100) / 32) {}).register (off % 32 / 8)) (off % 8)
  else if 0x1000 ≤ off ∧ off < 0x1400 then (s.queueRegisters port ((off - 0x1000) / 16)).getD (off % 16) 0
  else if 0x2000 ≤ off ∧ off < 0x2200 then of (s.windowValue port (Tab.getD hp.window ((off - 0x2000) / 8) 0)).toNat (off % 8)
  else if 0x3000 ≤ off ∧ off < 0x3050 then Tab.getD hp.msixTable (off - 0x3000) (if (off - 0x3000) % 16 = 12 then 1 else 0)
  else if 0x3800 ≤ off ∧ off < 0x3808 then of hp.msixPending (off - 0x3800)
  else if 0x100000 ≤ off ∧ off < 0x200000 then Tab.getD hp.area (off - 0x100000) 0
  else 0

/-- What a read of BAR0 by the host returns (R442, R458): all ones for a shape that is not an aligned one of 4 or 8 bytes. The read
changes nothing. Until READY is 1 the registers but status read as zero (R464). DESIGN CHOICE (notes/assumptions/64.md). -/
def State.readBar0 (s : State) (port off size : Nat) : List Byte :=
  if !((size == 4 || size == 8) && off % size == 0) then List.replicate size 0xFF
  else (List.range size).map fun i => if s.ready || off < 8 then s.bar0Byte port (off + i) else 0

/-! ## The memory window (R449) -/

/-- An error that AER notes in the uncorrectable error status (R441). PRESUMED (notes/assumptions/66.md). -/
def HostPort.note (hp : HostPort) (i : Nat) : HostPort := { hp with aer := hp.aer ||| 2 ^ i }

/-- A rejected access through the window: an Unsupported Request. -/
def HostPort.reject (hp : HostPort) : HostPort :=
  let hp := { hp with lastRead := none }.note 20
  if hp.werr then hp else { hp with werr := true }.send 0

/-- Class of the page that holds an address of an address space; none where it does not translate. -/
def State.classAt (s : State) (x : Accessor) (va : Nat) : Option Cls :=
  match s.locateVa x va false with | .at_ l _ => l.cls | _ => none

/-- A host read or write of `len` bytes at VA `va` under an ASID. DEDUCED (notes/assumptions/67.md). -/
def State.windowAccess (s : State) (port asid va len : Nat) (data : Option (List Byte)) : Outcome State Fault Refusal :=
  let x := { pageAccessor (768 + 4 * dieOfPort port) asid with source := some (13424 + port) }
  let a := word va
  let gone (t : State) : State := { t with remote := t.remote.filter fun e => e.1 != engineKey 0 (4 + port) && e.1 != engineKey 0 (6 + port) }
  let reject : Outcome State Fault Refusal := .next (gone (s.modPort port (·.reject)))
  let wait (t : Option State) : Outcome State Fault Refusal := .next { t.getD s with again := true }
  let device := s.classAt x va == some .device
  if device && !((len == 4 || len == 8) && va % len == 0) then reject
  else
    match data with
    | none =>
      match s.pull x a len (engineKey 0 (4 + port)) with
      | .bytes bs t => .next (t.modPort port fun hp => { hp with lastRead := some bs })
      | .wait t => wait t
      | .fail _ _ _ => reject
    | some bs =>
      if device then
        match s.outOfReach x .store (s.partsOf x a len), chunksAt (s.partsOf x a len) with
        | some (.wait t), _ => wait t
        | some _, _ => reject
        | none, [c] =>
          match region c.loc.pa with
          | .pushReg _ _ => reject
          | _ => .next (s.writeAt x.core c.loc.poa (cellsAt c.loc.pa bs))
        | none, _ => reject
      else
        match s.put x a bs (some (engineKey 0 (6 + port))) with
        | .done t => .next t
        | .wait t => wait t
        | .fail _ => reject

/-- A write carries at most the 512 bytes of the port's payload (R441). DEDUCED (notes/assumptions/67.md). -/
def execHostWindowAccess (port off len : Nat) (data : Option (List Byte)) (s : State) : Outcome State Fault Refusal :=
  let shape := match data with | some bs => bs.length == len && decide (len ≤ 512) | none => true
  if 2 ≤ port ∨ 2 ^ 36 ≤ off ∨ len = 0 ∨ 4096 < off % 4096 + len ∨ !shape then .fault .eventNotEnabled
  else if (s.port port).d3 ∨ !s.ready then .next s
  else
    let w := s.windowValue port (Tab.getD (s.port port).window (off / 2 ^ 30) 0)
    if !bit w 63 || (data.isSome && !bit w 62) then .next (s.modPort port (·.reject))
    else s.windowAccess port (bits w 59 48) (bits w 18 0 * 2 ^ 30 + off % 2 ^ 30) len data

/-! ## Reads of host memory (R230, R449) -/

/-- The parts that wait under a number for slot `g`: of its waiting instruction, of an asynchronous load, of a body. -/
def State.partsUnder (s : State) (g id : Nat) : List Part :=
  let sl := s.slot g
  (match sl.pending with | some p => if p.id = id then p.parts else [] | none => []) ++
  (sl.outstanding.filter (·.id == id)).flatMap (·.parts) ++ (s.sendings.filter (·.id == id)).flatMap (·.parts)

/-- The answer of a host for a part: its bytes, or the fault of R449. -/
def answerPart (g uid : Nat) (r : HostRead) (data : Option (List Byte)) (p : Part) : Reply :=
  let i := (r.pas.findIdx? (· == p.pa)).getD 0
  { slot := g, uid := uid, id := r.id, off := p.off, bytes := ((data.getD []).drop i).take p.n
    failed := if data.isSome then none else some (0x14, 0, 4), poa := r.pas.head?.map fun a => poaOfRegion (region a) }

/-- A read of host memory ends: with its bytes, or with a failure. The answer is sent to each part that waits for it.
DEDUCED (notes/assumptions/68.md). -/
def State.endHostRead (s : State) (r : HostRead) (data : Option (List Byte)) : State :=
  match r.who with
  | none => { s with hostData := Tab.set s.hostData r.id (data.map fun bs => r.pas.zip bs) }
  | some (g, uid) =>
    let ps := (s.partsUnder g r.id).filter fun p => !p.answered && r.pas.contains p.pa
    { s with replies := s.replies ++ ps.map (answerPart g uid r data) }

/-- Reads of host memory through a port. -/
def HostRead.through (r : HostRead) (port : Nat) : Bool :=
  match r.pas with | a :: _ => region a == .hostWindow port | [] => false

/-- A read of host memory has left its core and has a tag, of which the port has 1,024 (R441): the release that it waits for has
completed (R252), and no held store of the core to its bytes is still to leave. -/
def State.hostReadLeft (s : State) (r : HostRead) : Bool :=
  r.gate == [] &&
  [0, 1].all (fun p => !r.through p || decide (((s.hostReads.takeWhile (· != r)).filter fun x => x.through p).length < 1024)) &&
  !((s.core r.core).wb.any fun e => e.closed && r.pas.any e.covers)

def execHostReadCompletion (i : Nat) (ok : Bool) (data : List Byte) (s : State) : Outcome State Fault Refusal :=
  match s.hostReads[i]? with
  | none => .fault .eventNotEnabled
  | some r =>
    when (s.hostReadLeft r && (!ok || data.length == r.pas.length))
      ({ s with hostReads := dropAt s.hostReads i }.endHostRead r (if ok then some data else none))

/-- DEDUCED (notes/assumptions/68.md). DEDUCED (notes/assumptions/89.md). -/
def execHostCompletionTimeout (i : Nat) (s : State) : Outcome State Fault Refusal :=
  match s.hostReads[i]? with
  | none => .fault .eventNotEnabled
  | some r =>
    let t := [0, 1].foldl (fun t p => if r.through p then t.modPort p (·.note 14) else t) s
    when (s.hostReadLeft r) ({ t with hostReads := dropAt s.hostReads i }.endHostRead r none)

/-! ## Reset and configuration of a port (R464, R465) -/

/-- Pages whose contents lie in the memory of a host that is not reached any more (R400). -/
def State.loseHost (s : State) (port : Nat) : State :=
  let asids := (s.jobs.filter fun j => j.2.port == port).map (·.2.asid)
  { s with pages := s.pages.each fun _ p => if p.onHost.isSome && asids.contains p.asid then { p with fate := 2 } else p }

/-- The rate and the width that a port's link has trained to (R1, R443). DESIGN CHOICE (notes/assumptions/99.md). -/
def State.trainPort (s : State) (port : Nat) : State :=
  s.modPort port fun hp => { hp with gen := 3 + (s.free (2 * port)).toNat % 4, width := (s.free (2 * port + 1)).toNat % 4 }

def execHostPortReset (port : Nat) (s : State) : Outcome State Fault Refusal :=
  if 2 ≤ port then .fault .eventNotEnabled
  else
    let jobs := (s.jobs.filter fun j => j.2.port == port && j.2.status == 0).map (·.1)
    let t := (jobs.foldl (fun t j => t.cancelObjectNow .job j) s).loseHost port
    let lost := t.hostReads.filter (·.through port)
    let t := lost.foldl (fun t r => t.endHostRead r none) { t with hostReads := t.hostReads.filter fun r => !r.through port }
    .next ({ t with ports := Tab.set t.ports port {}, subQs := t.subQs.each fun q x => if q / 64 = port then {} else x }.trainPort port)

/-- A configuration write: places of the controls are those of the PCIe capabilities as this model lays them out.
PRESUMED (notes/assumptions/66.md). -/
def HostPort.configure (hp : HostPort) (reg v : Nat) : HostPort :=
  { hp with
    config := Tab.set hp.config reg v
    atomicsEnabled := if reg = 0x68 then v / 64 % 2 == 1 else hp.atomicsEnabled
    d3 := if reg = 0x84 then v % 4 == 3 else hp.d3
    msixOn := if reg = 0xB0 then v / 2 ^ 31 % 2 == 1 else hp.msixOn
    msixMasked := if reg = 0xB0 then v / 2 ^ 30 % 2 == 1 else hp.msixMasked
    aer := if reg = 0x104 then (word hp.aer &&& ~~~(word v)).toNat else hp.aer }.sendPending

/-- PRESUMED (notes/assumptions/66.md). -/
def execConfigurationRequest (port reg : Nat) (value : Option Nat) (s : State) : Outcome State Fault Refusal :=
  if 2 ≤ port then .fault .eventNotEnabled
  else if !s.ready then .next (s.modPort port fun hp => { hp with lastConfig := none })
  else
    .next (s.modPort port fun hp =>
      match value with
      | some v => { hp.configure reg v with lastConfig := some 0 }
      | none => { hp with lastConfig := some (if reg = 0x104 then hp.aer else Tab.getD hp.config reg ((s.free 0).toNat % 2 ^ 32)) })

end Sys2Proof.Machine
end

