-- ==== Sys2Proof/Machine/EvFabric.lean ====
section
/-! DEFINITION. The fabric (R447, R450 to R455), the links between the dies (R434, R438) and the alignment of time (R456). -/

namespace Sys2Proof.Machine

open Host

/-! ## Commands of the host (R447, R451) -/

/-- The lowest number below a bound that a table does not hold. -/
def lowestFree {α : Type} (t : Tab α) (n : Nat) : Option Nat := (List.range n).find? fun i => (Tab.get? t i).isNone

def execFabricExport (port seq job va bytes perm : Nat) (s : State) : Outcome State Fault Refusal :=
  command s port seq (onJob s port job fun j =>
    let lo := va / 65536 * 65536
    if bytes = 0 ∨ 4 ≤ perm ∨ !j.covers lo (ceilDiv (va + bytes) 65536 * 65536 - lo) then .refused 1
    else
      match lowestFree s.exports 16 with
      | none => .refused 2
      | some e =>
        .done { s with exports := Tab.set s.exports e { job := job, va := va, bytes := bytes, r := perm % 2 == 1, w := perm / 2 == 1 } } e 0)

/-- The key of a port's read of the accelerator IDs of a group. -/
def groupKey (port : Nat) : Nat := engineKey 0 (8 + port)

/-- What the command for a group comes to once its IDs are there; a failed read is an invalid argument.
DEDUCED (notes/assumptions/84.md). -/
def State.groupAnswer (s : State) (port job n : Nat) : Answer :=
  match Tab.get? s.hostData (groupKey port) with
  | none => .again s (.group job n)
  | some none => .refused 1
  | some (some cells) =>
    let ids := (List.range n).map fun i => fieldLe (cells.map fun c : Host.Cell => c.2) (2 * i) 2
    if !ids.all fun i => decide (i < 1024) then .refused 1
    else
      match lowestFree s.groups 256 with
      | none => .refused 2
      | some g => .done { s with groups := Tab.set s.groups g (job, ids), hostData := Tab.del s.hostData (groupKey port) } g 0

/-- The n accelerator IDs of 2 bytes are read at a bus address of the port, which the addresses of the read name only by their
count. -/
def State.readGroup (s : State) (port n : Nat) (bus : Word) : State :=
  let r : HostRead := { who := none, pas := (List.range (2 * n)).map (0x200000000000 + port * 2 ^ 43 + ·), id := groupKey port
                        core := 768 + 4 * dieOfPort port, born := s.nextId, bus := (List.range (2 * n)).map (bus.toNat + ·) }
  { s with hostData := Tab.del s.hostData (groupKey port), hostReads := s.hostReads ++ [r] }

def execFabricGroup (port seq job n : Nat) (bus : Word) (s : State) : Outcome State Fault Refusal :=
  command s port seq (onJob s port job fun _ =>
    if n = 0 ∨ 1024 < n then .refused 1 else .again (s.readGroup port n bus) (.group job n))

/-- A range of a job lies in its pages of normal class. -/
def Job.normalAt (j : Job) (va : Nat) : Bool :=
  j.ranges.any fun r => decide (r.va ≤ va) && decide (va < r.va + r.bytes) && leafCls r.attrs == .normal

def execFabricRing (port seq job die ring va doorbell : Nat) (s : State) : Outcome State Fault Refusal :=
  command s port seq (onJob s port job fun j =>
    let taken := match Tab.get? (s.die die).rings ring with
      | some r => r.job != job && (s.job r.job).status == 0
      | none => false
    if 4 ≤ die ∨ 4 ≤ ring ∨ va % 16384 ≠ 0 ∨ !j.normalAt va ∨ !rangeOk doorbell 65536 ∨ j.ranges.any (·.meets doorbell 65536) then
      .refused 1
    else if taken then .refused 3
    else
      let p : LeafParts := { cls := 2, r := true, w := true, frame := doorbellPa die ring / 65536 }
      match s.mapPage j.asid doorbell p 0 0 with
      | none => .refused 2
      | some t =>
        let t := t.modDie die fun d => { d with rings := Tab.set d.rings ring { job := job, va := va } }
        .done (t.modJob job fun j => { j with ranges := j.ranges ++ [{ va := doorbell, bytes := 65536, attrs := leafOf p }] }) 0 0)

def execAcceleratorId (port seq id : Nat) (s : State) : Outcome State Fault Refusal :=
  command s port seq (
    if 1024 ≤ id then .refused 1
    else
      match s.accelId with
      | none => .done { s with accelId := some id } 0 0
      | some x => if x = id then .done s 0 0 else .refused 3)

/-! ## Descriptors (R452) -/

/-- A descriptor. -/
structure Descriptor where
  op : Nat
  element : Nat
  operation : Nat
  target : Nat
  export_ : Nat
  root : Nat
  local_ : Nat
  remote : Nat
  length : Nat
  operand : Word
  compare : Word
  done : Nat
  reserved : Bool
  deriving DecidableEq, Repr

/-- The descriptor in 64 bytes. -/
def descriptorOf (b : List Byte) : Descriptor :=
  let f (o n : Nat) : Nat := fieldLe b o n
  { op := f 0 1, element := f 1 1 % 8, operation := f 1 1 / 8 % 8, target := f 2 2, export_ := f 4 1, root := f 5 1, local_ := f 8 8
    remote := f 16 8, length := f 24 8, operand := word (f 32 8), compare := word (f 40 8), done := f 48 8
    reserved := f 6 2 != 0 || f 56 8 != 0 || decide (64 ≤ f 1 1) }

/-- Bytes of an element type. -/
def elementBytes (t : Nat) : Nat := match t with | 1 => 2 | 3 => 8 | _ => 4

/-- The ranks of a descriptor's group, and the own rank; none where the job has no such group or the module is not in it. -/
def State.ranksOf (s : State) (job group : Nat) : Option (List Nat × Nat) :=
  match Tab.get? s.groups group, s.accelId with
  | some (j, ids), some me => if j = job then (ids.findIdx? (· == me)).map fun r => (ids, r) else none
  | _, _ => none

/-- A descriptor that its engine takes. DEDUCED (notes/assumptions/69.md). -/
def State.validDescriptor (s : State) (job : Nat) (d : Descriptor) : Bool :=
  !d.reserved && decide (d.element ≤ 3) &&
  (if d.op = 1 ∨ d.op = 2 ∨ d.op = 3 ∨ d.op = 4 then
    decide (d.target < 1024) && decide (d.export_ < 16) && (d.op != 4 || d.length == 64) &&
    (d.op != 3 || (decide (d.operation ≤ 4) && decide (2 ≤ d.element)))
  else
    (d.op == 17 || d.op == 19 || ((d.op == 16 || d.op == 18) && decide (d.operation ≤ 2))) &&
    match s.ranksOf job d.target with
    | some (ids, _) => d.op != 19 || decide (d.root < ids.length)
    | none => false)

/-- What an engine finds at the head of a ring. -/
inductive CommandHead where
  | empty
  | wait (s : Option State)
  /-- Status with which it completes at once, and the VA of its completion word. -/
  | over (status done : Nat)
  | run (d : List Byte)

/-- The engine of a die as it makes accesses for a job. -/
def fabricAccessor (die asid : Nat) : Accessor := pageAccessor (768 + 4 * die) asid

/-- Key of access `k` of a command. -/
def fabricKey (die ring seq k : Nat) : Nat := engineKey 0 (2 ^ 8 + (4 * seq + k) * 64 + 4 * die + ring)

/-- The head of a ring (R447, R452). DEDUCED (notes/assumptions/69.md). -/
def State.fabricHead (s : State) (die ring : Nat) (f : FabRing) : CommandHead :=
  if f.head = f.tail then .empty
  else
    match s.pull (fabricAccessor die (s.job f.job).asid) (word (f.va + 64 * (f.head % 256))) 64 (fabricKey die ring f.head 0) with
    | .wait t => .wait t
    | .fail _ _ _ => .over 3 0
    | .bytes b _ =>
      let d := descriptorOf b
      if s.accelId.isNone then .over 1 d.done
      else if s.validDescriptor f.job d then .run b else .over 3 d.done

/-- Changes a command ring. -/
def State.modCommands (s : State) (die ring : Nat) (f : FabRing → FabRing) : State :=
  s.modDie die fun x => { x with rings := match Tab.get? x.rings ring with | some r => Tab.set x.rings ring (f r) | none => x.rings }

/-- What was asked for on behalf of a command is forgotten. -/
def State.forgetCommand (s : State) (die ring seq : Nat) : State :=
  let mine (k : Nat) : Bool := (List.range 3).any fun i => k == fabricKey die ring seq i
  { s with remote := s.remote.filter fun e => !mine e.1, hostData := s.hostData.filter fun e => !mine e.1 }

/-- The transfer of a command is done: its word is still to be written. -/
def State.finishCommand (s : State) (die ring seq status done : Nat) : State :=
  (s.modCommands die ring fun f => { f with running := Tab.del f.running seq, finished := f.finished ++ [(seq, status, done)] }).forgetCommand die ring seq

/-- The engine has taken the command at the head of a ring. -/
def FabRing.next (f : FabRing) : FabRing := { f with head := (f.head + 1) % 2 ^ 32 }

/-- Cuts of `n` bytes into requests of up to 256 bytes (R450): offset and bytes of each. -/
def cutsOf (n : Nat) : List (Nat × Nat) := (List.range (ceilDiv n 256)).map fun i => (256 * i, Nat.min 256 (n - 256 * i))

/-- The bytes that stand for the operands of an atomic on its way: the operation, the operand and the compare value. -/
def Descriptor.operands (d : Descriptor) : List Byte :=
  let n := elementBytes d.element
  bytesLe 1 d.operation ++ bytesLe n d.operand.toNat ++ bytesLe n d.compare.toNat

/-- The requests of a command of operation 1 to 4, whose local bytes are given, or of a collective (R450, R452). -/
def Descriptor.requests (d : Descriptor) (bs : List Byte) : List FabricRequest :=
  let of (o n : Nat) (b : List Byte) : FabricRequest := { op := d.op, target := d.target, export_ := d.export_, offset := d.remote + o, length := n, bytes := b }
  match d.op with
  | 1 => (cutsOf d.length).map fun c => of c.1 c.2 []
  | 3 => [of 0 (elementBytes d.element) d.operands]
  | _ => (cutsOf bs.length).map fun c => of c.1 c.2 ((bs.drop c.1).take c.2)

/-- What leaves for another module or a group, spread over the two fabric ports of a die (R450).
DESIGN CHOICE (notes/assumptions/90.md). -/
def State.send (s : State) (die : Nat) (rs : List FabricRequest) : State :=
  { s with sentOut := s.sentOut ++ rs.mapIdx fun i r => { r with port := 2 * die + i % 2 } }

/-- A command starts (R453): the bytes of a write or a message are read, and its requests leave; a collective begins. -/
def State.startCommand (s : State) (die ring : Nat) (f : FabRing) (b : List Byte) : State :=
  let d := descriptorOf b
  let run (t : State) (bs : List Byte) : State :=
    ((t.modCommands die ring fun x => { x.next with running := Tab.set x.running f.head b }).forgetCommand die ring f.head).send die
      (if d.op ≤ 4 then d.requests bs else [])
  if d.op = 2 ∨ d.op = 4 then
    match s.pull (fabricAccessor die (s.job f.job).asid) (word d.local_) d.length (fabricKey die ring f.head 1) with
    | .bytes bs t => run t bs
    | .wait t => t.getD s
    | .fail _ _ _ => (s.modCommands die ring (·.next)).finishCommand die ring f.head 3 d.done
  else run s []

/-- The engine of a die goes on with the head of a ring, in ring order (R453). -/
def State.takeCommand (s : State) (die ring : Nat) : State :=
  match Tab.get? (s.die die).rings ring with
  | none => s
  | some f =>
    match s.fabricHead die ring f with
    | .empty => s
    | .wait t => t.getD s
    | .over status done => (s.modCommands die ring (·.next)).finishCommand die ring f.head status done
    | .run b => s.startCommand die ring f b

/-- The fabric engines of the dies go on with their rings. -/
def State.fabricWork (s : State) : State :=
  (s.dies.flatMap fun d => d.2.rings.keys.map fun r => (d.1, r)).foldl (fun s x => s.takeCommand x.1 x.2) s

/-- The command of a ring that an answer of the fabric is for: of those that have started and that it fits, any may be the one
(R453). DESIGN CHOICE (notes/assumptions/69.md). -/
def FabRing.pick (f : FabRing) (p : Descriptor → Bool) : Option (Nat × Descriptor) :=
  (f.running.filter fun e => p (descriptorOf e.2)).foldl (fun b e => match b with
    | none => some (e.1, descriptorOf e.2)
    | some x => if Config.schedule (2 ^ 128 + e.1) < Config.schedule (2 ^ 128 + x.1) then some (e.1, descriptorOf e.2) else some x) none

/-- An answer of the fabric for a command that fits it: its ring, its sequence number and its descriptor. -/
def fabricOp (die ring : Nat) (p : Descriptor → Bool) (s : State) (f : FabRing → Nat → Descriptor → Outcome State Fault Refusal) :
    Outcome State Fault Refusal :=
  match Tab.get? (s.die die).rings ring with
  | none => .fault .eventNotEnabled
  | some r => match r.pick p with | some (seq, d) => f r seq d | none => .fault .eventNotEnabled

/-- Reads local bytes for a command. -/
def localRead (s : State) (die ring : Nat) (r : FabRing) (seq : Nat) (d : Descriptor) (va n : Nat)
    (f : List Byte → State → Outcome State Fault Refusal) : Outcome State Fault Refusal :=
  match s.pull (fabricAccessor die (s.job r.job).asid) (word va) n (fabricKey die ring seq 1) with
  | .bytes bs t => f bs t
  | .wait t => .next { t.getD s with again := true }
  | .fail _ _ _ => .next (s.finishCommand die ring seq 3 d.done)

/-- Writes local bytes for a command, which is then done. -/
def localWrite (s : State) (die ring : Nat) (r : FabRing) (seq : Nat) (d : Descriptor) (va : Nat) (bs : List Byte) : Outcome State Fault Refusal :=
  match s.put (fabricAccessor die (s.job r.job).asid) (word va) bs (some (fabricKey die ring seq 2)) with
  | .done t => .next (t.finishCommand die ring seq 0 d.done)
  | .wait t => .next { t.getD s with again := true }
  | .fail _ => .next (s.finishCommand die ring seq 3 d.done)

/-! ## The engine (R452) -/

def execFabricDoorbellWrite (die ring tail : Nat) (s : State) : Outcome State Fault Refusal :=
  when (Tab.get? (s.die die).rings ring).isSome (s.ringDoorbell die ring (tail % 2 ^ 32) none)

def execFabricRead (die ring : Nat) (ok : Bool) (data : List Byte) (s : State) : Outcome State Fault Refusal :=
  fabricOp die ring (fun d => d.op == 1 && (!ok || data.length == d.length)) s fun r seq d =>
    if ok then localWrite s die ring r seq d d.local_ data else .next (s.finishCommand die ring seq 1 d.done)

def execFabricWrite (die ring : Nat) (ok : Bool) (s : State) : Outcome State Fault Refusal :=
  fabricOp die ring (fun d => d.op == 2) s fun _ seq d => .next (s.finishCommand die ring seq (ofBool (!ok)) d.done)

def execFabricAtomic (die ring : Nat) (ok : Bool) (old : Word) (s : State) : Outcome State Fault Refusal :=
  fabricOp die ring (fun d => d.op == 3) s fun r seq d =>
    if ok then localWrite s die ring r seq d d.local_ (bytesLe 8 (old.toNat % 2 ^ (8 * elementBytes d.element)))
    else .next (s.finishCommand die ring seq 1 d.done)

def execFabricMessage (die ring : Nat) (ok : Bool) (s : State) : Outcome State Fault Refusal :=
  fabricOp die ring (fun d => d.op == 4) s fun _ seq d => .next (s.finishCommand die ring seq (ofBool (!ok)) d.done)

/-! ## Collectives (R454) -/

/-- One element combined with another. -/
def combineElements (element operation x y : Nat) : Nat :=
  match element with
  | 0 => match operation with | 0 => (fp32.add 0 (fp32.decode x) (fp32.decode y)).1 | k => (fp32.minMax (k == 2) x y).1
  | 1 => match operation with | 0 => (bf16.add 0 (bf16.decode x) (bf16.decode y)).1 | k => (bf16.minMax (k == 2) x y).1
  | e =>
    let w := if e = 2 then 32 else 64
    let less := decide (signedOf w x < signedOf w y)
    match operation with
    | 0 => (x + y) % 2 ^ w
    | 1 => if less then x else y
    | _ => if less then y else x

/-- The elements of all ranks combined in rank order. -/
def reduceRanks (element operation : Nat) : List (List Byte) → List Byte
  | [] => []
  | b :: r =>
    let w := elementBytes element
    (List.range (b.length / w)).flatMap fun i =>
      bytesLe w (r.foldl (fun x c => combineElements element operation x (fieldLe c (i * w) w)) (fieldLe b (i * w) w))

/-- The named buffer of a collective whose transfer is done (R264). -/
def State.noteBuffer (s : State) (die ring seq va n : Nat) : State :=
  s.modDie die fun x => { x with rings := match Tab.get? x.rings ring with
    | some f => Tab.set x.rings ring { f with buffers := Tab.set f.buffers seq (va, n) }
    | none => x.rings }

/-- A collective: the bytes that each rank contributes, `n` each, with the own ones as they stand at `own`; then what the
module leaves in memory. -/
def collective (die ring op : Nat) (s : State) (ranks : List (List Byte)) (size : Nat → Nat → Nat) (own : Nat → Nat → Nat)
    (result : Nat → Descriptor → List (List Byte) → Nat × List Byte) : Outcome State Fault Refusal :=
  fabricOp die ring (fun d => d.op == op) s fun r seq d =>
    match s.ranksOf r.job d.target with
    | none => .fault .eventNotEnabled
    | some (ids, me) =>
      let share := d.length * elementBytes d.element
      let n := size ids.length share
      if ranks.length ≠ ids.length ∨ !ranks.all (·.length == n) then .fault .eventNotEnabled
      else
        localRead s die ring r seq d (d.local_ + own me share) n fun bs t =>
          let (off, out) := result me d (putAt ranks me bs)
          match localWrite t die ring r seq d (d.local_ + off) out with
          | .next u => .next (if u.again then u else (u.send die (d.requests bs)).noteBuffer die ring seq d.local_ (Nat.max n out.length))
          | o => o

def execAllReduce (die ring : Nat) (ranks : List (List Byte)) (s : State) : Outcome State Fault Refusal :=
  collective die ring 16 s ranks (fun _ b => b) (fun _ _ => 0) fun _ d rs => (0, reduceRanks d.element d.operation rs)

def execAllGather (die ring : Nat) (ranks : List (List Byte)) (s : State) : Outcome State Fault Refusal :=
  collective die ring 17 s ranks (fun _ b => b) (fun me b => me * b) fun _ _ rs => (0, rs.flatten)

def execReduceScatter (die ring : Nat) (ranks : List (List Byte)) (s : State) : Outcome State Fault Refusal :=
  collective die ring 18 s ranks (fun n b => n * b) (fun _ _ => 0) fun me d rs =>
    let b := d.length * elementBytes d.element
    (me * b, reduceRanks d.element d.operation (rs.map fun x => (x.drop (me * b)).take b))

def execBroadcast (die ring : Nat) (root : List Byte) (s : State) : Outcome State Fault Refusal :=
  fabricOp die ring (fun d => d.op == 19) s fun r seq d =>
    match s.ranksOf r.job d.target with
    | none => .fault .eventNotEnabled
    | some (_, me) =>
      let n := d.length * elementBytes d.element
      if me = d.root then
        localRead s die ring r seq d d.local_ n fun bs t =>
          .next (((t.send die (d.requests bs)).finishCommand die ring seq 0 d.done).noteBuffer die ring seq d.local_ n)
      else if root.length ≠ n then .fault .eventNotEnabled
      else
        match localWrite s die ring r seq d d.local_ root with
        | .next u => .next (if u.again then u else u.noteBuffer die ring seq d.local_ n)
        | o => o

/-! ## Completion (R453, R455) -/

/-- The word of a completed command. -/
def completionWord (status seq : Nat) : Word := word (2 ^ 63 + status * 2 ^ 56 + seq % 2 ^ 32)

/-- A completed command leaves its ring; the releases that wait for it go on. -/
def State.fabricOver (s : State) (die ring seq : Nat) : State :=
  let s := s.modDie die fun x => { x with rings := match Tab.get? x.rings ring with
    | some f => Tab.set x.rings ring { f with finished := f.finished.filter fun q => q.1 != seq, buffers := Tab.del f.buffers seq }
    | none => x.rings }
  let cores : List Nat := match Tab.get? (s.die die).rings ring with
    | some (f : FabRing) => f.handed.map fun (h : Nat × Nat) => h.2
    | none => []
  let s := cores.foldl State.settle s
  let past (h : Nat × Nat) : Bool := s.fabricDone (die, ring, h.1)
  s.modDie die fun x => { x with rings := match Tab.get? x.rings ring with
    | some f => Tab.set x.rings ring { f with handed := f.handed.filter fun h => !past h }
    | none => x.rings }

/-- A core's write to one of these bytes has not been accepted. -/
def State.writesOpen (s : State) (pas : List Nat) : Bool :=
  (s.net.any fun m => match m.body with
    | .write _ | .atomic _ _ _ _ _ => pas.any (m.body.covers ·)
    | _ => false) || s.cores.any fun c => c.2.wb.any fun e => pas.any (e.covers ·)

/-- The completion of a collective acts on this module, which takes part in it, as a release and an acquire for the named buffer
(R264): the earlier writes of its cores to it are accepted, and their L1 sectors of it become invalid; false while a write is still
to be accepted. DEDUCED (notes/assumptions/100.md). -/
def State.orderBuffer (s : State) (die seq : Nat) (r : FabRing) : State × Bool :=
  match Tab.get? r.buffers seq with
  | some (va, n) =>
    let pas := (chunksAt (s.partsOf (fabricAccessor die (s.job r.job).asid) (word va) n)).flatMap Chunk.pas
    let s := s.cores.foldl (fun s c => s.sendBytes c.1 pas) s
    if s.writesOpen pas then (s, false)
    else ({ s with cores := s.cores.each fun _ c => c.dropSectors fun l sec => !l.ownHome && pas.any fun a => a / 32 == sec }, true)
  | none => (s, true)

/-- Writes a command's completion word, and the command is over. -/
def State.completeFabric (s : State) (die ring : Nat) (r : FabRing) (seq status done : Nat) : Outcome State Fault Refusal :=
  match s.orderBuffer die seq r with
  | (s, false) => .next { s with again := true }
  | (s, true) =>
    if done = 0 then .next (s.fabricOver die ring seq)
    else
      match s.put (fabricAccessor die (s.job r.job).asid) (word done) (bytesLe 8 (completionWord status seq).toNat) (some (fabricKey die ring seq 3)) with
      | .done t => .next (t.fabricOver die ring seq)
      | .wait t => .next { t.getD s with again := true }
      | .fail _ => .next (s.fabricOver die ring seq)

def execFabricCommandComplete (die ring seq : Nat) (s : State) : Outcome State Fault Refusal :=
  match Tab.get? (s.die die).rings ring with
  | none => .fault .eventNotEnabled
  | some r =>
    match r.finished.find? (·.1 == seq) with
    | some (_, status, done) => s.completeFabric die ring r seq status done
    | none => .fault .eventNotEnabled

/-- DEDUCED (notes/assumptions/89.md). -/
def execFabricCommandTimeout (die ring seq : Nat) (s : State) : Outcome State Fault Refusal :=
  match (Tab.get? (s.die die).rings ring).bind fun r => Tab.get? r.running seq with
  | some b => .next (s.finishCommand die ring seq 2 (descriptorOf b).done)
  | none => .fault .eventNotEnabled

/-! ## Accesses from other modules (R447, R451) -/

/-- The answer to another module: its status and its data. What was asked for on behalf of its access is forgotten. -/
def State.answerFabric (s : State) (src status : Nat) (bs : List Byte) : State :=
  { s.send 0 [{ op := 0, target := src, length := bs.length, bytes := bytesLe 1 status ++ bs }] with remote := s.remote.filter fun e => !([1, 2, 3].map (engineKey 0)).contains e.1 }

/-- The access lies in an export with its permission. -/
def Export.allows (e : Export) (off : Nat) (x : FabricAccess) : Bool :=
  match x with
  | .read n => e.r && decide (off + n ≤ e.bytes)
  | .write bs => e.w && decide (off + bs.length ≤ e.bytes)
  | .atomic _ w _ _ => e.r && e.w && decide (off + w ≤ e.bytes)

/-- Bytes of an access. -/
def accessSize (x : FabricAccess) : Nat := match x with | .read n => n | .write bs => bs.length | .atomic _ w _ _ => w

/-- An atomic that a module asks for. -/
def amoOf (op : FabricAtomicOp) (compare : Word) : AmoOp :=
  match op with | .add => .add | .swap => .swp | .cas => .cas compare | .min => .min | .max => .max

/-- An atomic of another module at its point of acceptance (R261). -/
def State.remoteAtomic (s : State) (src : Nat) (acc : Accessor) (a : Word) (op : AmoOp) (w : Nat) (v : Word) : Outcome State Fault Refusal :=
  let ps := s.partsOf acc a w
  let reject : Outcome State Fault Refusal := .next (s.answerFabric src 1 [])
  match s.outOfReach acc (.atomic (hostAtomic op)) ps, chunksAt ps with
  | some (.wait t), _ => .next { t.getD s with again := true }
  | some _, _ => reject
  | none, [c] =>
    if c.loc.cls = some .seal then reject else
    let t : AType := if w = 4 then .i32 else .i64
    match region c.loc.pa with
    | .hostWindow _ =>
      let key := engineKey 0 3
      match Tab.get? s.hostData key with
      | some (some cells) => .next ({ s with hostData := Tab.del s.hostData key }.answerFabric src 0 (cells.map fun (c : Host.Cell) => c.2))
      | some none => .next ({ s with hostData := Tab.del s.hostData key }.answerFabric src 1 [])
      | none =>
        if s.hostReads.any (·.id == key) then .next { s with again := true }
        else
          let r : HostRead := { who := none, pas := (List.range w).map (c.loc.pa + ·), id := key
                                bus := (List.range w).map fun i => s.busAddress (c.loc.pa + i) }
          .next { (s.postToHost c.loc.pa (bytesLe w v.toNat) (some op)) with hostReads := s.hostReads ++ [r], again := true }
    | _ =>
      match s.lostIn [c] with
      | some _ => reject
      | none =>
        let (old, u) := s.doAtomic acc.core c.loc.poa c.loc.pa op t v
        .next (u.answerFabric src 0 (bytesLe w old))
  | none, _ => reject

/-- DEDUCED (notes/assumptions/70.md). -/
def execIncomingFabricAccess (src export_ off : Nat) (x : FabricAccess) (s : State) : Outcome State Fault Refusal :=
  let shape := match x with | .atomic _ w _ _ => w == 4 || w == 8 | _ => decide (accessSize x ≤ 256)
  if 1024 ≤ src ∨ !shape then .fault .eventNotEnabled
  else if s.accelId.isNone then .next s
  else
    match Tab.get? s.exports export_ with
    | none => .next (s.answerFabric src 1 [])
    | some e =>
      let acc := pageAccessor 768 (s.job e.job).asid
      let a := word (e.va + off)
      if !e.allows off x then .next (s.answerFabric src 1 [])
      else
        match x with
        | .read n =>
          match s.pull acc a n (engineKey 0 1) with
          | .bytes bs t => .next (t.answerFabric src 0 bs)
          | .wait t => .next { t.getD s with again := true }
          | .fail _ _ _ => .next (s.answerFabric src 1 [])
        | .write bs =>
          match s.put acc a bs (some (engineKey 0 2)) with
          | .done t => .next (t.answerFabric src 0 [])
          | .wait t => .next { t.getD s with again := true }
          | .fail _ => .next (s.answerFabric src 1 [])
        | .atomic op w v c => if a.toNat % w ≠ 0 then .next (s.answerFabric src 1 []) else s.remoteAtomic src acc a (amoOf op c) w v

/-- DEDUCED (notes/assumptions/70.md). -/
def execIncomingFabricMessage (src export_ : Nat) (dest : Word) (body : List Byte) (s : State) : Outcome State Fault Refusal :=
  if 1024 ≤ src ∨ body.length ≠ 64 then .fault .eventNotEnabled
  else if s.accelId.isNone then .next s
  else
    let c := bits dest 9 0
    match Tab.get? s.exports export_ with
    | none => .next (s.answerFabric src 1 [])
    | some e =>
      if bits dest 63 20 ≠ 0 ∨ bits dest 15 10 ≠ 0 ∨ 768 ≤ c then .next (s.answerFabric src 1 [])
      else
        let m : Mail := { core := c, box := bits dest 19 16, body := body, sender := 0, tip := 0, launch := e.job
                          fabric := some ((s.job e.job).asid, src), op := none, dieFrom := dieOfCore c }
        .next ((s.deliverMail m).answerFabric src (ofBool (!s.mailWelcome m)) [])

/-! ## Links (R434, R438) -/

/-- The module goes out of service (R438): every launch stops, without a record. DEDUCED (notes/assumptions/77.md). -/
def State.setFatal (s : State) : State :=
  { s with
    fatal := true, ready := false
    slots := s.slots.each fun _ (sl : Slot) => if sl.status = Status.empty then sl else { sl with status := .stopped } }.modPort 0 (·.send 0)
    |>.modPort 1 (·.send 0)

/-- A flit fails its CRC, or its replay does: whether a good replay came in between, so that the count begins again, is a free value.
DEDUCED (notes/assumptions/71.md). DESIGN CHOICE (notes/assumptions/88.md). -/
def execFlitCrcFailure (link : Nat) (s : State) : Outcome State Fault Refusal :=
  let n := if (s.free 0).toNat % 2 = 0 then 0 else Tab.getD s.links link 0
  when (decide (link < 4) && decide (Tab.getD s.links link 0 < 16)) { s with links := Tab.set s.links link (n + 1) }

/-- A link has retrained, or modules of its eave ports have failed, with so many at work at each end (R434, R438).
DEDUCED (notes/assumptions/71.md). -/
def execLinkRetrain (link working : Nat) (s : State) : Outcome State Fault Refusal :=
  if 4 ≤ link ∨ 12 < working ∨ (Tab.getD s.links link 0 < 16 ∧ Tab.getD s.linkWorking link 0 ≤ working) then .fault .eventNotEnabled
  else if working < 8 then .next s.setFatal
  else .next { s with links := Tab.set s.links link 0, linkWorking := Tab.set s.linkWorking link working }

/-! ## Time (R456) -/

/-- A skew near a free value that keeps any two dies within 2 ns. -/
def State.newSkew (s : State) (die : Nat) : Int :=
  let others := ([0, 1, 2, 3].filter (· != die)).map fun d => (s.die d).skew
  let v : Int := ((s.free 0).toNat % 5 : Nat) - 2
  let v := others.foldl (fun v x => if v < x - 2 then x - 2 else v) v
  others.foldl (fun v x => if x + 2 < v then x + 2 else v) v

def execTimeAlignment (die : Nat) (s : State) : Outcome State Fault Refusal :=
  when (decide (1 ≤ die) && decide (die ≤ 3)) (s.modDie die fun d => { d with skew := s.newSkew die, floor := s.timeOf die })

end Sys2Proof.Machine
end

