-- ==== Sys2Proof/Machine/EvBar.lean ====
section
/-! DEFINITION. The command doorbell of a host port, the commands that it starts from the command slot, and those that wait for their
action (R447). -/

namespace Sys2Proof.Machine

open Host

/-- The eight words of a port's command slot. -/
def HostPort.slotWords (hp : HostPort) : List Word :=
  (List.range 8).map fun k => word (numLe ((List.range 8).map fun i => Tab.getD hp.cmdSlot (8 * k + i) 0))

/-- A doorbell starts the command that stands in the slot. A doorbell with an opcode that no command has is answered with status 1.
DEDUCED (notes/assumptions/65.md). -/
def State.doorbell (s : State) (port seq : Nat) : Outcome State Fault Refusal :=
  let ws := (s.port port).slotWords
  let w (i : Nat) : Nat := (ws.getD i 0).toNat
  match w 0 with
  | 1 => execOpenJob port seq s
  | 2 => execBindHostQueue port seq (w 1) (w 2) (w 3) s
  | 3 => execBindDeviceQueue port seq (w 1) (w 2) (w 3) (w 4) s
  | 4 => execMapRange port seq (w 1) (w 2) (w 3) (ws.getD 4 0) (ws.getD 5 0) s
  | 5 => execUnmapRange port seq (w 1) (w 2) (w 3) s
  | 6 => execCloseJob port seq (w 1) s
  | 7 => execPreEmpt port seq (w 1) (w 2) (w 3) (w 4) s
  | 8 => execResume port seq (w 1) (w 2) (w 3) s
  | 9 => execCancelObject port seq (w 1) (w 2) (w 3) s
  | 10 => execFabricExport port seq (w 1) (w 2) (w 3) (w 4) s
  | 11 => execFabricGroup port seq (w 1) (w 2) (ws.getD 3 0) s
  | 12 => execFabricRing port seq (w 1) (w 2) (w 3) (w 4) (w 5) s
  | 13 => execAcceleratorId port seq (w 1) s
  | _ => command s port seq (.refused 1)

/-- DEDUCED (notes/assumptions/64.md). -/
def execBar0RegisterWrite (port off size : Nat) (v : Word) (s : State) : Outcome State Fault Refusal :=
  if 2 ≤ port then .fault .eventNotEnabled
  else if (s.port port).d3 || !((size == 4 || size == 8) && off % size == 0) || (!s.ready && off != 0x80) then .next s
  else if off = 0x80 then s.doorbell port v.toNat
  else occur (s.writeBar0 port off size v)

/-- The command of a port that waits is tried again. -/
def State.tryCommand (s : State) (port : Nat) : State :=
  let hp := s.port port
  match hp.busy, hp.waiting with
  | some seq, some w =>
    let a := match w with
      | .unmap job va bytes => s.unmapAnswer port job va bytes
      | .resume job level object => s.resumeAnswer port job level object
      | .cancel v k => s.cancelAnswer v k
      | .group job n => onJob s port job fun _ => s.groupAnswer port job n
    match a with
    | .done t x y => t.modPort port (·.respond seq 0 x y)
    | .refused n => s.modPort port (·.respond seq n 0 0)
    | .again t _ | .running t => t
  | _, _ => s

end Sys2Proof.Machine
end

