-- ==== Sys2Proof/Machine/EvModule.lean ====
section
/-! DEFINITION. The module as a whole: reset and power-up (R464), firmware (R466), attestation (R467, R468), power and error
counts (R470, R471), and the two ways in which an instruction cannot begin (R65, R66, R394). -/

namespace Sys2Proof.Machine

open Host

/-! ## Reset and power-up (R464, R466) -/

/-- The state after release of module reset: flash keeps its images, the fuses the rollback counter. -/
def State.afterReset (s : State) : State :=
  { State.reset with
    firmware := { slots := s.firmware.slots, rollback := s.firmware.rollback }
    inputs := s.inputs, tick := s.tick }

def execModuleReset (s : State) : Outcome State Fault Refusal := .next s.afterReset

/-- The slot with the valid image of the highest version that the rollback counter allows.
DESIGN CHOICE (notes/assumptions/73.md). -/
def Firmware.best (f : Firmware) : Option (Nat × Nat) :=
  let ok := (List.range f.slots.length).filterMap fun i => match f.slots[i]? with
    | some x => if x.valid && decide (f.rollback ≤ x.version) then some (i, x.version) else none
    | none => none
  ok.foldl (fun b x => match b with | none => some x | some y => if y.2 < x.2 then some x else some y) none

/-- Step 1: the boot ROM selects and verifies an image, and the host ports train their links. -/
def State.boot (s : State) : State :=
  match s.firmware.best with
  | none => s.setFatal
  | some (i, v) => ({ s with powerStep := 1, firmware := { s.firmware with running := some i, rollback := v } }.trainPort 0).trainPort 1

/-- Step 3: the eave ports train; of the 12 modules of each, which face those of the port at the link's other end, some may be left
out (R434). DESIGN CHOICE (notes/assumptions/112.md). -/
def State.trainLinks (s : State) : State :=
  { s with linkWorking := [0, 1, 2, 3].map fun k => (k, 12 - Config.modulesTrained (4 * s.tick + k) % 13) }

/-- Modules of an eave port that work (R434). -/
def State.modulesOf (s : State) (port : Nat) : Nat := Tab.getD s.linkWorking (linkAt port) 0

/-- What the measurements of an image hash, in their order (R467). -/
def Image.measured (x : Image) : List (List Byte) := [x.boot, x.runtime, x.config].map Config.sha384

/-- The image that runs. -/
def Firmware.image (f : Firmware) : Image := f.slots.getD (f.running.getD 0) { version := 0, valid := false }

/-- Step 6: the identity key from the seed of die 0, and the alias key from it and the measurements of what runs (R467). -/
def Firmware.derived (f : Firmware) : Firmware :=
  let key := Config.hkdf384 (Config.seed 0) []
  { f with identity := key, aliasKey := Config.hkdf384 key f.image.measured.flatten }

/-- What a power-up step does. -/
def State.powerAction (s : State) : State :=
  let done (s : State) : State := { s with powerStep := s.powerStep + 1 }
  match s.powerStep with
  | 0 => s.boot
  | 1 => done { s with timeBase := s.cycle }
  | 2 =>
    let t := s.trainLinks
    if t.linkWorking.any fun e => decide (e.2 < 8) then s.setFatal else done t
  | 3 => done { s with regulator := [], activates := [] }
  | 4 => done { s with mem := {}, lost := [], found := [] }
  | _ => ((done { s with ready := true, firmware := s.firmware.derived }).modPort 0 (·.send 0)).modPort 1 (·.send 0)

/-- A power-up step ends: it has completed, or it has failed (R464). DESIGN CHOICE (notes/assumptions/112.md). -/
def State.powerUp (s : State) : State := if Config.stepFails (8 * s.tick + s.powerStep) then s.setFatal else s.powerAction

/-- The module powers up. -/
def State.rising (s : State) : Bool := !s.ready && !s.fatal && decide (s.powerStep < 6)

/-- Limit of the step that is under way, in clock cycles from the release of reset (R1, R464).
DEDUCED (notes/assumptions/76.md). -/
def State.powerLimit (s : State) : Nat := [300, 320, 400, 900, 2400, 2500].getD s.powerStep 2500 * 1700000

/-- A step completes within its limit. DESIGN CHOICE (notes/assumptions/4.md). -/
def execPowerupStepComplete (s : State) : Outcome State Fault Refusal := when (s.rising && decide (s.cycle ≤ s.powerLimit)) s.powerUp

/-- DEDUCED (notes/assumptions/76.md). -/
def execPowerupStepTimeout (s : State) : Outcome State Fault Refusal :=
  when (s.rising && decide (s.powerLimit < s.cycle)) s.setFatal

/-- The bytes of an image that its digest covers, the version number first. DESIGN CHOICE (notes/assumptions/113.md). -/
def Image.signed (x : Image) : List Byte := bytesLe 4 x.version ++ x.boot ++ x.runtime ++ x.config

/-- The boot ROM's test of an image (R466): its key is the fused one, and its signature verifies over its digest. -/
def Image.verifies (x : Image) : Bool :=
  Config.sha384 x.key == Config.fusedKeyHash && Config.ecdsaVerifies x.key (Config.sha384 x.signed) x.signature

/-- The slot that does not run is written; an update that is interrupted leaves it invalid (R466).
DESIGN CHOICE (notes/assumptions/73.md). -/
def execFirmwareUpdate (complete : Bool) (version : Nat) (file : ImageFile) (s : State) : Outcome State Fault Refusal :=
  match s.firmware.running with
  | none => .fault .eventNotEnabled
  | some i =>
    let x : Image := { version := version, boot := file.boot, runtime := file.runtime, config := file.config, key := file.key,
                       signature := file.signature, valid := false }
    .next { s with firmware := { s.firmware with slots := putAt s.firmware.slots (1 - i) { x with valid := complete && x.verifies } } }

/-! ## Attestation (R467, R468) -/

/-- An answer on the management interface. -/
def State.reply (s : State) (bs : List Byte) : State := { s with firmware := { s.firmware with answers := s.firmware.answers ++ [bs] } }

/-- The certificates that the device shows: that of the identity key, then the alias key's public key, signed with the identity key
(R467). DESIGN CHOICE (notes/assumptions/113.md). -/
def Firmware.certificates (f : Firmware) : List Byte :=
  let k := Config.publicKey f.aliasKey
  Config.deviceCertificate ++ k ++ Config.ecdsaSign f.identity (Config.sha384 k)

/-- A response signed with the alias key over the requester's nonce (R468). -/
def Firmware.signs (f : Firmware) (body nonce : List Byte) : List Byte :=
  body ++ Config.ecdsaSign f.aliasKey (Config.sha384 (nonce ++ body))

/-- The answer that refuses a request. -/
def spdmError : List Byte := [0x7F]

/-- A request that the negotiation has come far enough for. -/
def spdm (s : State) (needs : Nat) (f : State) : Outcome State Fault Refusal :=
  when s.ready (if needs ≤ s.firmware.spdm then f else s.reply spdmError)

/-- The negotiation has reached a point. -/
def State.negotiated (s : State) (n : Nat) : State := { s with firmware := { s.firmware with spdm := n } }

/-- PRESUMED (notes/assumptions/74.md). -/
def execGetVersion (s : State) : Outcome State Fault Refusal := spdm s 0 ((s.reply [0x04, 0x12]).negotiated 1)

/-- PRESUMED (notes/assumptions/74.md). -/
def execGetCapabilities (s : State) : Outcome State Fault Refusal := spdm s 1 ((s.reply (0x61 :: Config.attested 1)).negotiated 2)

def execNegotiateAlgorithms (asym hash : Nat) (s : State) : Outcome State Fault Refusal :=
  spdm s 2 (if asym / 128 % 2 = 1 ∧ hash / 2 % 2 = 1 then (s.reply [0x63, 0x80, 0x02]).negotiated 3 else s.reply spdmError)

def execGetDigests (s : State) : Outcome State Fault Refusal := spdm s 3 (s.reply (0x01 :: Config.sha384 s.firmware.certificates))

def execGetCertificate (off len : Nat) (s : State) : Outcome State Fault Refusal :=
  spdm s 3 (s.reply (0x02 :: ((s.firmware.certificates.drop off).take len)))

def execChallenge (nonce : List Byte) (s : State) : Outcome State Fault Refusal := spdm s 3 (s.reply (s.firmware.signs (0x03 :: Config.sha384 s.firmware.certificates) nonce))

def execGetMeasurements (nonce : List Byte) (s : State) : Outcome State Fault Refusal := spdm s 3 (s.reply (s.firmware.signs (0x60 :: s.firmware.image.measured.flatten) nonce))

/-! ## Power and error counts (R470, R471) -/

/-- Sum of the samples of the last 10 ms. -/
def sumOf (l : List Nat) : Nat := l.foldl (· + ·) 0

/-- Throttles by one step: first the regulators, then the array duty. DESIGN CHOICE (notes/assumptions/75.md). -/
def Power.tighten (p : Power) (step : Nat) : Power :=
  if p.tight < 3 then { p with tight := p.tight + 1 } else { p with duty := Nat.max 125 (p.duty - step) }

/-- Releases by one step, in reverse order. -/
def Power.relax (p : Power) (step : Nat) : Power :=
  if p.duty < 1000 then { p with duty := Nat.min 1000 (p.duty + step) } else { p with tight := p.tight - 1 }

/-- The module power controller after a sample. DESIGN CHOICE (notes/assumptions/75.md). -/
def Power.sampled (p : Power) (dies hbm other : Nat) (temps : List Nat) (hbmTemp step : Nat) : Power :=
  let samples := ((dies + hbm + other) :: p.samples).take 10
  let (sum, n) := (sumOf samples, samples.length)
  let hot := temps.any fun t => decide (105 < t)
  let p := { p with samples := samples, total := sum / n, dies := dies, hbm := hbm, other := other, dieTemps := temps, hbmTemp := hbmTemp, hot := hot }
  if p.limit * n < sum ∨ hot then p.tighten step
  else if sum * 100 ≤ p.limit * n * 95 then p.relax step
  else p

def execPowerSample (dies hbm other : Nat) (dieTemps : List Nat) (hbmTemp : Nat) (s : State) : Outcome State Fault Refusal :=
  if dieTemps.length ≠ 4 then .fault .eventNotEnabled
  else
    let t := { s with power := s.power.sampled dies hbm other dieTemps hbmTemp (1 + (s.free 0).toNat % 875) }
    .next (if (hbmTemp :: dieTemps).any (fun x => decide (115 < x)) then t.setFatal else t)

def execPwrlimWrite (v : Word) (s : State) : Outcome State Fault Refusal :=
  .next { s with power := { s.power with limit := limitInRange (bits v 15 0) } }

def execErrorCountClear (uncorrectable : Bool) (v : Word) (s : State) : Outcome State Fault Refusal :=
  .next { s with power :=
    if uncorrectable then { s.power with errunc := (word s.power.errunc &&& ~~~v).toNat }
    else { s.power with errcor := (word s.power.errcor &&& ~~~v).toNat } }

/-! ## Instructions that cannot begin (R65, R66, R68, R394) -/

def execIllegalInstruction (cause detail word_ : Nat) (s : State) : Outcome State Fault Refusal :=
  if cause = 1 ∨ cause = 2 then conclude s (.error (trapAt cause (s.me.pc + word (2 * word_)) detail))
  else .fault .eventNotEnabled

def execFetchFault (s : State) : Outcome State Fault Refusal :=
  match s.fetch s.cur s.me.pc with
  | .fail (.trap t) => .next (s.takeTrap s.cur t)
  | .fail (.miss a) => .next (s.drop s.cur [a] true false)
  | .fail (.away va l) => .next ((s.awaitBlock s.cur va l).modMe (·.park .own))
  | _ => .fault .eventNotEnabled

end Sys2Proof.Machine
end

