-- ==== Sys2Proof/Machine/Dispatch.lean ====
section
/-! DEFINITION. The meaning of every instruction and every event: one arm for each constructor of Instr. -/

namespace Sys2Proof.Machine

open Host

def exec (i : Instr) (s : State) : Host.Outcome State Fault Refusal :=
  match i with
  | .add d a b => Sys2Proof.Machine.execAdd d a b s
  | .sub d a b => Sys2Proof.Machine.execSub d a b s
  | .and d a b => Sys2Proof.Machine.execAnd d a b s
  | .or d a b => Sys2Proof.Machine.execOr d a b s
  | .xor d a b => Sys2Proof.Machine.execXor d a b s
  | .shl d a b => Sys2Proof.Machine.execShl d a b s
  | .addi d a k => Sys2Proof.Machine.execAddi d a k s
  | .li d k => Sys2Proof.Machine.execLi d k s
  | .ld d a k => Sys2Proof.Machine.execLd d a k s
  | .st d a k => Sys2Proof.Machine.execSt d a k s
  | .bcc c a k => Sys2Proof.Machine.execBcc c a k s
  | .call k => Sys2Proof.Machine.execCall k s
  | .fma d a b => Sys2Proof.Machine.execFma d a b s
  | .slt d a b => Sys2Proof.Machine.execSlt d a b s
  | .mov d a => Sys2Proof.Machine.execMov d a s
  | .not d a => Sys2Proof.Machine.execNot d a s
  | .neg d a => Sys2Proof.Machine.execNeg d a s
  | .sx32 d a => Sys2Proof.Machine.execSx32 d a s
  | .zx32 d a => Sys2Proof.Machine.execZx32 d a s
  | .jr a => Sys2Proof.Machine.execJr a s
  | .mul d a b => Sys2Proof.Machine.execMul d a b s
  | .mulh d a b => Sys2Proof.Machine.execMulh d a b s
  | .mulhn d a b => Sys2Proof.Machine.execMulhn d a b s
  | .div d a b => Sys2Proof.Machine.execDiv d a b s
  | .divn d a b => Sys2Proof.Machine.execDivn d a b s
  | .rem d a b => Sys2Proof.Machine.execRem d a b s
  | .remn d a b => Sys2Proof.Machine.execRemn d a b s
  | .shr d a b => Sys2Proof.Machine.execShr d a b s
  | .sar d a b => Sys2Proof.Machine.execSar d a b s
  | .rol d a b => Sys2Proof.Machine.execRol d a b s
  | .sltn d a b => Sys2Proof.Machine.execSltn d a b s
  | .seq d a b => Sys2Proof.Machine.execSeq d a b s
  | .min d a b => Sys2Proof.Machine.execMin d a b s
  | .max d a b => Sys2Proof.Machine.execMax d a b s
  | .minn d a b => Sys2Proof.Machine.execMinn d a b s
  | .maxn d a b => Sys2Proof.Machine.execMaxn d a b s
  | .sel d a b => Sys2Proof.Machine.execSel d a b s
  | .clz d a => Sys2Proof.Machine.execClz d a s
  | .ctz d a => Sys2Proof.Machine.execCtz d a s
  | .popc d a => Sys2Proof.Machine.execPopc d a s
  | .bext d a p => Sys2Proof.Machine.execBext d a p s
  | .bins d a p => Sys2Proof.Machine.execBins d a p s
  | .bswap d a => Sys2Proof.Machine.execBswap d a s
  | .lea d a b sc => Sys2Proof.Machine.execLea d a b sc s
  | .andn d a b => Sys2Proof.Machine.execAndn d a b s
  | .orn d a b => Sys2Proof.Machine.execOrn d a b s
  | .abs d a => Sys2Proof.Machine.execAbs d a s
  | .mac d a b => Sys2Proof.Machine.execMac d a b s
  | .hdrSet l a b => Sys2Proof.Machine.execHdrSet l a b s
  | .hdrPack d a l => Sys2Proof.Machine.execHdrPack d a l s
  | .hdrGet d a l f => Sys2Proof.Machine.execHdrGet d a l f s
  | .tsRd d => Sys2Proof.Machine.execTsRd d s
  | .rpt len n => Sys2Proof.Machine.execRpt len n s
  | .cid d sel => Sys2Proof.Machine.execCid d sel s
  | .fadd r d a b => Sys2Proof.Machine.execFadd r d a b s
  | .fsub r d a b => Sys2Proof.Machine.execFsub r d a b s
  | .fmul r d a b => Sys2Proof.Machine.execFmul r d a b s
  | .fdiv r d a b => Sys2Proof.Machine.execFdiv r d a b s
  | .fsqrt r d a => Sys2Proof.Machine.execFsqrt r d a s
  | .fmin d a b => Sys2Proof.Machine.execFmin d a b s
  | .fmax d a b => Sys2Proof.Machine.execFmax d a b s
  | .fabs d a => Sys2Proof.Machine.execFabs d a s
  | .fneg d a => Sys2Proof.Machine.execFneg d a s
  | .fmsub r d a b => Sys2Proof.Machine.execFmsub r d a b s
  | .fcmp c d a b => Sys2Proof.Machine.execFcmp c d a b s
  | .fclass d a => Sys2Proof.Machine.execFclass d a s
  | .frnd r d a => Sys2Proof.Machine.execFrnd r d a s
  | .frcp r d a => Sys2Proof.Machine.execFrcp r d a s
  | .frsq r d a => Sys2Proof.Machine.execFrsq r d a s
  | .fex2 r d a => Sys2Proof.Machine.execFex2 r d a s
  | .flg2 r d a => Sys2Proof.Machine.execFlg2 r d a s
  | .cvtFF dst src d a => Sys2Proof.Machine.execCvtFF dst src d a s
  | .cvtFI r t src d a => Sys2Proof.Machine.execCvtFI r t src d a s
  | .cvtIF r dst t d a => Sys2Proof.Machine.execCvtIF r dst t d a s
  | .cvtPk dst d a b => Sys2Proof.Machine.execCvtPk dst d a b s
  | .fdot2 src d a b => Sys2Proof.Machine.execFdot2 src d a b s
  | .ldS z d a k => Sys2Proof.Machine.execLdS z d a k s
  | .stS z d a k => Sys2Proof.Machine.execStS z d a k s
  | .ldx z d a b => Sys2Proof.Machine.execLdx z d a b s
  | .stx z d a b => Sys2Proof.Machine.execStx z d a b s
  | .ldA z d a k => Sys2Proof.Machine.execLdA z d a k s
  | .ldQ d a k => Sys2Proof.Machine.execLdQ d a k s
  | .stQ d a k => Sys2Proof.Machine.execStQ d a k s
  | .ldAcq z sc d a => Sys2Proof.Machine.execLdAcq z sc d a s
  | .stRel z sc d a => Sys2Proof.Machine.execStRel z sc d a s
  | .rel sc => Sys2Proof.Machine.execRel sc s
  | .acq sc => Sys2Proof.Machine.execAcq sc s
  | .fence sc => Sys2Proof.Machine.execFence sc s
  | .acqProm z d a b => Sys2Proof.Machine.execAcqProm z d a b s
  | .amoAdd t nr d a b => Sys2Proof.Machine.execAmoAdd t nr d a b s
  | .amoMin t nr d a b => Sys2Proof.Machine.execAmoMin t nr d a b s
  | .amoMax t nr d a b => Sys2Proof.Machine.execAmoMax t nr d a b s
  | .amoAnd t nr d a b => Sys2Proof.Machine.execAmoAnd t nr d a b s
  | .amoOr t nr d a b => Sys2Proof.Machine.execAmoOr t nr d a b s
  | .amoXor t nr d a b => Sys2Proof.Machine.execAmoXor t nr d a b s
  | .amoSwp t nr d a b => Sys2Proof.Machine.execAmoSwp t nr d a b s
  | .amoCas t d a b => Sys2Proof.Machine.execAmoCas t d a b s
  | .amoInc t nr d a b => Sys2Proof.Machine.execAmoInc t nr d a b s
  | .append z d a b => Sys2Proof.Machine.execAppend z d a b s
  | .sealPage d a => Sys2Proof.Machine.execSealPage d a s
  | .tail d a => Sys2Proof.Machine.execTail d a s
  | .pf t a b => Sys2Proof.Machine.execPf t a b s
  | .hint a b => Sys2Proof.Machine.execHint a b s
  | .stepCtr d => Sys2Proof.Machine.execStepCtr d s
  | .cinv r => Sys2Proof.Machine.execCinv r s
  | .cwb r => Sys2Proof.Machine.execCwb r s
  | .home d a => Sys2Proof.Machine.execHome d a s
  | .ldO d a k => Sys2Proof.Machine.execLdO d a k s
  | .stO d a k => Sys2Proof.Machine.execStO d a k s
  | .qbind dir q a => Sys2Proof.Machine.execQbind dir q a s
  | .qfree q => Sys2Proof.Machine.execQfree q s
  | .qtok q level => Sys2Proof.Machine.execQtok q level s
  | .qpeek d q => Sys2Proof.Machine.execQpeek d q s
  | .qlen d q => Sys2Proof.Machine.execQlen d q s
  | .tvec q level a => Sys2Proof.Machine.execTvec q level a s
  | .send a b => Sys2Proof.Machine.execSend a b s
  | .recv d a b => Sys2Proof.Machine.execRecv d a b s
  | .waitc ld st cp tb => Sys2Proof.Machine.execWaitc ld st cp tb s
  | .barArv n => Sys2Proof.Machine.execBarArv n s
  | .barWait n => Sys2Proof.Machine.execBarWait n s
  | .barSync n => Sys2Proof.Machine.execBarSync n s
  | .barDrop n => Sys2Proof.Machine.execBarDrop n s
  | .barJoin n => Sys2Proof.Machine.execBarJoin n s
  | .fork k => Sys2Proof.Machine.execFork k s
  | .spawn d a b => Sys2Proof.Machine.execSpawn d a b s
  | .lvlCnt v d a => Sys2Proof.Machine.execLvlCnt v d a s
  | .lvlWait v a b => Sys2Proof.Machine.execLvlWait v a b s
  | .cancel v a => Sys2Proof.Machine.execCancel v a s
  | .lbq d => Sys2Proof.Machine.execLbq d s
  | .migr a => Sys2Proof.Machine.execMigr a s
  | .dusk o d a => Sys2Proof.Machine.execDusk o d a s
  | .vadd d a b => Sys2Proof.Machine.execVadd d a b s
  | .vsub d a b => Sys2Proof.Machine.execVsub d a b s
  | .vmul d a b => Sys2Proof.Machine.execVmul d a b s
  | .vfma d a b => Sys2Proof.Machine.execVfma d a b s
  | .vmin d a b => Sys2Proof.Machine.execVmin d a b s
  | .vmax d a b => Sys2Proof.Machine.execVmax d a b s
  | .vabs d a => Sys2Proof.Machine.execVabs d a s
  | .vneg d a => Sys2Proof.Machine.execVneg d a s
  | .vcmp c d a b => Sys2Proof.Machine.execVcmp c d a b s
  | .vsel d a b => Sys2Proof.Machine.execVsel d a b s
  | .vand d a b => Sys2Proof.Machine.execVand d a b s
  | .vor d a b => Sys2Proof.Machine.execVor d a b s
  | .vxor d a b => Sys2Proof.Machine.execVxor d a b s
  | .vshl d a b => Sys2Proof.Machine.execVshl d a b s
  | .vshr ar d a b => Sys2Proof.Machine.execVshr ar d a b s
  | .vcvt dst d a => Sys2Proof.Machine.execVcvt dst d a s
  | .vred op d a => Sys2Proof.Machine.execVred op d a s
  | .vbcast d a => Sys2Proof.Machine.execVbcast d a s
  | .vgetl d a b => Sys2Proof.Machine.execVgetl d a b s
  | .vsetl d a b => Sys2Proof.Machine.execVsetl d a b s
  | .vld d a => Sys2Proof.Machine.execVld d a s
  | .vst d a => Sys2Proof.Machine.execVst d a s
  | .vperm d a b => Sys2Proof.Machine.execVperm d a b s
  | .vex2 d a => Sys2Proof.Machine.execVex2 d a s
  | .vrcp d a => Sys2Proof.Machine.execVrcp d a s
  | .vrsq d a => Sys2Proof.Machine.execVrsq d a s
  | .vmov d a => Sys2Proof.Machine.execVmov d a s
  | .vzero d => Sys2Proof.Machine.execVzero d s
  | .vscl d a b => Sys2Proof.Machine.execVscl d a b s
  | .vlanes d => Sys2Proof.Machine.execVlanes d s
  | .lease k d w => Sys2Proof.Machine.execLease k d w s
  | .tmode m => Sys2Proof.Machine.execTmode m s
  | .ringCfg n a b => Sys2Proof.Machine.execRingCfg n a b s
  | .ringPush n => Sys2Proof.Machine.execRingPush n s
  | .ringRoom d n w => Sys2Proof.Machine.execRingRoom d n w s
  | .sclCfg isB n a => Sys2Proof.Machine.execSclCfg isB n a s
  | .tmma f scaled d ra rb => Sys2Proof.Machine.execTmma f scaled d ra rb s
  | .tdist f scaled k d ra rb => Sys2Proof.Machine.execTdist f scaled k d ra rb s
  | .tcommit d => Sys2Proof.Machine.execTcommit d s
  | .twaitb n => Sys2Proof.Machine.execTwaitb n s
  | .tload tr a b => Sys2Proof.Machine.execTload tr a b s
  | .tstore dst a b => Sys2Proof.Machine.execTstore dst a b s
  | .qsax f col blk a b => Sys2Proof.Machine.execQsax f col blk a b s
  | .qst d a b => Sys2Proof.Machine.execQst d a b s
  | .rsav a => Sys2Proof.Machine.execRsav a s
  | .rlod a => Sys2Proof.Machine.execRlod a s
  | .copy twoD d a b => Sys2Proof.Machine.execCopy twoD d a b s
  | .copyMc d a b => Sys2Proof.Machine.execCopyMc d a b s
  | .cstat d => Sys2Proof.Machine.execCstat d s
  | .gbind g a => Sys2Proof.Machine.execGbind g a s
  | .gref idx64 el8 qd qa b => Sys2Proof.Machine.execGref idx64 el8 qd qa b s
  | .topk qd qa b => Sys2Proof.Machine.execTopk qd qa b s
  | .csrr d csr => Sys2Proof.Machine.execCsrr d csr s
  | .csrw d csr => Sys2Proof.Machine.execCsrw d csr s
  | .csrs d csr => Sys2Proof.Machine.execCsrs d csr s
  | .csrc d csr => Sys2Proof.Machine.execCsrc d csr s
  | .trap code => Sys2Proof.Machine.execTrap code s
  | .tlbGen a => Sys2Proof.Machine.execTlbGen a s
  | .tlbInv a b => Sys2Proof.Machine.execTlbInv a b s
  | .keySet a b => Sys2Proof.Machine.execKeySet a b s
  | .slotCtl op a => Sys2Proof.Machine.execSlotCtl op a s
  | .slotSv a b => Sys2Proof.Machine.execSlotSv a b s
  | .slotLd a b => Sys2Proof.Machine.execSlotLd a b s
  | .promAll a => Sys2Proof.Machine.execPromAll a s
  | .post a => Sys2Proof.Machine.execPost a s
  | .wake a => Sys2Proof.Machine.execWake a s
  | .unitEnd g => Sys2Proof.Machine.execUnitEnd g s
  | .taskStart launch => Sys2Proof.Machine.execTaskStart launch s
  | .parentResume unit => Sys2Proof.Machine.execParentResume unit s
  | .balancerSample die => Sys2Proof.Machine.execBalancerSample die s
  | .replicaIdleEnd g => Sys2Proof.Machine.execReplicaIdleEnd g s
  | .migrationCheck core => Sys2Proof.Machine.execMigrationCheck core s
  | .migrationMessage k => Sys2Proof.Machine.execMigrationMessage k s
  | .barrierRequest k => Sys2Proof.Machine.execBarrierRequest k s
  | .barrierReply k => Sys2Proof.Machine.execBarrierReply k s
  | .mailboxMessageArrival k => Sys2Proof.Machine.execMailboxMessageArrival k s
  | .ringQueueHop q k => Sys2Proof.Machine.execRingQueueHop q k s
  | .ringQueueElementArrival q k => Sys2Proof.Machine.execRingQueueElementArrival q k s
  | .writeBufferTimeout core k => Sys2Proof.Machine.execWriteBufferTimeout core k s
  | .homeWrite k => Sys2Proof.Machine.execHomeWrite k s
  | .homeRead k => Sys2Proof.Machine.execHomeRead k s
  | .homeAtomic k => Sys2Proof.Machine.execHomeAtomic k s
  | .appendRequest k => Sys2Proof.Machine.execAppendRequest k s
  | .sealRequest k => Sys2Proof.Machine.execSealRequest k s
  | .tailRequest k => Sys2Proof.Machine.execTailRequest k s
  | .loadReply k => Sys2Proof.Machine.execLoadReply k s
  | .writeAcceptance k => Sys2Proof.Machine.execWriteAcceptance k s
  | .l1Fill k => Sys2Proof.Machine.execL1Fill k s
  | .gatheredQueryReply core => Sys2Proof.Machine.execGatheredQueryReply core s
  | .promoteRequest k => Sys2Proof.Machine.execPromoteRequest k s
  | .promoteReply k => Sys2Proof.Machine.execPromoteReply k s
  | .walkComplete k => Sys2Proof.Machine.execWalkComplete k s
  | .tlbGenerationComplete k => Sys2Proof.Machine.execTlbGenerationComplete k s
  | .pageFaultService k => Sys2Proof.Machine.execPageFaultService k s
  | .wakeArrival k => Sys2Proof.Machine.execWakeArrival k s
  | .pageEviction stack => Sys2Proof.Machine.execPageEviction stack s
  | .pageMove k => Sys2Proof.Machine.execPageMove k s
  | .pageMoveComplete k => Sys2Proof.Machine.execPageMoveComplete k s
  | .hbmActivate stack => Sys2Proof.Machine.execHbmActivate stack s
  | .queuePushRegisterWrite k => Sys2Proof.Machine.execQueuePushRegisterWrite k s
  | .copyComplete core k => Sys2Proof.Machine.execCopyComplete core k s
  | .generatorElementLoad core gen => Sys2Proof.Machine.execGeneratorElementLoad core gen s
  | .refAcceleratorPop core => Sys2Proof.Machine.execRefAcceleratorPop core s
  | .gatherComplete core k => Sys2Proof.Machine.execGatherComplete core k s
  | .leaseGrant cluster => Sys2Proof.Machine.execLeaseGrant cluster s
  | .arrayArbitration cluster => Sys2Proof.Machine.execArrayArbitration cluster s
  | .tileCommandStart cluster bank => Sys2Proof.Machine.execTileCommandStart cluster bank s
  | .tileCommandRetire cluster bank => Sys2Proof.Machine.execTileCommandRetire cluster bank s
  | .ringTailAdvance core ring => Sys2Proof.Machine.execRingTailAdvance core ring s
  | .topkElement cluster => Sys2Proof.Machine.execTopkElement cluster s
  | .postForward die => Sys2Proof.Machine.execPostForward die s
  | .illegalInstruction cause detail word => Sys2Proof.Machine.execIllegalInstruction cause detail word s
  | .hbmRegulatorWrite stack v => Sys2Proof.Machine.execHbmRegulatorWrite stack v s
  | .hbmRetrain stack => Sys2Proof.Machine.execHbmRetrain stack s
  | .patrolScrub pa lost => Sys2Proof.Machine.execPatrolScrub pa lost s
  | .submissionQueueTailWrite port q tail => Sys2Proof.Machine.execSubmissionQueueTailWrite port q tail s
  | .queueCtlClose port q v => Sys2Proof.Machine.execQueueCtlClose port q v s
  | .openJob port seq => Sys2Proof.Machine.execOpenJob port seq s
  | .bindHostQueue port seq job queue prio => Sys2Proof.Machine.execBindHostQueue port seq job queue prio s
  | .bindDeviceQueue port seq job die index prio => Sys2Proof.Machine.execBindDeviceQueue port seq job die index prio s
  | .mapRange port seq job va bytes w4 w5 => Sys2Proof.Machine.execMapRange port seq job va bytes w4 w5 s
  | .unmapRange port seq job va bytes => Sys2Proof.Machine.execUnmapRange port seq job va bytes s
  | .closeJob port seq job => Sys2Proof.Machine.execCloseJob port seq job s
  | .preEmpt port seq job level object deadline => Sys2Proof.Machine.execPreEmpt port seq job level object deadline s
  | .resume port seq job level object => Sys2Proof.Machine.execResume port seq job level object s
  | .cancelObject port seq job level object => Sys2Proof.Machine.execCancelObject port seq job level object s
  | .fabricExport port seq job va bytes perm => Sys2Proof.Machine.execFabricExport port seq job va bytes perm s
  | .fabricGroup port seq job n bus => Sys2Proof.Machine.execFabricGroup port seq job n bus s
  | .fabricRing port seq job die ring va doorbell => Sys2Proof.Machine.execFabricRing port seq job die ring va doorbell s
  | .acceleratorId port seq id => Sys2Proof.Machine.execAcceleratorId port seq id s
  | .statusWrite port v => Sys2Proof.Machine.execStatusWrite port v s
  | .hostRingHeadWrite port ring v => Sys2Proof.Machine.execHostRingHeadWrite port ring v s
  | .bar0RegisterWrite port off size v => Sys2Proof.Machine.execBar0RegisterWrite port off size v s
  | .hostWindowAccess port off len data => Sys2Proof.Machine.execHostWindowAccess port off len data s
  | .hostReadCompletion k ok data => Sys2Proof.Machine.execHostReadCompletion k ok data s
  | .hostCompletionTimeout k => Sys2Proof.Machine.execHostCompletionTimeout k s
  | .hostPortReset port => Sys2Proof.Machine.execHostPortReset port s
  | .configurationRequest port reg value => Sys2Proof.Machine.execConfigurationRequest port reg value s
  | .fabricDoorbellWrite die ring tail => Sys2Proof.Machine.execFabricDoorbellWrite die ring tail s
  | .fabricRead die ring ok data => Sys2Proof.Machine.execFabricRead die ring ok data s
  | .fabricWrite die ring ok => Sys2Proof.Machine.execFabricWrite die ring ok s
  | .fabricAtomic die ring ok old => Sys2Proof.Machine.execFabricAtomic die ring ok old s
  | .fabricMessage die ring ok => Sys2Proof.Machine.execFabricMessage die ring ok s
  | .allReduce die ring ranks => Sys2Proof.Machine.execAllReduce die ring ranks s
  | .allGather die ring ranks => Sys2Proof.Machine.execAllGather die ring ranks s
  | .reduceScatter die ring ranks => Sys2Proof.Machine.execReduceScatter die ring ranks s
  | .broadcast die ring root => Sys2Proof.Machine.execBroadcast die ring root s
  | .fabricCommandComplete die ring seq => Sys2Proof.Machine.execFabricCommandComplete die ring seq s
  | .fabricCommandTimeout die ring seq => Sys2Proof.Machine.execFabricCommandTimeout die ring seq s
  | .incomingFabricAccess src export_ off x => Sys2Proof.Machine.execIncomingFabricAccess src export_ off x s
  | .incomingFabricMessage src export_ dest body => Sys2Proof.Machine.execIncomingFabricMessage src export_ dest body s
  | .flitCrcFailure link => Sys2Proof.Machine.execFlitCrcFailure link s
  | .linkRetrain link working => Sys2Proof.Machine.execLinkRetrain link working s
  | .timeAlignment die => Sys2Proof.Machine.execTimeAlignment die s
  | .firmwareUpdate complete version file => Sys2Proof.Machine.execFirmwareUpdate complete version file s
  | .negotiateAlgorithms asym hash => Sys2Proof.Machine.execNegotiateAlgorithms asym hash s
  | .getCertificate off len => Sys2Proof.Machine.execGetCertificate off len s
  | .challenge nonce => Sys2Proof.Machine.execChallenge nonce s
  | .getMeasurements nonce => Sys2Proof.Machine.execGetMeasurements nonce s
  | .powerSample dies hbm other dieTemps hbmTemp => Sys2Proof.Machine.execPowerSample dies hbm other dieTemps hbmTemp s
  | .pwrlimWrite v => Sys2Proof.Machine.execPwrlimWrite v s
  | .errorCountClear uncorrectable v => Sys2Proof.Machine.execErrorCountClear uncorrectable v s
  | .ret => Sys2Proof.Machine.execRet s
  | .nop => Sys2Proof.Machine.execNop s
  | .halt => Sys2Proof.Machine.execHalt s
  | .sync => Sys2Proof.Machine.execSync s
  | .yieldTurn => Sys2Proof.Machine.execYieldTurn s
  | .unlease => Sys2Proof.Machine.execUnlease s
  | .tzero => Sys2Proof.Machine.execTzero s
  | .tret => Sys2Proof.Machine.execTret s
  | .placementDecision => Sys2Proof.Machine.execPlacementDecision s
  | .cancellationApply => Sys2Proof.Machine.execCancellationApply s
  | .loadRegisterUpdate => Sys2Proof.Machine.execLoadRegisterUpdate s
  | .moduleReset => Sys2Proof.Machine.execModuleReset s
  | .powerupStepComplete => Sys2Proof.Machine.execPowerupStepComplete s
  | .powerupStepTimeout => Sys2Proof.Machine.execPowerupStepTimeout s
  | .getVersion => Sys2Proof.Machine.execGetVersion s
  | .getCapabilities => Sys2Proof.Machine.execGetCapabilities s
  | .getDigests => Sys2Proof.Machine.execGetDigests s
  | .fetchFault => Sys2Proof.Machine.execFetchFault s
  | .duskSample1 => Sys2Proof.Machine.execDuskSample1 s
  | .duskSample2 => Sys2Proof.Machine.execDuskSample2 s
  | .spawnReservation => Sys2Proof.Machine.execSpawnReservation s
  | .shadowFill => Sys2Proof.Machine.execShadowFill s
  | .shadowFillComplete => Sys2Proof.Machine.execShadowFillComplete s
  | .preemptionDeadline => Sys2Proof.Machine.execPreemptionDeadline s
  | .preemptionComplete => Sys2Proof.Machine.execPreemptionComplete s
  | .migrationReturn => Sys2Proof.Machine.execMigrationReturn s

end Sys2Proof.Machine
end

