-- ==== Sys2Proof/Machine/Issue.lean ====
section
/-! DEFINITION. How the machine goes on: the issue of a slot's instruction (R29, R131, R150, R392), the end of a cycle
with what R152 and the periods of the manual bring, and the events that may come next. -/

namespace Sys2Proof.Machine

open Host

/-! ## One slot issues -/

/-- The state in which slot `g` issues: it is the issuing slot and its core has had its turn. -/
def State.atTurn (s : State) (g : Nat) : State := { s with cur := g, turnCore := coreOf g + 1, tick := s.tick + 1 }

/-- The fetch blocks that a slot holds from an instruction on (R404): the one it ends in; a repeat also keeps those that its body
has come in. -/
def Slot.holding (sl : Slot) (i : Instr) (block : Block) : List Block :=
  block :: match i with | .rpt _ _ => sl.blocks.filter (·.va != block.va) | _ => []

/-- The state in which a fetched instruction issues: its length, the fetch blocks held, the translations used. -/
def State.withFetched (s : State) (i : Instr) (len : Nat) (block : Block) (fills : List TlbEntry) : State :=
  ({ s with ilen := len }.modMe fun sl => { sl with blocks := sl.holding i block }).installAll s.myCore fills

/-- The repeat body's instruction at the PC (R131). -/
def Slot.bodyItem (sl : Slot) : Option BodyItem :=
  match sl.rep with
  | some r => r.body.find? fun (b : BodyItem) => b.at_ == sl.pc
  | none => none

/-- Issues at the slot `s.cur`: a rejected access is raised (R392), and a store that a port has refused (R314), a repeat body runs from its buffer (R131), and any
other instruction is fetched. -/
def issueAt (s : State) : Outcome State Fault Refusal :=
  let sl := s.me
  match sl.reject with
  | some (why, a, f) =>
    .next ((s.modMe fun sl => { sl with reject := none }).takeTrap s.cur { cause := 0x14, taddr := a, tinfo := ofBool f + 2 * why })
  | none =>
    match sl.late with
    | some (a, ring) => .next ((s.modMe fun sl => { sl with late := none }).takeTrap s.cur { cause := 0x0B, taddr := a, tinfo := ring })
    | none =>
      match sl.bodyItem with
      | some b => exec b.instr { s with ilen := b.len }
      | none =>
        match s.fetch s.cur sl.pc with
        | .instr i len block fills => exec i (s.withFetched i len block fills)
        | .bad e fills => exec (.illegalInstruction e.cause e.detail e.word) (s.installAll s.myCore fills)
        | .fail _ => exec .fetchFault s

/-! ## The end of a cycle -/

/-- A waiting instruction whose reason has cleared goes on; one that has yet to do what it began for is issued again (R152). -/
def Slot.goesOn (sl : Slot) (r : Reason) : Bool :=
  match sl.pending, r with
  | none, _ => false
  | some _, .accepted _ | some _, .target _ _ => true
  | some p, _ => p.finish != .none

/-- A slot that is eligible from the next cycle on. -/
def Slot.toRun (sl : Slot) : Slot := if sl.status = .parked .eligible then { sl with status := .running } else sl

/-- The slot at `g` is parked with a reason that has cleared (R152): its instruction goes on, or it becomes eligible in the next
cycle. -/
def State.wakeSlot (s : State) (g : Nat) : State :=
  let sl := s.slot g
  match sl.status with
  | .parked r =>
    if !s.reasonClear g r then s
    else if sl.goesOn r then (s.finish g).modSlot g Slot.toRun
    else s.setSlot g { sl with status := if r = .eligible then .running else .woken r }
  | _ => s

/-- The parked slots, in ascending number: what has cleared for one is judged before any of them goes on. -/
def State.wakeParked (s : State) : State :=
  let ready := (s.slots.filter fun e => match e.2.status with | .parked r => s.reasonClear e.1 r | _ => false).map (·.1)
  ready.foldl State.wakeSlot s

/-- A slot that yielded before this cycle has passed its own turn (R206). -/
def State.clearYield (s : State) : State :=
  { s with slots := s.slots.map fun e =>
      match e.2.yielded with
      | some c => if c < s.cycle && e.1 % 16 == s.cycle % 16 then (e.1, { e.2 with yielded := none }) else e
      | none => e }

/-- What was sent in this cycle bears it from now on (R456). -/
def State.stamp (s : State) : State :=
  let now (x : Option Nat) : Option Nat := some (x.getD s.cycle)
  let thread (t : Thread) : Thread := { t with sent := now t.sent }
  { s with
    net := s.net.map fun m => { m with sent := now m.sent }
    acks := s.acks.map fun m => { m with sent := now m.sent }
    replies := s.replies.map fun m => { m with sent := now m.sent }
    mails := s.mails.map fun m => { m with sent := now m.sent }
    barReqs := s.barReqs.map fun m => { m with sent := now m.sent }
    barAns := s.barAns.map fun m => { m with sent := now m.sent }
    promReqs := s.promReqs.map fun m => { m with sent := now m.sent }
    promReps := s.promReps.map fun m => { m with sent := now m.sent }
    wakes := s.wakes.map fun m => { m with sent := now m.sent }
    cancels := s.cancels.map fun m => { m with sent := now m.sent }
    queues := s.queues.each fun _ q => { q with flights := q.flights.map fun f => { f with sent := now f.sent } }
    launches := s.launches.each fun _ l => { l with tasks := l.tasks.map thread, resting := l.resting.each fun _ t => thread t } }

/-- Closed batches whose commands have all retired leave TB (R319). -/
def State.retireAll (s : State) : State := { s with slots := s.slots.each fun _ sl => sl.retireBatches }

/-- What a tile unit does in a cycle (R317, R318): commands that have taken their time retire, the array is arbitrated, and the next
command of each bank starts. -/
def State.tileWork (s : State) (cl : Nat) : List Instr :=
  let banks := [0, 1, 2, 3].filter fun b => (s.bank cl b).order != []
  if banks = [] && (s.cluster cl).served.isNone then []
  else
    (banks.flatMap fun b => ((s.bank cl b).order.filter (·.due s.cycle)).map fun _ => .tileCommandRetire cl b) ++
    .arrayArbitration cl :: banks.map fun b => .tileCommandStart cl b

/-- What the cycle that begins brings at once, in this order: ended units, periodic work, deadlines, the tile units, the rings.
DESIGN CHOICE (notes/assumptions/7.md). -/
def State.dueNow (s : State) : List Instr :=
  (s.slots.filter fun e => e.2.ended).map (fun e => .unitEnd e.1) ++
  (if s.cycle % 64 = 0 then [.loadRegisterUpdate] else []) ++
  (if s.cycle % 1024 = 0 then [.balancerSample 0, .balancerSample 1, .balancerSample 2, .balancerSample 3] else []) ++
  (if s.cycle % 4096 = 0 then (s.cores.filter fun e => decide (e.1 < Config.cores)).map (fun e => .migrationCheck e.1) else []) ++
  (s.cores.flatMap fun e => (e.2.oldEntries s.cycle).map fun i => .writeBufferTimeout e.1 i) ++
  (s.slots.filter fun e => e.2.idledOut s.cycle).map (fun e => .replicaIdleEnd e.1) ++
  (s.probes.filter (·.due s.cycle)).map (fun _ => .duskSample2) ++
  (if s.preempts.any s.overdue then [.preemptionDeadline] else []) ++
  (if s.rising && decide (s.powerLimit < s.cycle) then [.powerupStepTimeout] else []) ++
  s.clusters.keys.flatMap s.tileWork ++
  (s.cores.flatMap fun e => (e.2.rings.filter fun r => r.2.claims != []).map fun r => .ringTailAdvance e.1 r.1)

/-- The frames of completed jobs whose accesses have all ended are freed (R448). -/
def State.freeLeaving (s : State) : State :=
  s.leaving.foldl (fun s e =>
    let x : TlbOp := { slot := 0, asid := e.1, bound := e.2 }
    let s := s.tlbSend x
    if s.tlbClear x then { s.freeAsid e.1 with leaving := s.leaving.erase e } else s) s

/-- Writes of device-wide CSRs that every die has applied end (R425): 8 ns or more after their issue. DEDUCED
(notes/assumptions/50.md). -/
def State.applyCsrs (s : State) : State :=
  s.csrWrites.foldl (fun s w =>
    if s.aged (some w.issued) && [0, 1, 2, 3].all (s.wayOpen (dieOf w.slot)) && Config.schedule (s.tick + w.id) % 2 == 1 then
      { s with csrWrites := s.csrWrites.erase w }.oneLess w.slot
    else s) s

/-- Entries that wait enter the inbound queues. -/
def State.settleInbounds (s : State) : State :=
  s.dies.foldl (fun s d => if d.2.inWaiting = [] then s else s.settleInbound d.1) s

/-- Work of the end of a cycle that waits for no event: batches that are complete leave TB, the copies of the level table are
renewed (R203), stack windows that no unit shares any more are unmapped (R475), host commands that wait are tried again (R447), the
fabric engines take descriptors (R452), sectors fail (R399), retraining ends (R410), and fault records of past times are written
(R402). -/
def State.housekeeping (s : State) : State :=
  let s := s.retireAll.renewLevels.sweepWindows.freeLeaving.applyCsrs.settleInbounds
  let s := ((s.tryCommand 0).tryCommand 1).fabricWork
  (s.decay.endRetrain.flushRing 0 1).flushRing 1 1

/-- The cycle ends: parked slots that wait no more become eligible, and the next cycle's events are due. -/
def State.endCycle (s : State) : State :=
  let s := s.housekeeping.clearYield.wakeParked.markIdle.stamp
  let s := { s with cycle := s.cycle + 1, turnCore := 0, turn := .events, tick := s.tick + 1 }
  { s with agenda := s.agenda ++ s.dueNow }

/-! ## What may come next -/

/-- Every index of a list, as an event. -/
def indices {α : Type} (l : List α) (f : Nat → Instr) : List Instr := (List.range l.length).map f

/-- The event of a request at its point of acceptance. -/
def requestEvent (m : Msg) (i : Nat) : Instr :=
  match m.body with
  | .write _ => .homeWrite i
  | .test _ => .homeWrite i
  | .atomic _ _ _ _ _ => .homeAtomic i
  | .read _ => .homeRead i
  | .append _ _ _ _ _ _ => .appendRequest i
  | .sealReq _ _ _ _ _ => .sealRequest i
  | .tailReq _ _ _ _ _ => .tailRequest i

/-- The requests and replies of the memory system that may arrive next. -/
def State.memoryEvents (s : State) : List Instr :=
  (List.range s.net.length).flatMap (fun i => match s.net[i]? with | some m => [requestEvent m i] | none => []) ++
  indices s.acks .writeAcceptance ++ indices s.replies .loadReply ++ indices s.prefetches .l1Fill ++
  (s.cores.filter fun e => e.2.draining != []).map (fun e => .gatheredQueryReply e.1) ++
  indices s.promReqs .promoteRequest ++ indices s.promReps .promoteReply ++ indices s.walks .walkComplete ++
  indices s.tlbOps .tlbGenerationComplete ++ indices s.reports .pageFaultService ++ indices s.wakes .wakeArrival ++
  indices s.moves (fun i => if (match s.moves[i]? with | some m => m.step == 4 | none => false) then .pageMoveComplete i else .pageMove i) ++
  (if s.steers = [] then [] else [.pageMove s.moves.length]) ++ (if s.shadowFills = [] then [] else [.shadowFill]) ++
  (if s.filling = [] then [] else [.shadowFillComplete]) ++ (List.range 12).map .pageEviction ++ (List.range 12).map .hbmActivate

/-- The steps of the engines that may come next. -/
def State.engineEvents (s : State) : List Instr :=
  indices s.pushWrites .queuePushRegisterWrite ++
  (s.cores.flatMap fun e =>
    indices e.2.copies (.copyComplete e.1) ++ e.2.gens.map (fun x => .generatorElementLoad e.1 x.1) ++
    (match e.2.ref with | some r => .refAcceleratorPop e.1 :: indices r.gathers (.gatherComplete e.1) | none => [])) ++
  (s.clusters.flatMap fun e =>
    (if e.2.leaseQ = [] then [] else [.leaseGrant e.1]) ++
    ((List.range 4).flatMap fun b => match (s.bank e.1 b).order with
      | k :: _ => if k.due s.cycle then [Instr.tileCommandRetire e.1 b] else []
      | [] => []) ++
    (if e.2.topk = none then [] else [.topkElement e.1])) ++
  (s.dies.filter fun e => e.2.inbound != []).map (fun e => .postForward e.1) ++
  (s.dies.flatMap fun d => d.2.rings.flatMap fun r => r.2.finished.map fun f => .fabricCommandComplete d.1 r.1 f.1)

/-- The steps of the ridge, the units and the queues that may come next. -/
def State.workEvents (s : State) : List Instr :=
  [.placementDecision] ++
  (s.launches.filter fun e => e.2.tasks != []).map (fun e => .taskStart e.1) ++
  (s.launches.flatMap fun e => e.2.resting.map fun t => .parentResume t.1) ++
  indices s.migrations .migrationMessage ++ (if s.migrations.any (·.back) then [.migrationReturn] else []) ++
  indices s.barReqs .barrierRequest ++ indices s.barAns .barrierReply ++ indices s.mails .mailboxMessageArrival ++
  (s.queues.flatMap fun e => (List.range e.2.flights.length).map fun i =>
    match e.2.flights[i]? with
    | some f => if f.hop < f.last then Instr.ringQueueHop e.1 i else .ringQueueElementArrival e.1 i
    | none => .ringQueueHop e.1 i) ++
  (if s.cancels = [] then [] else [.cancellationApply]) ++ (if s.spawns = [] then [] else [.spawnReservation]) ++
  (if s.probes.any (·.sample.isNone) then [.duskSample1] else []) ++
  (if s.preempts.all (·.done) then [] else [.preemptionComplete]) ++ (if s.rising then [.powerupStepComplete] else [])

/-- The steps of the module's own that may be taken next. DESIGN CHOICE (notes/assumptions/7.md). -/
def State.candidates (s : State) : List Instr := s.memoryEvents ++ s.engineEvents ++ s.workEvents

/-! ## Inputs -/

/-- The source of an input: port 0, port 1, completions of the hosts' memories, the fabric, management and sensors, and what
comes from no such source. The inputs of one source come in order. DESIGN CHOICE (notes/assumptions/78.md). -/
def inputSource (i : Instr) : Nat :=
  match i with
  | .submissionQueueTailWrite p _ _ | .queueCtlClose p _ _ | .openJob p _ | .bindHostQueue p _ _ _ _ | .bindDeviceQueue p _ _ _ _ _
  | .mapRange p _ _ _ _ _ _ | .unmapRange p _ _ _ _ | .closeJob p _ _ | .preEmpt p _ _ _ _ _ | .resume p _ _ _ _
  | .cancelObject p _ _ _ _ | .fabricExport p _ _ _ _ _ | .fabricGroup p _ _ _ _ | .fabricRing p _ _ _ _ _ _ | .acceleratorId p _ _
  | .statusWrite p _ | .hostRingHeadWrite p _ _ | .bar0RegisterWrite p _ _ _ | .hostWindowAccess p _ _ _ | .hostPortReset p
  | .configurationRequest p _ _ => p % 2
  | .hostReadCompletion _ _ _ | .hostCompletionTimeout _ => 2
  | .fabricDoorbellWrite d r _ | .fabricRead d r _ _ | .fabricWrite d r _ | .fabricAtomic d r _ _ | .fabricMessage d r _
  | .allReduce d r _ | .allGather d r _ | .reduceScatter d r _ | .broadcast d r _ => 16 + 4 * d + r
  | .fabricCommandComplete _ _ _ | .fabricCommandTimeout _ _ _ => 3
  | .incomingFabricAccess _ _ _ _ | .incomingFabricMessage _ _ _ _ => 4
  | .moduleReset => 5
  | .firmwareUpdate _ _ _ | .getVersion | .getCapabilities | .getDigests | .negotiateAlgorithms _ _ | .getCertificate _ _ | .challenge _
  | .getMeasurements _ | .powerSample _ _ _ _ _ | .pwrlimWrite _ | .errorCountClear _ _ => 6
  | .flitCrcFailure _ | .linkRetrain _ _ | .timeAlignment _ => 7
  | .hbmRegulatorWrite _ _ | .hbmRetrain _ | .patrolScrub _ _ => 8
  | _ => 9

/-- Places in the inputs from which one may be taken now: the first of each source. DESIGN CHOICE (notes/assumptions/78.md). -/
def State.openInputs (s : State) : List Nat :=
  (List.range s.inputs.length).filter fun k => match s.inputs[k]? with
    | some i => (s.inputs.take k).all fun x => inputSource x != inputSource i
    | none => false

/-- Puts an element into a list before place `k`. -/
def insertAt {α : Type} (l : List α) (k : Nat) (x : α) : List α := l.take k ++ x :: l.drop k

/-! ## The next step -/

/-- Takes an event of the module's own. One that is not enabled does not take place. -/
def takeEvent (e : Instr) (s : State) : Outcome State Fault Refusal :=
  match exec e s with
  | .fault .eventNotEnabled => .next s
  | r => r

/-- Takes the input at place `k`. One that has to wait goes back to its place. -/
def takeInput (e : Instr) (k : Nat) (s : State) : Outcome State Fault Refusal :=
  match takeEvent e { s with inputs := dropAt s.inputs k } with
  | .next t => .next (if t.again then { t with again := false, inputs := insertAt t.inputs k e } else t)
  | r => r

/-- Picks an event of the module's own or an input, or the turn goes to the slots (notes/assumptions/1.md). -/
def pickEvent (s : State) : Outcome State Fault Refusal :=
  let cs := s.candidates
  let ins := s.openInputs
  let k := Config.schedule s.tick % (cs.length + ins.length + 1)
  let s := { s with tick := s.tick + 1 }
  match cs[k]? with
  | some e => takeEvent e s
  | none =>
    match ins[k - cs.length]? with
    | some j => match s.inputs[j]? with | some e => takeInput e j s | none => .next { s with turn := .issue }
    | none => .next { s with turn := .issue }

/-- A step of a module that is out of service: its inputs are lost, but for a module reset. DEDUCED (notes/assumptions/77.md). -/
def outOfService (s : State) : Outcome State Fault Refusal :=
  match s.inputs with
  | [] => .fault .outOfService
  | .moduleReset :: r => exec .moduleReset { s with inputs := r }
  | _ :: r => .next { s with inputs := r }

/-- The next step of a module in service: an event that is due, a slot's instruction, the end of the cycle, or an event
that the schedule picks. -/
def advance (s : State) : Outcome State Fault Refusal :=
  match s.agenda with
  | e :: rest =>
    let s := { s with agenda := rest, tick := s.tick + 1 }
    takeEvent e s
  | [] =>
    match s.turn with
    | .issue =>
      match s.nextIssuer (784 - s.turnCore) s.turnCore with
      | some g => issueAt (s.atTurn g)
      | none => .next s.endCycle
    | .events => pickEvent s

end Sys2Proof.Machine
end

