-- ==== Sys2Proof/Machine/Step.lean ====
section
/-! DEFINITION. The step of the machine, and the state in which a given instruction runs next. -/

namespace Sys2Proof.Machine

/-- One step: nothing is served by a module that is out of service until it is reset (R438). -/
def step (s : State) : Host.Outcome State Fault Refusal := if s.fatal then outOfService s else advance s

/-- The state in which the next step fetches and runs the instruction whose table bits are `w`: it lies at address 0,
slot 0 of core 0 holds a unit (of no launch), runs, holds that fetch block and has its turn.
DESIGN CHOICE (notes/assumptions/4.md). -/
def State.withFetchWord (s : State) (nbits w : Nat) : State :=
  let words := (tableWords nbits w ++ [0, 0, 0, 0, 0]).take 5 |>.flatMap (bytesLe 2)
  { s with
    fatal := false, turn := .issue, agenda := [], turnCore := 0, cycle := s.cycle / 16 * 16
    mem := s.mem.write 0 words
    slots := Tab.set s.slots 0 { s.slot 0 with
      status := .running, pc := 0, rep := none, reject := none, yielded := none, pending := none
      blocks := [{ va := 0, bytes := words ++ List.replicate 54 0 }]
      unit := some { launch := 0, stage := 0, uid := 0, root := 0, parent := none, kind := .stage } } }

end Sys2Proof.Machine
end

