-- ==== Sys2Proof/Safety.lean ====
section
/-! DEFINITION. The words in which statements speak: when an instruction's operands are there, the state after a result,
what a completed instruction leaves as it was, what a state must satisfy for a kind of step, and invariants. -/

namespace Sys2Proof.Machine

open Host

/-! ## Operands (R11, R12, R111, R166, R170, R171) -/

/-- The value that register field `r` gives: a register's, or the data of the element at position `pos` of a port. -/
def State.peek (s : State) (r pos : Nat) : Option Word :=
  if isPort r then
    match s.headAt s.cur r pos with
    | .elem e => if e.tag = 0 then some e.data else none
    | _ => none
  else some (s.me.x r)

/-- The values of register fields read in this order: each reading of a port takes the next element (R171). -/
def State.valuesFrom (s : State) : List Nat → List Nat → Option (List Word)
  | [], _ => some []
  | r :: rs, seen =>
    match s.peek r (seen.count r), s.valuesFrom rs (if isPort r then r :: seen else seen) with
    | some v, some vs => some (v :: vs)
    | _, _ => none

/-- The issuing slot's operands are there: the fields `reads` exist, are declared by its stage, may be read and give the
values `vs`, and the field `write` exists, is declared, may be written and has room. `extra` are further declared registers. -/
structure State.Ready (s : State) (reads : List Nat) (write : Option Nat) (vs : List Word) (extra : List Nat := []) : Prop where
  exist : ∀ n ∈ reads ++ write.toList, ¬(51 ≤ n ∧ n ≤ 55)
  declared : ∀ n ∈ reads ++ write.toList ++ extra, s.me.declared n = true
  readable : ∀ n ∈ reads, s.me.mayRead n = true
  writable : ∀ d ∈ write, s.me.mayWrite d = true ∧ (isPort d = true → s.portRoom s.cur d = true)
  values : s.valuesFrom reads [] = some vs

/-- The register fields read and the destination of an instruction exist, are declared, and may be read and written (R11, R12, R166,
R170). -/
structure State.Fields (s : State) (reads : List Nat) (d : Nat) : Prop where
  exist : ∀ n ∈ reads ++ [d], ¬(51 ≤ n ∧ n ≤ 55)
  declared : ∀ n ∈ reads ++ [d], s.me.declared n = true
  readable : ∀ n ∈ reads, s.me.mayRead n = true
  writable : s.me.mayWrite d = true

/-- None of the fields names a port (R111, R270, R348). -/
def NoPorts (rs : List Nat) : Prop := ∀ n ∈ rs, isPort n = false

/-- The state after an instruction that read `reads`, gave `v` to field `d` and did nothing else: the ports read are popped,
the destination has `v` and the PC has advanced. -/
def State.after (s : State) (reads : List Nat) (d : Nat) (v : Word) : State := ((s.popAll reads).writeX d v).retire

/-- As `after`, with the flags `f` set in fflags. -/
def State.afterFlags (s : State) (reads : List Nat) (d : Nat) (v : Word) (f : Nat) : State :=
  (((s.popAll reads).writeX d v).modMe (·.flag f)).retire

/-! ## Results of computing instructions -/

/-- The instruction `mk d` gives its destination `v`, in every state. -/
def NullaryResult (mk : Nat → Instr) (v : State → Word) : Prop :=
  ∀ s d, s.Ready [] (some d) [] → exec (mk d) s = .next (s.after [] d (v s))

/-- The instruction `mk d a` gives its destination `f` of its operand, in every state and for all register fields. -/
def UnaryResult (mk : Nat → Nat → Instr) (f : State → Word → Word) : Prop :=
  ∀ s d a x, s.Ready [a] (some d) [x] → exec (mk d a) s = .next (s.after [a] d (f s x))

/-- The instruction `mk d a b` gives its destination `f` of its operands. -/
def BinaryResult (mk : Nat → Nat → Nat → Instr) (f : Word → Word → Word) : Prop :=
  ∀ s d a b x y, s.Ready [a, b] (some d) [x, y] → exec (mk d a b) s = .next (s.after [a, b] d (f x y))

/-- As `BinaryResult`, in the form with a register and in the form with an immediate (R112). -/
def SrcResult (mk : Nat → Nat → Src → Instr) (f : Word → Word → Word) : Prop :=
  (∀ s d a b x y, s.Ready [a, b] (some d) [x, y] → exec (mk d a (.reg b)) s = .next (s.after [a, b] d (f x y))) ∧
  (∀ s d a i x, s.Ready [a] (some d) [x] → exec (mk d a (.imm i)) s = .next (s.after [a] d (f x (BitVec.ofInt 64 i))))

/-- The instruction `mk d a b` reads its destination too, which is no port (R111). -/
def TernaryResult (mk : Nat → Nat → Nat → Instr) (f : Word → Word → Word → Word) : Prop :=
  ∀ s d a b c x y, s.Ready [d, a, b] (some d) [c, x, y] → isPort d = false →
    exec (mk d a b) s = .next (s.after [d, a, b] d (f c x y))

/-- As `UnaryResult`, with flags (R113). -/
def UnaryFlagged (mk : Nat → Nat → Instr) (f : State → Word → Nat × Nat) : Prop :=
  ∀ s d a x, s.Ready [a] (some d) [x] → exec (mk d a) s = .next (s.afterFlags [a] d (word (f s x).1) (f s x).2)

/-- As `BinaryResult`, with flags. -/
def BinaryFlagged (mk : Nat → Nat → Nat → Instr) (f : State → Word → Word → Nat × Nat) : Prop :=
  ∀ s d a b x y, s.Ready [a, b] (some d) [x, y] →
    exec (mk d a b) s = .next (s.afterFlags [a, b] d (word (f s x y).1) (f s x y).2)

/-- As `TernaryResult`, with flags. -/
def TernaryFlagged (mk : Nat → Nat → Nat → Instr) (f : State → Word → Word → Word → Nat × Nat) : Prop :=
  ∀ s d a b c x y, s.Ready [d, a, b] (some d) [c, x, y] → isPort d = false →
    exec (mk d a b) s = .next (s.afterFlags [d, a, b] d (word (f s c x y).1) (f s c x y).2)

/-! ## What an instruction leaves as it was -/

/-- The registers of a slot that only instructions for them, traps and token transfers write. fflags is not among them. -/
structure Slot.SameSpecial (x y : Slot) : Prop where
  frm : y.frm = x.frm
  tfrm : y.tfrm = x.tfrm
  asid : y.asid = x.asid
  tcause : y.tcause = x.tcause
  tip : y.tip = x.tip
  taddr : y.taddr = x.taddr
  thand : y.thand = x.thand
  tinfo : y.tinfo = x.tinfo
  rasid : y.rasid = x.rasid
  agsel : y.agsel = x.agsel
  qsel : y.qsel = x.qsel
  tvec : y.tvec = x.tvec
  ports : y.ports = x.ports
  lease : y.lease = x.lease
  scales : (y.scaleA, y.scaleB) = (x.scaleA, x.scaleB)
  batches : (y.batch, y.batches, y.copySeq, y.tileSeq) = (x.batch, x.batches, x.copySeq, x.tileSeq)
  bounds : (y.regBound, y.scratchBound, y.barrierBound, y.ringBound) = (x.regBound, x.scratchBound, x.barrierBound, x.ringBound)
  stack : (y.stackBase, y.stackSize) = (x.stackBase, x.stackSize)

/-- From `s` to `t` every slot but the issuing one, and of that one every register but those of `ds`, fflags, the PC and the
class counters, is as it was; and so are the clusters, the dies, the address spaces and the host ports. -/
structure State.KeptRegs (ds : List Nat) (s t : State) : Prop where
  cur : t.cur = s.cur
  others : ∀ g, g ≠ s.cur → t.slot g = s.slot g
  regs : ∀ n, n ∉ ds → t.me.x n = s.me.x n
  special : s.me.SameSpecial t.me
  clusters : t.clusters = s.clusters
  dies : t.dies = s.dies
  asids : t.asids = s.asids
  hosts : t.ports = s.ports

/-- As `KeptRegs`, and every byte of memory and the class counters are as they were. -/
structure State.KeptBut (ds : List Nat) (s t : State) : Prop extends State.KeptRegs ds s t where
  bytes : ∀ a, t.mem.byte a = s.mem.byte a
  counters : (t.me.ld, t.me.st, t.me.cp, t.me.tb) = (s.me.ld, s.me.st, s.me.cp, s.me.tb)

/-- The bits of frm, tfrm and fflags that do not exist are zero (R5, R21, R22). -/
def Slot.ReservedClear (x : Slot) : Prop := x.frm.toNat < 4 ∧ x.tfrm.toNat < 4 ∧ x.fflags.toNat < 64

/-- They are zero in every slot, and in every thread that waits to take one: a forked task, a unit that has yielded or rests, a
thread that a pre-emption has saved, and one that migrates (R179, R181, R206, R407). -/
structure State.ReservedClear (s : State) : Prop where
  slots : ∀ e ∈ s.slots, e.2.ReservedClear
  tasks : ∀ l ∈ s.launches, ∀ t ∈ l.2.tasks, t.slot.ReservedClear
  resting : ∀ l ∈ s.launches, ∀ t ∈ l.2.resting, t.2.slot.ReservedClear
  saved : ∀ l ∈ s.launches, ∀ ts ∈ l.2.saved, ∀ t ∈ ts, t.slot.ReservedClear
  migrations : ∀ m ∈ s.migrations, m.thread.ReservedClear

/-! ## Numbers as rationals (R83 to R108, R324) -/

/-- 2^e. -/
def powerOfTwo (e : Int) : Rat := if 0 ≤ e then ((2 ^ e.toNat : Nat) : Rat) else 1 / ((2 ^ (-e).toNat : Nat) : Rat)

/-- The number that a finite value stands for; 0 for the others. -/
def Val.rat : Val → Rat
  | .fin n m e => (if n then -1 else 1) * (m : Rat) * powerOfTwo e
  | _ => 0

/-- A value is a number. -/
def Val.isFin : Val → Bool
  | .fin _ _ _ => true
  | _ => false

/-- Magnitude of a code without its sign; +∞ stands where the next number would (R89). -/
def Ieee.magnitude (f : Ieee) (c : Nat) : Rat := if c < f.infCode then (f.decode c).rat else powerOfTwo (f.emax + 1)

/-- A number without its sign. -/
def absolute (v : Rat) : Rat := if v < 0 then -v else v

/-- Order of a rational number against the number `a`. -/
def against (a q : Rat) : Ordering := if q < a then .lt else if q = a then .eq else .gt

/-- A magnitude of this sign is rounded toward zero, or away from it (R21). -/
def towardZero (mode : Nat) (neg : Bool) : Bool := mode == 1 || (mode == 2 && neg) || (mode == 3 && !neg)
def awayFromZero (mode : Nat) (neg : Bool) : Bool := (mode == 2 && !neg) || (mode == 3 && neg)

/-- The code is the correctly rounded one of a number that is not zero: of the sign `neg`, and of the magnitude against which `cmp`
orders the rational numbers (R89). -/
structure Ieee.Rounded (f : Ieee) (mode : Nat) (neg : Bool) (cmp : Rat → Ordering) (code : Nat) : Prop where
  sign : code = f.signed neg (code % 2 ^ (f.width - 1))
  top : code % 2 ^ (f.width - 1) ≤ f.infCode
  nearest : mode = 0 → let c := code % 2 ^ (f.width - 1)
    let middle (k : Nat) : Ordering := cmp ((f.magnitude k + f.magnitude (k + 1)) / 2)
    (c ≠ 0 → middle (c - 1) = .lt ∨ (middle (c - 1) = .eq ∧ c % 2 = 0)) ∧
    (c ≠ f.infCode → middle c = .gt ∨ (middle c = .eq ∧ c % 2 = 0))
  toward : towardZero mode neg = true → let c := code % 2 ^ (f.width - 1)
    c ≠ f.infCode ∧ cmp (f.magnitude c) ≠ .gt ∧ (c ≠ f.maxCode → cmp (f.magnitude (c + 1)) = .gt)
  away : awayFromZero mode neg = true → let c := code % 2 ^ (f.width - 1)
    c ≠ 0 ∧ cmp (f.magnitude (c - 1)) = .lt ∧ (c ≠ f.infCode → cmp (f.magnitude c) ≠ .lt)

/-- The flags of that rounding (R89, R90): OF beyond the largest number, UF where the result is inexact and tiny after rounding, NX
where it is inexact. -/
def Ieee.flagsOf (f : Ieee) (mode : Nat) (neg : Bool) (cmp : Rat → Ordering) (code : Nat) : Nat :=
  let c := code % 2 ^ (f.width - 1)
  let inexact := c == f.infCode || cmp (f.magnitude c) != .eq
  let small := powerOfTwo f.emin
  let tiny := if towardZero mode neg then cmp small == .gt
    else if awayFromZero mode neg then cmp (small - powerOfTwo (f.emin - f.p)) != .lt
    else cmp (small - powerOfTwo (f.emin - f.p - 1)) == .gt
  let beyond := if towardZero mode neg then cmp (powerOfTwo (f.emax + 1)) != .gt else c == f.infCode
  (if beyond then fOF else 0) + (if tiny && inexact then fUF else 0) + (if inexact then fNX else 0)

/-- `r` is the code and the flags of a number that is not zero. -/
def Ieee.Correct (f : Ieee) (mode : Nat) (neg : Bool) (cmp : Rat → Ordering) (r : Nat × Nat) : Prop :=
  f.Rounded mode neg cmp r.1 ∧ r.2 = f.flagsOf mode neg cmp r.1

/-- The same of a rational number. -/
def Ieee.CorrectAt (f : Ieee) (mode : Nat) (v : Rat) (r : Nat × Nat) : Prop :=
  f.Correct mode (decide (v < 0)) (against (absolute v)) r

/-- Integer `i` is the number `v`, rounded (R21, R91). -/
def RoundsTo (mode : Nat) (v : Rat) (i : Int) : Prop :=
  (mode = 0 → 2 * (i : Rat) - 1 ≤ 2 * v ∧ 2 * v ≤ 2 * (i : Rat) + 1 ∧ (2 * v = 2 * (i : Rat) - 1 ∨ 2 * v = 2 * (i : Rat) + 1 → i % 2 = 0)) ∧
  (mode = 2 ∨ (mode = 1 ∧ v < 0) → (i : Rat) - 1 < v ∧ v ≤ (i : Rat)) ∧
  (mode = 3 ∨ (mode = 1 ∧ 0 ≤ v) → (i : Rat) ≤ v ∧ v < (i : Rat) + 1)

/-- `r` is the code of `w` bits and the flags of a number that is not zero in a tapered format (R96): the bound where the magnitude
lies beyond the least or the greatest, the number itself, or one of its two neighbours. -/
def TaperedCorrect (w mode : Nat) (neg : Bool) (a : Rat) (r : Nat × Nat) : Prop :=
  let m (c : Nat) : Rat := (taperedDecode w c).rat
  let top := 2 ^ (w - 1) - 1
  let code (c : Nat) : Nat := if neg then 2 ^ w - c else c
  (a < m 1 → r = (code 1, fUF + fNX)) ∧ (m top < a → r = (code top, fOF + fNX)) ∧
  ∀ c, 1 ≤ c → c ≤ top → (a = m c → r = (code c, 0)) ∧
    (c < top → m c < a → a < m (c + 1) →
      (mode = 0 → (2 * a < m c + m (c + 1) → r = (code c, fNX)) ∧ (m c + m (c + 1) < 2 * a → r = (code (c + 1), fNX)) ∧
        (2 * a = m c + m (c + 1) → r = (code (if c % 2 = 0 then c else c + 1), fNX))) ∧
      (towardZero mode neg = true → r = (code c, fNX)) ∧ (awayFromZero mode neg = true → r = (code (c + 1), fNX)))

/-! ## Memory -/

/-- Bits 8 k + 7 to 8 k of a word. -/
def byteAtPlace (v : Word) (k : Nat) : Byte := BitVec.ofNat 8 (v.toNat / 256 ^ k)

/-- `n` bytes at address `a` lie, aligned, in the scratchpad of the issuing slot's core, at offset `o`, within what its stage
declares; the address is in the aperture of the own scratchpad or in that of the cluster's (R37). -/
structure State.InScratch (s : State) (a : Word) (n o : Nat) : Prop where
  compute : s.myCore < 768
  address : a.toNat = 0xE0 * 2 ^ 56 + o ∨ a.toNat = 0xE1 * 2 ^ 56 + s.myCore % 8 * 2 ^ 18 + o
  width : n = 1 ∨ n = 2 ∨ n = 4 ∨ n = 8 ∨ n = 32 ∨ n = 64
  aligned : o % n = 0
  inside : o + n ≤ s.me.scratchBound
  bound : s.me.scratchBound ≤ 262144

/-- Nothing holds back an access of the issuing slot: no release, fence, promotion, close, buffered write, request or operand
ring of its core, no uncorrectable error in memory, and room in its counter of stores. -/
structure State.Unhindered (s : State) : Prop where
  releases : s.me.releases = []
  fenced : s.me.fenced = []
  stores : s.me.st < 65535
  buffer : (s.core s.myCore).wb = []
  promotions : (s.core s.myCore).promotions = []
  closes : (s.core s.myCore).closeWaits = false
  rings : (s.core s.myCore).rings = []
  requests : ∀ m ∈ s.net, m.core ≠ s.myCore
  bodies : ∀ x ∈ s.sendings, x.slot ≠ s.cur
  errors : s.lost = []

/-- A load of `n` bytes at `a`, of the slot that issued in state `s`, has its bytes `bs` at issue: it passes its checks in the state
`u` after the pops, no fence of the slot is pending, and the core holds every piece, or its own port gives the only one (R33, R242,
R252, R271). That such a load completes in the step of its issue is the model's choice (notes/assumptions/8.md). `t` is the state
after the reading. -/
def State.ReadsNow (u s : State) (a : Word) (n align : Nat) (bs : List Byte) (t : State) : Prop :=
  ∃ cs es, u.check (u.accessor s.cur) a n align .load = .ok (cs, es) ∧ s.me.fenced = [] ∧
    (u.installAll s.myCore es).readAtOnce s.myCore .cached (piecesOf cs) = .ok (some (bs, t))

/-- First byte of the page of a located byte. -/
def State.pageOf (s : State) (l : Loc) : Nat := s.physical l.asid (l.va / l.pageSize * l.pageSize) l.pageSize l.leaf

/-- From `s` to `t` the issuing slot has begun to wait for one word for its register `d` (R152): the reply will bear the number
`s.nextId`; no register, no byte of memory and no other slot has changed. -/
structure State.AwaitsWord (s : State) (d : Nat) (t : State) : Prop where
  parked : t.me.status = .parked .own
  pending : ∃ p q, t.me.pending = some p ∧ p.id = s.nextId ∧ p.finish = .word d ∧ p.len = s.ilen ∧ p.left = 0 ∧ p.parts = [q] ∧
    q.off = 0 ∧ q.bytes = none ∧ q.failed = none
  pc : t.me.pc = s.me.pc
  regs : ∀ n, t.me.x n = s.me.x n
  bytes : ∀ a, t.mem.byte a = s.mem.byte a
  others : ∀ g, g ≠ s.cur → t.slot g = s.slot g

/-- From `s` to `t` the issuing slot has begun to wait for `left` replies without data (R152), after which it does what `fin` says;
no register, no byte of memory and no other slot has changed. -/
structure State.Awaits (s t : State) (fin : Finish) (left : Nat) : Prop where
  parked : t.me.status = .parked .own
  pending : ∃ p, t.me.pending = some p ∧ p.finish = fin ∧ p.left = left ∧ p.parts = [] ∧ p.len = s.ilen
  pc : t.me.pc = s.me.pc
  regs : ∀ n, t.me.x n = s.me.x n
  bytes : ∀ a, t.mem.byte a = s.mem.byte a
  others : ∀ g, g ≠ s.cur → t.slot g = s.slot g

/-- Reply `i`, which is `r`, stands behind no earlier reply and no earlier acceptance of its path (R435), and has had its time
(R456). -/
structure State.ReplyArrives (s : State) (i : Nat) (r : Reply) : Prop where
  there : s.replies[i]? = some r
  first : ∀ x ∈ s.replies.take i, samePath x.poa r.poa x.slot r.slot = false
  behind : ∀ o ∈ s.acks, samePath (some o.poa) r.poa o.slot r.slot = true → sentBefore o.sent r.sent = false
  crossed : s.crossed ((r.poa.bind dieOfPoa).getD (dieOf r.slot)) (dieOf r.slot) r.sent = true

/-- The same of acceptance `i`, which is `o`. -/
structure State.AckArrives (s : State) (i : Nat) (o : OpRef) : Prop where
  there : s.acks[i]? = some o
  first : ∀ x ∈ s.acks.take i, samePath (some x.poa) (some o.poa) x.slot o.slot = false
  behind : ∀ r ∈ s.replies, samePath r.poa (some o.poa) r.slot o.slot = true → sentBefore r.sent o.sent = false
  crossed : s.crossed ((dieOfPoa o.poa).getD (dieOf o.slot)) (dieOf o.slot) o.sent = true

/-- Reply `r`, at place `i` among those on their way, arrives next and is the last that the waiting instruction `p` of its slot
needs; it is no fault, no store of the slot has been refused, and no asynchronous load and no message body bears its number
(R152). -/
structure State.LastReply (s : State) (i : Nat) (r : Reply) (p : Pending) : Prop extends State.ReplyArrives s i r where
  late : (s.slot r.slot).late = none
  good : r.failed = none
  unit : (s.slot r.slot).uid = r.uid
  status : (s.slot r.slot).status = .parked .own
  going : (s.slot r.slot).stopAsked = false
  pending : (s.slot r.slot).pending = some p
  number : p.id = r.id
  left : p.left = 0
  room : p.room = none
  parts : ∀ q ∈ p.parts, q.failed = none ∧ (q.off = r.off → q.bytes = none) ∧ (q.off ≠ r.off → q.bytes.isSome = true)
  loads : ∀ o ∈ (s.slot r.slot).outstanding, o.id ≠ r.id
  bodies : ∀ x ∈ s.sendings, x.id ≠ r.id

/-- From `s` to `t` the issuing slot has sent a record to offset `o` of the scratchpad of core `c`, counted as one store of its own,
and waits until it is accepted (R367, R420); nothing else has changed. That the record is one request is the model's choice
(notes/assumptions/91.md). -/
structure State.SendsRecord (s t : State) (c o : Nat) (bytes : List Byte) : Prop where
  sent : ∃ m : Msg, t.net = s.net ++ [m] ∧ m.core = s.myCore ∧ m.poa = poaCore c ∧ m.body = .write (cellsAt (scratchPa c o) bytes) ∧
    m.ops.map (fun o => (o.slot, o.id)) = [(s.cur, s.nextId)]
  counted : (∀ r ∈ s.me.stores, r.id ≠ s.nextId) → t.me.st = s.me.st + 1
  parked : t.me.status = .parked (.accepted s.nextId)
  pending : ∃ p, t.me.pending = some p ∧ p.finish = .none ∧ p.parts = [] ∧ p.room = none ∧ p.len = s.ilen
  pc : t.me.pc = s.me.pc
  regs : ∀ n, t.me.x n = s.me.x n
  bytes : t.mem = s.mem
  others : ∀ g, g ≠ s.cur → t.slot g = s.slot g

/-- The bytes of a waiting instruction's parts, with those of a reply. -/
def Pending.bytesWith (p : Pending) (r : Reply) : List Byte := bytesOf (p.parts.map (·.take r))

/-- The registers that a waiting load, atomic, append, seal or tail gives, from a number up, and their values (R151, R269). -/
def Finish.gives (f : Finish) (bs : List Byte) : Option (Nat × List Word) :=
  match f with
  | .load z d | .acquire z _ d => some (d, [extend z (numLe bs)])
  | .group d n => some (d, (List.range n).map fun j => BitVec.ofNat 64 (numLe ((bs.drop (8 * j)).take 8)))
  | .word d => some (d, [BitVec.ofNat 64 (numLe bs)])
  | .atomic t d => some (d, [amoOld t (numLe bs)])
  | _ => Option.none

/-- From `s` to `t` the waiting instruction `p` of slot `g` has completed: the slot waits for nothing and is eligible from the next
cycle on, its PC stands behind the instruction, and no byte of memory and no other slot has changed (R151, R152). -/
structure State.Completes (s t : State) (g : Nat) (p : Pending) : Prop where
  pending : (t.slot g).pending = none
  status : (t.slot g).status = .parked .eligible
  pc : (t.slot g).pc = ((s.slot g).advance p.len).pc
  bytes : t.mem = s.mem
  others : ∀ h, h ≠ g → t.slot h = s.slot h

/-- The waiting instruction `p` of slot `g` misses one reply without data, which no part of an access accompanies. -/
structure State.LastOf (s : State) (g : Nat) (p : Pending) : Prop where
  pending : (s.slot g).pending = some p
  status : (s.slot g).status = .parked .own
  going : (s.slot g).stopAsked = false
  left : p.left = 1
  parts : p.parts = []
  room : p.room = none
  late : (s.slot g).late = none

/-! ## Vector instructions and tile commands -/

/-- The issuing slot may run a vector instruction that reads register fields `reads`, writes field `write` (or none) and works on
rows `rows` and `row` of its leased bank: its operands are there, it holds bank `x.bank` of its cluster, whose mode is `x.mode`,
and no tile command that has not retired conflicts (R320, R335). -/
structure State.VectorReady (s : State) (reads : List Nat) (write : Option Nat) (vs : List Word) (rows : List Nat)
    (row : Option Nat) (x : Lease) : Prop where
  operands : s.Ready reads write vs
  leased : ∃ w, s.me.lease = some (x.bank, w)
  cluster : x.cluster = clusterOf s.myCore
  mode : x.mode = (s.bank x.cluster x.bank).mode
  rounding : x.rnd = s.me.tfrm.toNat % 4
  free : (s.bank x.cluster x.bank).busyFor rows row = false

/-- Element `i` of the level `n` of a pairwise tree over `t`, with the flags gathered below it: each level combines the neighbours of
the one before (R343). -/
def pairTree (f : Nat → Nat → Nat × Nat) (t : Nat → Nat) : Nat → Nat → Nat × Nat
  | 0, i => (t i, 0)
  | n + 1, i =>
    let p := pairTree f t n (2 * i)
    let q := pairTree f t n (2 * i + 1)
    ((f p.1 q.1).1, p.2 ||| q.2 ||| (f p.1 q.1).2)

/-- From `s` to `t` the issuing slot has issued one tile command `op` on its bank `b` (R297, R317, R347): it stands last in the
bank's order with the slot's batch and the bank's mode and the slot's rounding, and is counted in the core's command queue and
the slot's open batch; no register and no byte of memory has changed. -/
structure State.Issued (s t : State) (b : Nat) (op : TileOp) : Prop where
  command : ∃ k, (t.bank (clusterOf s.myCore) b).order = (s.bank (clusterOf s.myCore) b).order ++ [k] ∧ k.op = op ∧ k.slot = s.cur ∧
    k.core = s.myCore ∧ k.batch = s.me.batch ∧ k.mode = (s.bank (clusterOf s.myCore) b).mode ∧ k.tfrm = s.me.tfrm.toNat % 4 ∧
    k.started = none
  queue : (t.core s.myCore).cmdQueue = (s.core s.myCore).cmdQueue + 1
  open_ : t.me.openCmds = s.me.openCmds + 1
  regs : ∀ n, t.me.x n = s.me.x n
  bytes : ∀ a, t.mem.byte a = s.mem.byte a

/-- The issuing slot holds bank `b` of its cluster, one of the four, and the core's command queue has room. -/
structure State.MayIssue (s : State) (b : Nat) : Prop where
  lease : ∃ w, s.me.lease = some (b, w)
  bank : b < 4
  room : (s.core s.myCore).cmdQueue < 32

/-- The slot of ring `r` that is next once the rings of a list have each been named as often as they stand in it (R313): the
counts go modulo 65,536. -/
def State.nextSlot (s : State) (named : List Nat) (r : Nat) : Nat :=
  let n := (s.ring s.myCore r).next
  if named.count r = 0 then n else (n + named.count r) % 65536

/-! ## Events -/

/-- Request `m`, at place `i` among those on their way, arrives next at its point of acceptance: no release holds it back, no earlier
request of its core to the same point is still on its way, it waits for no shadow frame, it has been under way for long enough, and
the point has accepted none of a higher rank in this cycle (R217, R231, R232, R243, R252, R456). -/
structure State.Arrives (s : State) (i : Nat) (m : Msg) : Prop where
  there : s.net[i]? = some m
  released : s.gateOpen m = true
  first : ∀ x ∈ s.net.take i, x.core = m.core → x.poa = m.poa → s.gateOpen x = false
  filled : s.fillOf m = none
  inOrder : s.mayAccept m.poa m.rank = true
  crossed : s.crossed (dieOfCore m.core) (s.servingDie m) m.sent = true

/-- The state after request `i` has left the way at point `poa`, which has accepted it with its rank. -/
def State.taking (s : State) (i poa rank : Nat) : State := { s with net := s.net.eraseIdx i }.noteAccepted poa rank

/-- No release of a slot of core `c` and no promotion that the core serves is under way. -/
structure State.Calm (s : State) (c : Nat) : Prop where
  promotions : (s.core c).promotions = []
  releases : ∀ g, coreOf g = c → (s.slot g).releases = []

/-- A byte of DRAM. -/
def inDram (pa : Nat) : Prop := ∃ c, region pa = .fast c ∨ region pa = .cap c

/-- A byte of DRAM whose sector reads as it was written: no key slot has been named for it, or it was written under the key through
which it is reached (R226, R418). -/
def State.Plain (s : State) (pa : Nat) : Prop := inDram pa ∧ (s.keyNow pa = none ∨ s.keyWritten pa = s.keyNow pa)

/-- Port `p` takes a command now: the module is ready, the port is awake and runs no other command (R447). -/
structure State.Commands (s : State) (p : Nat) : Prop where
  port : p < 2
  ready : s.ready = true
  awake : (s.port p).d3 = false
  free : (s.port p).busy = none

/-- Port `p` has an open job `job`, which is `j` (R448). -/
structure State.OpenJob (s : State) (p job : Nat) (j : Job) : Prop extends State.Commands s p where
  job : Tab.get? s.jobs job = some j
  own : j.port = p
  running : j.status = 0

/-- The state after a command was answered with a status and two words: the response register holds the sequence number, the
status and the words, and vector 4 is sent or pending (R446, R447). -/
def State.answered (s : State) (p seq status a b : Nat) : State :=
  s.modPort p fun hp => { hp with busy := none, waiting := none, response := [word seq, word status, word a, word b, 0, 0, 0, 0] }.send 4

end Sys2Proof.Machine

namespace Sys2Proof

open Machine

/-- The register fields of an operand that is a register or an immediate. -/
def Src.fields : Src → List Nat
  | .reg b => [b]
  | .imm _ => []

/-- Fields read and destination of the instructions that only compute (pages 0, 1 and 2 but for memory, control transfer,
repeats and layouts), and whether they may set flags (R56, R57, R58, R111, R113). -/
def Instr.computes : Instr → Option (List Nat × Nat × Bool)
  | .add d a b | .sub d a b | .and d a b | .or d a b | .xor d a b | .shl d a b | .slt d a b | .andn d a b | .orn d a b
  | .lea d a b _ | .bext d a (.reg b) => some ([a, b], d, false)
  | .mul d a b | .mulh d a b | .mulhn d a b | .div d a b | .divn d a b | .rem d a b | .remn d a b | .shr d a b
  | .sar d a b | .rol d a b | .sltn d a b | .seq d a b | .min d a b | .max d a b | .minn d a b | .maxn d a b =>
    some (a :: b.fields, d, false)
  | .addi d a _ | .mov d a | .not d a | .neg d a | .sx32 d a | .zx32 d a | .clz d a | .ctz d a | .popc d a | .bswap d a
  | .abs d a | .hdrGet d a _ _ | .bext d a (.imm _ _) | .fabs d a | .fneg d a | .fclass d a => some ([a], d, false)
  | .li d _ | .tsRd d | .cid d _ => some ([], d, false)
  | .sel d a b | .mac d a b | .bins d a (.reg b) => some ([d, a, b], d, false)
  | .bins d a (.imm _ _) => some ([d, a], d, false)
  | .hdrPack d a _ => some ([a, a + 1, a + 2, a + 3, a + 4, a + 5, a + 6, a + 7], d, false)
  | .fadd _ d a b | .fsub _ d a b | .fmul _ d a b | .fdiv _ d a b | .fmin d a b | .fmax d a b | .fcmp _ d a b
  | .cvtPk _ d a b => some ([a, b], d, true)
  | .fsqrt _ d a | .frnd _ d a | .frcp _ d a | .frsq _ d a | .fex2 _ d a | .flg2 _ d a | .cvtFF _ _ d a | .cvtFI _ _ _ d a
  | .cvtIF _ _ _ d a => some ([a], d, true)
  | .fma d a b | .fmsub _ d a b | .fdot2 _ d a b => some ([d, a, b], d, true)
  | _ => none

/-- What a memory instruction accesses: the register fields it reads, its destination, its further registers, the address that
the values read give, the bytes, the alignment (0 where none is required) and the operation (R268 to R282). -/
structure MemAccess where
  reads : List Nat
  write : Option Nat := none
  extra : List Nat := []
  address : List Word → Word
  n : Nat
  align : Nat := 0
  op : Op

/-- The values read give an address with an offset, and the sum of two registers. -/
def offsetFrom (i : Int) (vs : List Word) : Word := vs.getD 0 0 + BitVec.ofInt 64 i
def sumOfTwo (vs : List Word) : Word := vs.getD 0 0 + vs.getD 1 0

/-- The access of an atomic: its operands, its destination but for a no-return form, and its word, aligned (R270, R278, R279). -/
def atomicAccess (op : AmoOp) (t : AType) (nr : Bool) (d a b : Nat) : MemAccess :=
  { reads := [a, b], write := if nr then none else some d, address := offsetFrom 0, n := atypeBytes t, align := atypeBytes t
    op := .atomic (hostAtomic op) }

/-- The accesses of loads, stores, atomics and of the instructions on seal-class pages. -/
def Instr.accesses : Instr → Option MemAccess
  | .ld d a i => some { reads := [a], write := some d, address := offsetFrom (8 * i), n := 8, op := .load }
  | .st d a i => some { reads := [a, d], address := offsetFrom (8 * i), n := 8, op := .store }
  | .ldS z d a i => some { reads := [a], write := some d, address := offsetFrom i, n := sizeBytes z, op := .load }
  | .stS z d a i => some { reads := [a, d], address := offsetFrom i, n := sizeBytes z, op := .store }
  | .ldx z d a b => some { reads := [a, b], write := some d, address := sumOfTwo, n := sizeBytes z, op := .load }
  | .stx z d a b => some { reads := [a, b, d], address := sumOfTwo, n := sizeBytes z, op := .store }
  | .ldQ d a i => some { reads := [a], extra := (List.range 4).map (d + ·), address := offsetFrom i, n := 32, op := .load }
  | .stQ d a i => some { reads := [a], extra := (List.range 4).map (d + ·), address := offsetFrom i, n := 32, op := .store }
  | .ldO d a i => some { reads := [a], extra := (List.range 8).map (d + ·), address := offsetFrom i, n := 64, op := .load }
  | .stO d a i => some { reads := [a], extra := (List.range 8).map (d + ·), address := offsetFrom i, n := 64, op := .store }
  | .ldAcq z _ d a => some { reads := [a], write := some d, address := offsetFrom 0, n := sizeBytes z, align := sizeBytes z, op := .load }
  | .stRel z _ d a => some { reads := [a, d], address := offsetFrom 0, n := sizeBytes z, align := sizeBytes z, op := .store }
  | .amoAdd t nr d a b => some (atomicAccess .add t nr d a b)
  | .amoMin t nr d a b => some (atomicAccess .min t nr d a b)
  | .amoMax t nr d a b => some (atomicAccess .max t nr d a b)
  | .amoAnd t nr d a b => some (atomicAccess .and t nr d a b)
  | .amoOr t nr d a b => some (atomicAccess .or t nr d a b)
  | .amoXor t nr d a b => some (atomicAccess .xor t nr d a b)
  | .amoSwp t nr d a b => some (atomicAccess .swp t nr d a b)
  | .amoInc t nr d a b => some (atomicAccess .inc t nr d a b)
  | .amoCas t d a b => some { atomicAccess (.cas 0) t false d a b with reads := [a, b, d] }
  | .append z d a b => some { reads := [a], write := some d, extra := (List.range (recBytes z / 8)).map (b + ·), address := offsetFrom 0
                              n := recBytes z, align := recBytes z, op := .append }
  | .sealPage d a => some { reads := [a], write := some d, address := offsetFrom 0, n := 8, align := 8, op := .sealOp }
  | .tail d a => some { reads := [a], write := some d, address := offsetFrom 0, n := 8, align := 8, op := .tailOp }
  | _ => none

end Sys2Proof
end

