-- ==== Sys2Proof/Certificates/Slice0/Obligations.lean ====
section
/-! DEFINITION. The statements for the provers. -/

open Sys2Proof Sys2Proof.Machine

/-! ## Encodings (R40 to R73) -/

/-- R40 to R63 and R73: every well-formed instruction, with every operand at every value that the encoding admits, is decoded again
from its own words, whatever words follow. -/
def Obligations.DecodeReadsBackEveryEncoding : Prop :=
  ∀ i : Instr, i.wf = true → ∀ rest : List Nat, decode (encode i ++ rest) = .ok (i, (encode i).length)

/-- R41, R47 and R51 to R65: what the decoder accepts is a well-formed instruction of one to five words, and the words behind it do
not matter. -/
def Obligations.DecodedInstructionsAreWellFormed : Prop :=
  ∀ (ws : List Nat) (i : Instr) (n : Nat), decode ws = .ok (i, n) →
    i.wf = true ∧ 1 ≤ n ∧ n ≤ 5 ∧ n ≤ ws.length ∧ ∀ rest, decode (ws.take n ++ rest) = .ok (i, n)

/-- Words written out from R40 to R63 decode to the instructions that they stand for, and illegal chains are refused (R65). -/
def Obligations.WordsOfTheMapDecode : Prop :=
  decode [0x0123] = .ok (.add 1 2 3, 1) ∧ decode [0xF280, 0x0123] = .ok (.add 17 2 3, 2) ∧
  decode [0xF006, 0x6124] = .ok (.addi 1 2 100, 2) ∧ decode [0x612F] = .ok (.addi 1 2 (-1), 1) ∧ decode [0xE006] = .ok (.ret, 1) ∧
  decode [0xF440, 0x0123] = .ok (.mul 1 2 (.reg 3), 2) ∧ decode [0xF482, 0x0123] = .ok (.fadd .rz 1 2 3, 2) ∧
  decode [0xF4C4, 0x0124] = .ok (.ldS .i32 1 2 4, 2) ∧ decode [0xF512, 0xF380, 0x0C00] = .ok (.qtok 60 2, 3) ∧
  decode [0xF540, 0x0567] = .ok (.vadd 5 6 7, 2) ∧ decode [0xF5A8, 0x0300] = .ok (.ringPush 3, 2) ∧
  decode [0xF5C0, 0xF001, 0x0123] = .ok (.csrr 1 0x123, 3) ∧
  decode [0xF001, 0xF002, 0xF003, 0xF004, 0xF005, 0x6124] = .error (.tooManyPrefixes 4) ∧
  decode [0xF440, 0xF440, 0x0123] = .error (.secondPage 1) ∧ decode [0xF600, 0x0123] = .error (.reservedPrefix 0) ∧
  decode [0xF001, 0x0123] = .error (.noImmediate 0) ∧ decode [0xE009] = .error (.noInstruction 0)

/-! ## Computing instructions (R114 to R124, R133 to R146) -/

/-- R114: the integer instructions give these results, in both operand forms. -/
def Obligations.IntegerResultsOfR114 : Prop :=
  BinaryResult .add (fun a b => a + b) ∧ BinaryResult .sub (fun a b => a - b) ∧
  BinaryResult .and (fun a b => a &&& b) ∧ BinaryResult .or (fun a b => a ||| b) ∧ BinaryResult .xor (fun a b => a ^^^ b) ∧
  BinaryResult .andn (fun a b => a &&& ~~~b) ∧ BinaryResult .orn (fun a b => a ||| ~~~b) ∧
  BinaryResult .slt (fun a b => if a.slt b then 1 else 0) ∧ SrcResult .sltn (fun a b => if a < b then 1 else 0) ∧
  SrcResult .seq (fun a b => if a = b then 1 else 0) ∧
  SrcResult .min (fun a b => if a.sle b then a else b) ∧ SrcResult .max (fun a b => if a.sle b then b else a) ∧
  SrcResult .minn (fun a b => if a ≤ b then a else b) ∧ SrcResult .maxn (fun a b => if a ≤ b then b else a) ∧
  TernaryResult .sel (fun d a b => if d ≠ 0 then a else b) ∧ TernaryResult .mac (fun d a b => d + a * b) ∧
  (∀ k, BinaryResult (.lea · · · k) (fun a b => a + b <<< k)) ∧
  (∀ i, UnaryResult (.addi · · i) (fun _ a => a + BitVec.ofInt 64 i)) ∧ (∀ i, NullaryResult (.li · i) (fun _ => BitVec.ofInt 64 i)) ∧
  UnaryResult .abs (fun _ a => a.abs) ∧ UnaryResult .mov (fun _ a => a) ∧ UnaryResult .not (fun _ a => ~~~a) ∧
  UnaryResult .neg (fun _ a => -a) ∧ UnaryResult .sx32 (fun _ a => (a.setWidth 32).signExtend 64) ∧
  UnaryResult .zx32 (fun _ a => (a.setWidth 32).setWidth 64)

/-- R115 and R116: products are exact before a half is taken, quotients round toward zero, and a zero divisor or the overflowing
quotient gives what the table of R116 says. R117 and R118: shifts and rotates by bits 5:0 of the count, and bit counts, said bit
by bit. -/
def Obligations.ProductsQuotientsAndShifts : Prop :=
  (SrcResult .mul (fun a b => BitVec.ofInt 64 (a.toInt * b.toInt)) ∧
   SrcResult .mulh (fun a b => BitVec.ofInt 64 (a.toInt * b.toInt / 2 ^ 64)) ∧
   SrcResult .mulhn (fun a b => BitVec.ofNat 64 (a.toNat * b.toNat / 2 ^ 64)) ∧
   SrcResult .div (fun a b => if b = 0 then BitVec.allOnes 64 else a.sdiv b) ∧
   SrcResult .divn (fun a b => if b = 0 then BitVec.allOnes 64 else a / b) ∧
   SrcResult .rem (fun a b => a.srem b) ∧ SrcResult .remn (fun a b => a % b)) ∧
  ((∃ shl shr sar rol : Word → Word → Word,
     BinaryResult .shl shl ∧ SrcResult .shr shr ∧ SrcResult .sar sar ∧ SrcResult .rol rol ∧
     ∀ x y : Word, ∀ i < 64, ∀ c, c = y.toNat % 64 →
       (shl x y).getLsbD i = (decide (c ≤ i) && x.getLsbD (i - c)) ∧ (shr x y).getLsbD i = x.getLsbD (i + c) ∧
       (sar x y).getLsbD i = (if i + c < 64 then x.getLsbD (i + c) else x.getLsbD 63) ∧
       (rol x y).getLsbD i = x.getLsbD ((i + 64 - c) % 64)) ∧
   (∃ clz ctz popc bswap : Word → Word,
     UnaryResult .clz (fun _ => clz) ∧ UnaryResult .ctz (fun _ => ctz) ∧ UnaryResult .popc (fun _ => popc) ∧
     UnaryResult .bswap (fun _ => bswap) ∧ clz 0 = 64 ∧ ctz 0 = 64 ∧
     ∀ x : Word,
       (x ≠ 0 → (clz x).toNat < 64 ∧ x.getLsbD (63 - (clz x).toNat) = true ∧ ∀ i, 63 - (clz x).toNat < i → x.getLsbD i = false) ∧
       (x ≠ 0 → (ctz x).toNat < 64 ∧ x.getLsbD (ctz x).toNat = true ∧ ∀ i < (ctz x).toNat, x.getLsbD i = false) ∧
       (popc x).toNat = (List.range 64).countP (x.getLsbD ·) ∧
       ∀ i < 8, (bswap x).toNat / 256 ^ i % 256 = x.toNat / 256 ^ (7 - i) % 256))

/-- R119: bext takes the `len` bits from bit `pos` up, zero-extended; bins puts the low `len` bits at bit `pos` and leaves the other
bits of its destination; in the register form position and length stand in bits 5:0 and 11:6. R120 to R124: hdr.set writes the
layout of its core, or is illegal (cause 0x01, subcode 3) where a descriptor is outside its limits; hdr.get takes a field by its
offset and width, and hdr.pack combines eight registers. R133 and R134: cid gives the numbers of the slot, its core, cluster and
die, and ts.rd the time-stamp counter of its die. -/
def Obligations.BitFieldsLayoutsAndIdentity : Prop :=
  (∃ (take : Word → Nat → Nat → Word) (put : Word → Word → Nat → Nat → Word),
     BinaryResult (fun d a b => .bext d a (.reg b)) (fun x y => take x (y.toNat % 64) (y.toNat / 64 % 64 + 1)) ∧
     (∀ pos len, UnaryResult (fun d a => .bext d a (.imm pos len)) (fun _ x => take x pos len)) ∧
     TernaryResult (fun d a b => .bins d a (.reg b)) (fun o x y => put o x (y.toNat % 64) (y.toNat / 64 % 64 + 1)) ∧
     (∀ pos len s d a o x, s.Ready [d, a] (some d) [o, x] → isPort d = false →
       exec (.bins d a (.imm pos len)) s = .next (s.after [d, a] d (put o x pos len))) ∧
     ∀ o x : Word, ∀ pos ≤ 63, ∀ len, 1 ≤ len → len ≤ 64 → ∀ i < 64,
       (take x pos len).getLsbD i = (decide (i < len) && x.getLsbD (pos + i)) ∧
       (put o x pos len).getLsbD i = (if pos ≤ i ∧ i < pos + len then x.getLsbD (i - pos) else o.getLsbD i)) ∧
  ((∀ s l a b x y, s.Ready [a, b] none [x, y] → (∀ f < 8, layoutFieldOk (x, y) f = true) →
     ∃ t, exec (.hdrSet l a b) s = .next t ∧ t.layout l = (x, y) ∧ (∀ k, k ≠ l → t.layout k = s.layout k) ∧ s.KeptBut [] t) ∧
   (∀ s l a b x y, s.Ready [a, b] none [x, y] → (∃ f < 8, layoutFieldOk (x, y) f = false) →
     exec (.hdrSet l a b) s = .next (s.takeTrap s.cur { cause := 0x01, taddr := s.me.pc + word (s.ilen - 2), tinfo := 3 })) ∧
   (∀ l f, UnaryResult (.hdrGet · · l f) (fun s x =>
     word (x.toNat / 2 ^ (layoutField (s.layout l) f).1 % 2 ^ (layoutField (s.layout l) f).2))) ∧
   (∀ s d a l vs, s.Ready [a, a + 1, a + 2, a + 3, a + 4, a + 5, a + 6, a + 7] (some d) vs →
     exec (.hdrPack d a l) s =
       .next (s.after [a, a + 1, a + 2, a + 3, a + 4, a + 5, a + 6, a + 7] d (packHeader (s.layout l) vs 0 0)))) ∧
  (NullaryResult (.cid · .gslot) (fun s => word s.cur) ∧ NullaryResult (.cid · .core) (fun s => word (s.cur / 16)) ∧
   (∀ s d, s.cur < 12288 → s.Ready [] (some d) [] →
     exec (.cid d .cluster) s = .next (s.after [] d (word (s.cur / 128))) ∧
     exec (.cid d .die) s = .next (s.after [] d (word (s.cur / 3072))) ∧
     exec (.cid d .coreInCluster) s = .next (s.after [] d (word (s.cur / 16 % 8)))) ∧
   (∀ s d sel, s.Ready [] (some d) [] → ∃ v, exec (.cid d sel) s = .next (s.after [] d v)) ∧
   NullaryResult .tsRd (fun s => word (s.timeOf (dieOf s.cur))))

/-- R86, R89, R90, R101, R103, R113 and R136 to R141: floating-point arithmetic on FP32 codes, rounded by the modifier or frm. The
operations are stated by what their results are in the three IEEE formats: a code stands for the number that its fields give; a sum,
product, fused sum, quotient, root or reciprocal root of numbers is the code correctly rounded under each mode, with OF, UF and NX as
R90 has them; zeros and infinities have the signs of IEEE 754, invalid operations give the canonical NaN with NV, and a division by
zero DZ; 2^a and log2 a are exact where they can be and inexact elsewhere; comparisons, minima and maxima go by value; an integral
value is the one that the mode chooses. The NaN of R103 is one of the quietened operands, and comes first in the order of its four
rules; that rules 3 and 4 order unattributed NaNs too, and that they choose among three operands, is the model's reading
(notes/assumptions/83.md). -/
def Obligations.FloatArithmetic : Prop :=
  (∀ r,
    (∀ s d a b x y, s.Ready [a, b] (some d) [x, y] →
      let m := s.me.mode r
      let u := fp32.decode x.toNat
      let v := fp32.decode y.toNat
      let give (c : Nat × Nat) : Host.Outcome State Fault Refusal := .next (s.afterFlags [a, b] d (word c.1) c.2)
      exec (.fadd r d a b) s = give (fp32.add m u v) ∧ exec (.fsub r d a b) s = give (fp32.add m u v.negate) ∧
      exec (.fmul r d a b) s = give (fp32.mul m u v) ∧ exec (.fdiv r d a b) s = give (fp32.div m u v)) ∧
    UnaryFlagged (.fsqrt r) (fun s x => fp32.sqrt (s.me.mode r) (fp32.decode x.toNat)) ∧
    UnaryFlagged (.frcp r) (fun s x => fp32.div (s.me.mode r) (.fin false 1 0) (fp32.decode x.toNat)) ∧
    UnaryFlagged (.frsq r) (fun s x => fp32.rsq (s.me.mode r) (fp32.decode x.toNat)) ∧
    UnaryFlagged (.fex2 r) (fun s x => fp32.ex2 (s.me.mode r) (fp32.decode x.toNat)) ∧
    UnaryFlagged (.flg2 r) (fun s x => fp32.lg2 (s.me.mode r) (fp32.decode x.toNat)) ∧
    UnaryFlagged (.frnd r) (fun s x => fp32.toIntegral (s.me.mode r) x.toNat) ∧
    TernaryFlagged (.fmsub r) (fun s c x y =>
      fp32.fma (s.me.mode r) (fp32.decode c.toNat) (fp32.decode x.toNat).negate (fp32.decode y.toNat))) ∧
  TernaryFlagged .fma (fun s c x y =>
    fp32.fma (s.me.frm.toNat % 4) (fp32.decode c.toNat) (fp32.decode x.toNat) (fp32.decode y.toNat)) ∧
  BinaryFlagged .fmin (fun _ x y => fp32.minMax false x.toNat y.toNat) ∧
  BinaryFlagged .fmax (fun _ x y => fp32.minMax true x.toNat y.toNat) ∧
  (∀ c, BinaryFlagged (.fcmp c) (fun _ x y => (ofBool (fp32.compare c x.toNat y.toNat).1, (fp32.compare c x.toNat y.toNat).2))) ∧
  UnaryResult .fabs (fun _ x => word (x.toNat % 2 ^ 31)) ∧ UnaryResult .fneg (fun _ x => word (x.toNat % 2 ^ 32) ^^^ 0x80000000) ∧
  UnaryResult .fclass (fun _ x => word (classify x.toNat)) ∧
  (∀ f : Ieee, f = fp32 ∨ f = fp16 ∨ f = bf16 → ∀ mode, mode < 4 →
    (∀ (neg : Bool) (e frac : Nat), frac < 2 ^ (f.p - 1) → e < 2 ^ (f.width - f.p) - 1 →
      let v := f.decode (f.signed neg (e * 2 ^ (f.p - 1) + frac))
      v.isFin = true ∧ v.neg = neg ∧ v.rat = (if neg then -1 else 1) *
        (if e = 0 then (frac : Rat) * powerOfTwo (f.emin - (f.p - 1)) else ((2 ^ (f.p - 1) + frac : Nat) : Rat) * powerOfTwo (f.emin - f.p + e))) ∧
    (∀ (neg : Bool) (frac : Nat), frac < 2 ^ (f.p - 1) →
      (frac = 0 → f.decode (f.signed neg (f.infCode + frac)) = .inf neg) ∧
      (frac ≠ 0 → (f.decode (f.signed neg (f.infCode + frac))).isNan = true ∧
        anySignalling [f.decode (f.signed neg (f.infCode + frac))] = decide (frac < 2 ^ (f.p - 2)))) ∧
    (∀ x y z : Val, x.isFin = true → y.isFin = true → z.isFin = true →
      (x.rat + y.rat ≠ 0 → f.CorrectAt mode (x.rat + y.rat) (f.add mode x y)) ∧
      (x.rat + y.rat = 0 → f.add mode x y = (f.signed (if x.rat = 0 ∧ x.neg = y.neg then x.neg else mode = 3) 0, 0)) ∧
      (x.rat * y.rat ≠ 0 → f.CorrectAt mode (x.rat * y.rat) (f.mul mode x y)) ∧
      (x.rat * y.rat = 0 → f.mul mode x y = (f.signed (x.neg != y.neg) 0, 0)) ∧
      (z.rat + x.rat * y.rat ≠ 0 → f.CorrectAt mode (z.rat + x.rat * y.rat) (f.fma mode z x y)) ∧
      (z.rat + x.rat * y.rat = 0 →
        f.fma mode z x y = (f.signed (if z.rat = 0 ∧ z.neg = (x.neg != y.neg) then z.neg else mode = 3) 0, 0)) ∧
      (x.rat ≠ 0 → y.rat ≠ 0 → f.CorrectAt mode (x.rat / y.rat) (f.div mode x y)) ∧
      (x.rat = 0 → y.rat ≠ 0 → f.div mode x y = (f.signed (x.neg != y.neg) 0, 0)) ∧
      (x.rat ≠ 0 → y.rat = 0 → f.div mode x y = (f.signed (x.neg != y.neg) f.infCode, fDZ)) ∧
      (x.rat = 0 → y.rat = 0 → f.div mode x y = (f.nanCode, fNV)) ∧
      (0 < x.rat → f.Correct mode false (fun q => against x.rat (q * q)) (f.sqrt mode x) ∧
        f.Correct mode false (fun q => against 1 (q * q * x.rat)) (f.rsq mode x)) ∧
      (x.rat = 0 → f.sqrt mode x = (f.signed x.neg 0, 0) ∧ f.rsq mode x = (f.signed x.neg f.infCode, fDZ)) ∧
      (x.rat < 0 → f.sqrt mode x = (f.nanCode, fNV) ∧ f.rsq mode x = (f.nanCode, fNV)) ∧
      (∀ n : Int, x.rat = n → f.CorrectAt mode (powerOfTwo n) (f.ex2 mode x)) ∧ ((∃ c, x = f.decode c) → (∀ n : Int, x.rat ≠ n) → (f.ex2 mode x).2 / fNX % 2 = 1) ∧
      (∀ n : Int, x.rat = powerOfTwo n → (n ≠ 0 → f.CorrectAt mode n (f.lg2 mode x)) ∧ (n = 0 → f.lg2 mode x = (0, 0))) ∧
      ((∃ c, x = f.decode c) → 0 < x.rat → (∀ n : Int, x.rat ≠ powerOfTwo n) → (f.lg2 mode x).2 / fNX % 2 = 1) ∧
      (x.rat = 0 → f.lg2 mode x = (f.signed true f.infCode, fDZ)) ∧ (x.rat < 0 → f.lg2 mode x = (f.nanCode, fNV)) ∧
      (∀ n : Bool, f.add mode (.inf n) x = (f.signed n f.infCode, 0) ∧ f.add mode x (.inf n) = (f.signed n f.infCode, 0) ∧
        f.div mode (.inf n) x = (f.signed (n != x.neg) f.infCode, 0) ∧ f.div mode x (.inf n) = (f.signed (x.neg != n) 0, 0) ∧
        (x.rat ≠ 0 → f.mul mode (.inf n) x = (f.signed (n != x.neg) f.infCode, 0)) ∧
        (x.rat = 0 → f.mul mode (.inf n) x = (f.nanCode, fNV) ∧ f.mul mode x (.inf n) = (f.nanCode, fNV) ∧
          f.fma mode z x (.inf n) = (f.nanCode, fNV)))) ∧
    (∀ m n : Bool, f.add mode (.inf m) (.inf n) = (if m = n then (f.signed n f.infCode, 0) else (f.nanCode, fNV)) ∧
      f.mul mode (.inf m) (.inf n) = (f.signed (m != n) f.infCode, 0) ∧ f.div mode (.inf m) (.inf n) = (f.nanCode, fNV)) ∧
    f.sqrt mode (.inf false) = (f.infCode, 0) ∧ f.sqrt mode (.inf true) = (f.nanCode, fNV) ∧ f.rsq mode (.inf false) = (0, 0) ∧
    f.rsq mode (.inf true) = (f.nanCode, fNV) ∧ f.ex2 mode (.inf false) = (f.infCode, 0) ∧ f.ex2 mode (.inf true) = (0, 0) ∧
    f.lg2 mode (.inf false) = (f.infCode, 0) ∧ f.lg2 mode (.inf true) = (f.nanCode, fNV) ∧
    (∀ x y : Val, x.isNan = true ∨ y.isNan = true →
      let r := (if f = fp32 then chooseNan (nanCodes [x, y]) else f.nanCode, if anySignalling [x, y] = true then fNV else 0)
      f.add mode x y = r ∧ f.mul mode x y = r ∧ f.div mode x y = r ∧
      ∀ z : Val, (f.fma mode z x y).1 = if f = fp32 then chooseNan (nanCodes [z, x, y]) else f.nanCode)) ∧
  (∀ l : List Nat, l ≠ [] → (∀ c ∈ l, c < 2 ^ 32) →
    (∃ c ∈ l, chooseNan l = c ||| 2 ^ 22) ∧
    ∀ c ∈ l, let a := chooseNan l
      let b := c ||| 2 ^ 22
      let core (n : Nat) := n / 2 ^ 12 % 1024
      (core a ≠ 0 ∧ core b = 0) ∨ ((core a = 0 ↔ core b = 0) ∧
        (core a < core b ∨ (core a = core b ∧ (a % 4096 < b % 4096 ∨ (a % 4096 = b % 4096 ∧ a ≤ b)))))) ∧
  (∀ a b, a < 2 ^ 32 → b < 2 ^ 32 → let x := fp32.decode a
    let y := fp32.decode b
    (x.isFin = true → y.isFin = true →
      fp32.compare .eq a b = (decide (x.rat = y.rat), 0) ∧ fp32.compare .ne a b = (decide (x.rat ≠ y.rat), 0) ∧
      fp32.compare .lt a b = (decide (x.rat < y.rat), 0) ∧ fp32.compare .le a b = (decide (x.rat ≤ y.rat), 0) ∧
      fp32.compare .un a b = (false, 0) ∧
      (x.rat < y.rat ∨ (x.rat = y.rat ∧ x.neg = true ∧ y.neg = false) →
        fp32.minMax false a b = (a, 0) ∧ fp32.minMax true a b = (b, 0) ∧ fp32.minMax false b a = (a, 0) ∧ fp32.minMax true b a = (b, 0))) ∧
    (x.isNan = true ∨ y.isNan = true → let q := if anySignalling [x, y] = true then fNV else 0
      fp32.compare .eq a b = (false, q) ∧ fp32.compare .ne a b = (true, q) ∧ fp32.compare .un a b = (true, q) ∧
      fp32.compare .lt a b = (false, fNV) ∧ fp32.compare .le a b = (false, fNV) ∧
      ∀ m, (x.isNan = false → fp32.minMax m a b = (a, q)) ∧ (y.isNan = false → fp32.minMax m a b = (b, q)) ∧
        (x.isNan = true → y.isNan = true → fp32.minMax m a b = (chooseNan [a, b], q))) ∧
    (x.isFin = true → ∀ mode, mode < 4 → ∃ i : Int, RoundsTo mode x.rat i ∧ (fp32.decode (fp32.toIntegral mode a).1).rat = i ∧
      (fp32.decode (fp32.toIntegral mode a).1).neg = x.neg ∧ (fp32.toIntegral mode a).2 = if (i : Rat) = x.rat then 0 else fNX))

/-- R91 to R100 and R142 to R146: the dot product of two and the conversions, rounded once, with their flags. The formats are stated
by their tables: a T8 code by its regime (R93), a T6 code by the table of R95, an E8 code as a power of two (R98); a conversion into T8
or T6 gives the bound, the number itself or one of its two neighbours, as R96 has it, one into E8 the power of two that R100 has, one
into an IEEE format the correctly rounded code, and one into an integer format the rounded integer, or the bound with NV (R91). That
the NaN scale carried from E8 to E8 sets NV is the model's reading of R90 beside R143 (notes/assumptions/110.md). -/
def Obligations.FloatConversions : Prop :=
  (∀ src, TernaryFlagged (.fdot2 src) (fun s c x y => fp32.sumProducts (s.me.frm.toNat % 4) [fp32.decode c.toNat]
    [(sfmtDecode src x.toNat, sfmtDecode src y.toNat), (sfmtDecode src (x.toNat / 2 ^ 16), sfmtDecode src (y.toNat / 2 ^ 16))])) ∧
  (∀ dst src, UnaryFlagged (.cvtFF dst src) (fun s x => convertFF dst src (s.me.frm.toNat % 4) x.toNat)) ∧
  (∀ r t src s d a x, s.Ready [a] (some d) [x] →
    let v := roundInt (itypeShape t).1 (itypeShape t).2 (s.me.mode r) (sfmtDecode src x.toNat)
    exec (.cvtFI r t src d a) s = .next (s.afterFlags [a] d (BitVec.ofInt 64 v.1) v.2)) ∧
  (∀ r dst t, UnaryFlagged (.cvtIF r dst t) (fun s x => sfmtConvert dst (s.me.mode r) (valOfInt
    (if (itypeShape t).2 then signedOf (itypeShape t).1 x.toNat else (x.toNat % 2 ^ (itypeShape t).1 : Nat))))) ∧
  (∀ dst, BinaryFlagged (.cvtPk dst) (fun s x y =>
    let p := convertFF dst .fp32 (s.me.frm.toNat % 4) x.toNat
    let q := convertFF dst .fp32 (s.me.frm.toNat % 4) y.toNat
    (p.1 + q.1 * 2 ^ (if dst = .t8 ∨ dst = .t6 then 8 else 16), p.2 ||| q.2))) ∧
  (∀ c < 256, (taperedDecode 8 c).isFin = decide (c ≠ 128)) ∧ taperedDecode 8 128 = .nar ∧ taperedDecode 6 32 = .nar ∧
  (taperedDecode 8 0).rat = 0 ∧ (taperedDecode 8 0x01).rat = powerOfTwo (-12) ∧ (taperedDecode 8 0x7E).rat = 1024 ∧
  (taperedDecode 8 0x7F).rat = 4096 ∧ (∀ c, 1 ≤ c → c < 128 → (taperedDecode 8 (256 - c)).rat = -(taperedDecode 8 c).rat) ∧
  (∀ r ∈ ([(-5, 0x02, 0), (-4, 0x04, 1), (-3, 0x08, 2), (-2, 0x10, 3), (-1, 0x20, 4), (0, 0x40, 4), (1, 0x60, 3), (2, 0x70, 2), (3, 0x78, 1),
      (4, 0x7C, 0)] : List (Int × Nat × Nat)), ∀ e < 2, ∀ k < 2 ^ r.2.2,
    (taperedDecode 8 (r.2.1 + e * 2 ^ r.2.2 + k)).rat = powerOfTwo (2 * r.1 + (e : Int)) * (1 + (k : Rat) / ((2 ^ r.2.2 : Nat) : Rat))) ∧
  ((List.range 32).map fun c => (taperedDecode 6 c).rat * 16) =
    [0, 1, 2, 3, 4, 5, 6, 7, 8, 9, 10, 11, 12, 13, 14, 15, 16, 18, 20, 22, 24, 26, 28, 30, 32, 40, 48, 56, 64, 96, 128, 256] ∧
  (∀ c, 1 ≤ c → c < 32 → (taperedDecode 6 (64 - c)).rat = -(taperedDecode 6 c).rat) ∧
  (∀ (w mode : Nat) (neg : Bool) (m : Nat) (e : Int), (w = 6 ∨ w = 8) → mode < 4 →
    (m ≠ 0 → TaperedCorrect w mode neg ((m : Rat) * powerOfTwo e) (taperedOf w mode (.fin neg m e))) ∧
    taperedOf w mode (.fin neg 0 e) = (0, 0) ∧ taperedOf w mode .nar = (2 ^ (w - 1), 0) ∧ taperedOf w mode (.inf neg) = (2 ^ (w - 1), fNV) ∧
    ∀ c q, taperedOf w mode (.nan c q) = (2 ^ (w - 1), fNV)) ∧
  (∀ c < 255, (e8Decode c).rat = powerOfTwo ((c : Int) - 127)) ∧ (e8Decode 255).isNan = true ∧
  (∀ (mode : Nat) (v : Val), mode < 4 →
    (v.isFin = false ∨ v.rat ≤ 0 → e8Of mode v = (255, fNV)) ∧
    (∀ n : Int, v.isFin = true → powerOfTwo n ≤ v.rat → v.rat < powerOfTwo (n + 1) →
      let give (k : Int) : Nat × Nat := if k < -127 then (0, fUF + fNX) else if 127 < k then (254, fOF + fNX)
        else ((k + 127).toNat, if v.rat = powerOfTwo n then 0 else fNX)
      (v.rat = powerOfTwo n ∨ mode = 1 ∨ mode = 3 ∨ (mode = 0 ∧ 2 * v.rat < 3 * powerOfTwo n) ∨
        (mode = 0 ∧ 2 * v.rat = 3 * powerOfTwo n ∧ (n + 127) % 2 = 0) → e8Of mode v = give n) ∧
      (v.rat ≠ powerOfTwo n → mode = 2 ∨ (mode = 0 ∧ 3 * powerOfTwo n < 2 * v.rat) ∨
        (mode = 0 ∧ 2 * v.rat = 3 * powerOfTwo n ∧ (n + 127) % 2 = 1) → e8Of mode v = give (n + 1)))) ∧
  (∀ f : Ieee, f = fp32 ∨ f = fp16 ∨ f = bf16 → ∀ mode, mode < 4 →
    (∀ v : Val, v.isFin = true → (v.rat ≠ 0 → f.CorrectAt mode v.rat (f.convert mode v)) ∧
      (v.rat = 0 → f.convert mode v = (f.signed v.neg 0, 0))) ∧
    (∀ n, f.convert mode (.inf n) = (f.signed n f.infCode, 0)) ∧ f.convert mode .nar = (f.nanCode, 0) ∧
    (∀ c q, c < 2 ^ 32 → f.convert mode (.nan c q) = (if f = fp32 then c ||| 2 ^ 22 else f.nanCode, if q = true then fNV else 0)) ∧
    (∀ c x y z w : Val, c.isFin = true → x.isFin = true → y.isFin = true → z.isFin = true → w.isFin = true →
      c.rat + x.rat * y.rat + z.rat * w.rat ≠ 0 →
      f.CorrectAt mode (c.rat + x.rat * y.rat + z.rat * w.rat) (f.sumProducts mode [c] [(x, y), (z, w)]))) ∧
  (∀ w (sg : Bool) mode (v : Val), 1 ≤ w → mode < 4 →
    let lo : Int := if sg then -(2 ^ (w - 1)) else 0
    let hi : Int := if sg then 2 ^ (w - 1) - 1 else 2 ^ w - 1
    (v.isFin = true → ∃ i : Int, RoundsTo mode v.rat i ∧ roundInt w sg mode v =
      if i < lo then (lo, fNV) else if hi < i then (hi, fNV) else (i, if (i : Rat) = v.rat then 0 else fNX)) ∧
    (∀ n, v = .inf n → roundInt w sg mode v = (if n then lo else hi, fNV)) ∧ (v.isNan = true → roundInt w sg mode v = (0, fNV))) ∧
  (∀ dst src mode code, let v := sfmtDecode src (code % 2 ^ sfmtWidth src)
    (dst = src → anySignalling [v] = false →
      convertFF dst src mode code = (code % 2 ^ sfmtWidth src, if dst = .e8 ∧ code % 256 = 255 then fNV else 0)) ∧
    (dst ≠ src ∨ anySignalling [v] = true → (convertFF dst src mode code).1 = (sfmtConvert dst mode v).1 ∧
      (convertFF dst src mode code).2 = (sfmtConvert dst mode v).2 ||| (if anySignalling [v] = true then fNV else 0)))

/-- The frame of every computing instruction: it completes whenever its operands are there, and then only its destination, the flags
in fflags (which are only ever set, and only by instructions that the manual gives flags), the PC and the ports read have
changed; every byte of memory, every other slot and every special register is as it was. -/
def Obligations.ComputingInstructionsChangeOnlyTheirDestination : Prop :=
  ∀ i reads d fl, Instr.computes i = some (reads, d, fl) → ∀ s vs, s.Ready reads (some d) vs →
    ∃ t, exec i s = .next t ∧ s.KeptBut [d] t ∧ (fl = false → t.me.fflags = s.me.fflags) ∧
      ∀ k < 64, s.me.fflags.getLsbD k = true → t.me.fflags.getLsbD k = true

/-! ## Registers, ports and the order of instructions (R9, R11, R166, R170 to R172) -/

/-- R9: a write to x1 to x47, lk, fp or sp reads back and leaves every other register; a write to x0 is discarded and x0 reads as
zero. An asynchronous load of the register written will not write it any more (R274). The writing of a destination field (R9,
R167): a register of the issuing slot, with nothing else changed, or a push. -/
def Obligations.RegistersAndDestinations : Prop :=
  (∀ (x : Slot) (n : Nat) (v : Word),
     (x.setX n v).x 0 = 0 ∧ x.setX 0 v = x ∧ (1 ≤ n → n ≤ 50 → (x.setX n v).x n = v) ∧
     (∀ k, k ≠ n → (x.setX n v).x k = x.x k) ∧
     (1 ≤ n → n ≤ 50 → ∀ o ∈ (x.setX n v).outstanding, o.d = n → o.live = false)) ∧
  (∀ (s : State) (d : Nat) (v : Word),
     (isPort d = false → s.KeptBut [d] (s.writeX d v) ∧ (s.writeX d v).queues = s.queues ∧
       (1 ≤ d → d ≤ 50 → (s.writeX d v).me.x d = v) ∧ (d = 0 → (s.writeX d v).me.x 0 = 0)) ∧
     (isPort d = true → ∀ q e x, s.me.port d = .push q e → Tab.get? s.queues q = some x → x.ring = false →
       ∃ y : Queue, Tab.get? (s.writeX d v).queues q = some y ∧ y.elems = x.elems ++ [{ data := v, tag := 0 }] ∧
         y.pushed = x.pushed + 1 ∧ s.KeptBut [] (s.writeX d v)) ∧
     (isPort d = true → ∀ q e x, s.me.port d = .push q e → Tab.get? s.queues q = some x → x.ring = true →
       ∃ (y : Queue) (f : Flight), Tab.get? (s.writeX d v).queues q = some y ∧ y.flights = x.flights ++ [f] ∧ f.elem.data = v ∧ f.elem.tag = 0 ∧
         f.hop = 0 ∧ y.pushed = x.pushed + 1 ∧ y.elems = x.elems ∧ s.KeptBut [] (s.writeX d v)))

/-- R171: reading the same input port twice takes its first two elements in order and pops both. R172: a computing instruction, any of
whose source fields names an input port at whose position stands a token, transfers to the token-vector entry of port and level:
the elements of that port up to the token are popped and no other, lk holds the instruction's address, the repeat buffer is
cleared and nothing else is written; without an entry it traps with cause 0x09 and pops nothing. -/
def Obligations.PortReadsAndTokens : Prop :=
  (∀ (s : State) (p q e : Nat) (u : UnitInfo) (x : Queue) (v w : Word) (rest : List Elem),
     isPort p = true → s.me.port p = .pop q e → s.me.unit = some u → Tab.get? s.queues q = some x → s.segmented x = false →
     (∃ m n k j, x.elems = { data := v, tag := 0, seg := m, oseg := n } :: { data := w, tag := 0, seg := k, oseg := j } :: rest) →
     s.valuesFrom [p, p] [] = some [v, w] ∧
     ∃ y, Tab.get? (s.popAll [p, p]).queues q = some y ∧ y.elems = rest ∧ y.popped = x.popped + 2) ∧
  (∀ i reads d fl, Instr.computes i = some (reads, d, fl) → ∀ (s : State) (before after : List Nat) (p : Nat) (vs : List Word) (k : Elem),
     reads = before ++ p :: after → s.Fields reads d → isPort p = true → s.valuesFrom before [] = some vs →
     s.headAt s.cur p (before.count p) = .elem k → k.tag ≠ 0 →
     (s.me.vector p k.tag = 0 → exec i s = .next (s.takeTrap s.cur { cause := 0x09, taddr := 0, tinfo := p + k.tag * 64 })) ∧
     (s.me.vector p k.tag ≠ 0 → ∃ t : State, exec i s = .next t ∧ t.me.pc = s.me.vector p k.tag ∧ t.me.x 48 = s.me.pc ∧ t.me.rep = none ∧
       s.KeptBut [48] t ∧
       (∀ q e u x, s.me.port p = .pop q e → s.me.unit = some u → Tab.get? s.queues q = some x → s.segmented x = false →
         (∃ y : Queue, Tab.get? t.queues q = some y ∧ y.elems = x.elems.drop (before.count p + 1) ∧ y.popped = x.popped + before.count p + 1) ∧
         ∀ r, r ≠ q → Tab.get? t.queues r = Tab.get? s.queues r) ∧
       (∀ n x, s.me.port p = .gen n → Tab.get? (s.core s.myCore).gens n = some x →
         t.queues = s.queues ∧
         ∃ y : Generator, Tab.get? (t.core s.myCore).gens n = some y ∧ y.ahead = x.ahead.drop (before.count p + 1))))

/-- R11, R12, R166, R170 and R67, for every computing instruction: an operand field that names a reserved register, an unbound port or
a port of the wrong direction, or a register above the stage's bound, raises cause 0x01 subcode 2, cause 0x01 subcode 3, or cause
0x04, in this order. R171 and R152: with nothing at the position of any of its input ports the instruction parks without effect; a
generator's port that has no more elements raises cause 0x0A, one whose element is a fault that fault; and with every source
there, a full output port parks it. -/
def Obligations.OperandFaultsAndWaits : Prop :=
  ∀ i reads d fl, Instr.computes i = some (reads, d, fl) → ∀ s : State,
    let illegal (k : Nat) : Host.Outcome State Fault Refusal :=
      .next (s.takeTrap s.cur { cause := 0x01, taddr := s.me.pc + word (s.ilen - 2), tinfo := k })
    let reserved := ∃ n ∈ reads ++ [d], 51 ≤ n ∧ n ≤ 55
    let wrongPort := (∃ n ∈ reads, s.me.mayRead n = false) ∨ s.me.mayWrite d = false
    (reserved → exec i s = illegal 2) ∧ (¬reserved → wrongPort → exec i s = illegal 3) ∧
    (¬reserved → ¬wrongPort → (∃ n ∈ reads ++ [d], s.me.declared n = false) →
      exec i s = .next (s.takeTrap s.cur { cause := 0x04, taddr := 0, tinfo := 1 })) ∧
    (s.Fields reads d →
      (∀ before p after vs, reads = before ++ p :: after → isPort p = true → s.valuesFrom before [] = some vs →
        (s.headAt s.cur p (before.count p) = .empty → s.me.stopAsked = false →
          exec i s = .next (s.modMe fun x => { x with status := .parked (.portEmpty p (before.count p)) })) ∧
        (s.headAt s.cur p (before.count p) = .closed → exec i s = .next (s.takeTrap s.cur { cause := 0x0A, taddr := 0, tinfo := p })) ∧
        (∀ c a k, s.headAt s.cur p (before.count p) = .fault c a k →
          exec i s = .next (s.takeTrap s.cur { cause := c, taddr := a, tinfo := k }))) ∧
      (∀ vs, s.valuesFrom reads [] = some vs → isPort d = true → s.portRoom s.cur d = false → s.me.stopAsked = false →
        exec i s = .next (s.modMe fun x => { x with status := .parked (.portFull d) })))

/-- R29 and R131: outside a repeat the PC advances past the instruction; after the last instruction of a repeat body the count falls
by one and the body starts again, or the buffer is cleared and the PC stands at the end; the unbounded form never ends so. R128
to R131: where the `len` instructions that follow rpt may stand in a body, the repeat starts at the first of them with the count
of its form, or a count of 0 goes past the body; a body that may not be repeated starts nothing. -/
def Obligations.ProgramCounterAndRepeats : Prop :=
  (∀ (s : State),
     (s.me.rep = none → s.retire.me.pc = s.me.pc + word s.ilen ∧ s.retire.me.rep = none) ∧
     (∀ r, s.me.rep = some r →
       (s.me.pc + word s.ilen ≠ r.stop → s.retire.me.pc = s.me.pc + word s.ilen ∧ s.retire.me.rep = some r) ∧
       (s.me.pc + word s.ilen = r.stop → r.unbounded = true → s.retire.me.pc = r.start ∧ s.retire.me.rep = some r) ∧
       (s.me.pc + word s.ilen = r.stop → r.unbounded = false → r.remaining = 1 →
         s.retire.me.pc = r.stop ∧ s.retire.me.rep = none) ∧
       (s.me.pc + word s.ilen = r.stop → r.unbounded = false → r.remaining ≠ 1 →
         s.retire.me.pc = r.start ∧ s.retire.me.rep = some { r with remaining := r.remaining - 1 }))) ∧
  (∀ (s : State) (len : Nat),
     let start := s.me.pc + word s.ilen
     (∀ body stop, s.bodyFrom s.cur len start = .ok (body, stop) →
       (∀ a x, s.Ready [a] none [x] → x ≠ 0 → ∃ t r, exec (.rpt len (.reg a)) s = .next t ∧ t.me.pc = start ∧ t.me.rep = some r ∧
         r.start = start ∧ r.stop = stop ∧ r.body = body ∧ r.remaining = x ∧ r.unbounded = false ∧ s.KeptBut [] t) ∧
       (∀ a, s.Ready [a] none [0] → ∃ t, exec (.rpt len (.reg a)) s = .next t ∧ t.me.pc = stop ∧ t.me.rep = s.me.rep ∧ s.KeptBut [] t) ∧
       (∀ n, word n ≠ 0 → ∃ t r, exec (.rpt len (.imm n)) s = .next t ∧ t.me.pc = start ∧ t.me.rep = some r ∧
         r.start = start ∧ r.stop = stop ∧ r.body = body ∧ r.remaining = word n ∧ r.unbounded = false ∧ s.KeptBut [] t) ∧
       (∃ t r, exec (.rpt len .unbounded) s = .next t ∧ t.me.pc = start ∧ t.me.rep = some r ∧ r.start = start ∧ r.stop = stop ∧
         r.body = body ∧ r.unbounded = true ∧ s.KeptBut [] t)) ∧
     (∀ tr, s.bodyFrom s.cur len start = .error (.trap tr) → exec (.rpt len .unbounded) s = .next (s.takeTrap s.cur tr)))

/-! ## Control transfer (R125 to R132) -/

/-- R125, R126 and R127: a branch whose test holds continues at PC + 2 × imm and any other at the next instruction; call writes lk;
jr and ret continue at a register's value, or raise cause 0x05 at themselves where its bit 0 is set; nop only advances; halt
stops the slot, whose unit then ends. -/
def Obligations.ControlTransfer : Prop :=
  (∀ s c a i x, c ≠ .al → s.Ready [a] none [x] →
    let holds : Prop := match c with
      | .eq => x = 0 | .ne => x ≠ 0 | .lt => x.toInt < 0 | .ge => 0 ≤ x.toInt | .gt => 0 < x.toInt | .le => x.toInt ≤ 0
      | .al => True
    (holds → exec (.bcc c a i) s = .next ((s.popAll [a]).jump (s.me.pc + BitVec.ofInt 64 (2 * i)))) ∧
    (¬holds → exec (.bcc c a i) s = .next (s.popAll [a]).retire)) ∧
  (∀ s a i, ∃ t, exec (.bcc .al a i) s = .next t ∧ t.me.pc = s.me.pc + BitVec.ofInt 64 (2 * i) ∧ s.KeptBut [] t) ∧
  (∀ s i, ∃ t, exec (.call i) s = .next t ∧ t.me.pc = s.me.pc + BitVec.ofInt 64 (2 * i) ∧
    t.me.x 48 = s.me.pc + word s.ilen ∧ s.KeptBut [48] t) ∧
  (∀ s a x, s.Ready [a] none [x] → x.getLsbD 0 = false →
    ∃ t, exec (.jr a) s = .next t ∧ t.me.pc = x ∧ s.KeptBut [] t) ∧
  (∀ s a x, s.Ready [a] none [x] → x.getLsbD 0 = true →
    exec (.jr a) s = .next (s.takeTrap s.cur { cause := 0x05, taddr := x, tinfo := 0 })) ∧
  (∀ s, (s.me.x 48).getLsbD 0 = false → ∃ t, exec .ret s = .next t ∧ t.me.pc = s.me.x 48 ∧ s.KeptBut [] t) ∧
  (∀ s, (s.me.x 48).getLsbD 0 = true →
    exec .ret s = .next (s.takeTrap s.cur { cause := 0x05, taddr := s.me.x 48, tinfo := 0 })) ∧
  (∀ s, exec .nop s = .next s.retire ∧ s.KeptBut [] s.retire) ∧
  (∀ s u, s.me.unit = some u → ∃ t, exec .halt s = .next t ∧ t.me.status = .stopped ∧ t.me.pc = s.me.pc ∧ t.me.rep = none ∧
    t.me.unit = some { u with how := 1 } ∧ s.KeptBut [] t)

/-! ## Memory (R32, R135, R219, R231, R268 to R288) -/

/-- A byte written reads back, every other byte stays, `n` bytes written from an address up read back in order, and a cleared range
reads as zero with every byte outside as it was (R464, R469). -/
def Obligations.MemoryReadAfterWrite : Prop :=
  ∀ (m : Memory) (a : Nat) (b : Byte) (bs : List Byte),
    (m.setByte a b).byte a = b ∧ (∀ c, c ≠ a → (m.setByte a b).byte c = m.byte c) ∧
    (m.write a bs).read a bs.length = bs ∧ (∀ c, c < a ∨ a + bs.length ≤ c → (m.write a bs).byte c = m.byte c) ∧
    (∀ cs : List Host.Cell, (cs.map (·.1)).Nodup → (∀ c ∈ cs, (m.writeCells cs).byte c.1 = c.2) ∧
      ∀ c, c ∉ cs.map (·.1) → (m.writeCells cs).byte c = m.byte c) ∧
    ∀ lo hi, (∀ c, c < lo ∨ hi ≤ c → (m.zero lo hi).byte c = m.byte c) ∧
      ∀ c, lo ≤ c → c < hi → (m.zero lo hi).byte c = 0

/-- R269: what a load of each size gives for the bytes read, lowest byte first: signed sizes copy their top bit, unsigned ones read
zeros above. R278: the new value that each atomic leaves, for operands `b` and an old value `o` of the type's width. -/
def Obligations.ValuesOfLoadsAndAtomics : Prop :=
  (∀ n : Nat,
     extend .i8 n = (BitVec.ofNat 8 n).signExtend 64 ∧ extend .i16 n = (BitVec.ofNat 16 n).signExtend 64 ∧
     extend .i32 n = (BitVec.ofNat 32 n).signExtend 64 ∧ extend .i64 n = BitVec.ofNat 64 n ∧
     extend .n8 n = (BitVec.ofNat 8 n).setWidth 64 ∧ extend .n16 n = (BitVec.ofNat 16 n).setWidth 64 ∧
     extend .n32 n = (BitVec.ofNat 32 n).setWidth 64) ∧
  (∀ (t : AType) (o b : Nat) (c : Word),
     let w := if t = .i32 ∨ t = .n32 then 32 else 64
     let signed : Prop := t = .i32 ∨ t = .i64
     o < 2 ^ w → b < 2 ^ w →
       let x := BitVec.ofNat w o
       let y := BitVec.ofNat w b
       let less (p q : BitVec w) : Prop := (signed ∧ p.slt q = true) ∨ (¬signed ∧ p.toNat < q.toNat)
       amoNew .add t o b = (x + y).toNat ∧ amoNew .and t o b = (x &&& y).toNat ∧ amoNew .or t o b = (x ||| y).toNat ∧
       amoNew .xor t o b = (x ^^^ y).toNat ∧ amoNew .swp t o b = b ∧
       (less y x → amoNew .min t o b = b ∧ amoNew .max t o b = o) ∧ (less x y → amoNew .min t o b = o ∧ amoNew .max t o b = b) ∧
       (x = y → amoNew .min t o b = o ∧ amoNew .max t o b = o) ∧
       (less x y → amoNew .inc t o b = (x + 1).toNat) ∧ (¬less x y → amoNew .inc t o b = 0) ∧
       (o = c.toNat % 2 ^ w → amoNew (.cas c) t o b = b) ∧ (o ≠ c.toNat % 2 ^ w → amoNew (.cas c) t o b = o))

/-- R33, R135, R242, R254, R268, R273, R275 and R277: every load whose bytes its core can give at issue (all of them in its write buffer or L1,
or one piece at its own port) completes: its destination takes the bytes at X(a) + imm (scaled by 8 for ld), at X(a) + X(b),
or at X(a); ld.q and ld.o fill 4 and 8 registers in rising order; an acquiring load also acquires. That it completes in the step of
its issue is the model's choice (notes/assumptions/8.md). In the scratchpad of the own core nothing else changes. A load that needs bytes from elsewhere sends its reads and waits for its own data (R152); acq.prom sends a promote request to the
core it names, or to every core that holds a unit of its launch, and waits for the replies. -/
def Obligations.LoadsComplete : Prop :=
  (∀ s d a i x bs t, s.Ready [a] (some d) [x] → (s.popAll [a]).ReadsNow s (x + BitVec.ofInt 64 (8 * i)) 8 0 bs t →
    exec (.ld d a i) s = .next (t.writeX d (BitVec.ofNat 64 (numLe bs))).retire) ∧
  (∀ s z d a i x bs t, s.Ready [a] (some d) [x] → (s.popAll [a]).ReadsNow s (x + BitVec.ofInt 64 i) (sizeBytes z) 0 bs t →
    exec (.ldS z d a i) s = .next (t.writeX d (extend z (numLe bs))).retire) ∧
  (∀ s z d a b x y bs t, s.Ready [a, b] (some d) [x, y] → (s.popAll [a, b]).ReadsNow s (x + y) (sizeBytes z) 0 bs t →
    exec (.ldx z d a b) s = .next (t.writeX d (extend z (numLe bs))).retire) ∧
  (∀ s d a i x bs t, s.Ready [a] none [x] (List.map (d + ·) [0, 1, 2, 3]) →
    (s.popAll [a]).ReadsNow s (x + BitVec.ofInt 64 i) 32 0 bs t →
    exec (.ldQ d a i) s = .next (t.modMe (·.setXs d ([0, 1, 2, 3].map fun j =>
      BitVec.ofNat 64 (numLe ((bs.drop (8 * j)).take 8))))).retire) ∧
  (∀ s d a i x bs t, s.Ready [a] none [x] (List.map (d + ·) [0, 1, 2, 3, 4, 5, 6, 7]) →
    (s.popAll [a]).ReadsNow s (x + BitVec.ofInt 64 i) 64 0 bs t →
    exec (.ldO d a i) s = .next (t.modMe (·.setXs d ([0, 1, 2, 3, 4, 5, 6, 7].map fun j =>
      BitVec.ofNat 64 (numLe ((bs.drop (8 * j)).take 8))))).retire) ∧
  (∀ s z sc d a x bs t, s.Ready [a] (some d) [x] → (s.popAll [a]).ReadsNow s x (sizeBytes z) (sizeBytes z) bs t →
    exec (.ldAcq z sc d a) s = .next ((t.acquire s.myCore sc).writeX d (extend z (numLe bs))).retire) ∧
  (∀ (s : State) reads a n align o, s.Unhindered → s.InScratch a n o → align = 0 ∨ align = n →
    (s.popAll reads).ReadsNow s a n align (s.mem.read (scratchPa s.myCore o) n) (s.popAll reads)) ∧
  (∀ s z d a i x cs es, s.Ready [a] (some d) [x] → s.me.fenced = [] →
    let u := s.popAll [a]
    u.check (u.accessor s.cur) (x + BitVec.ofInt 64 i) (sizeBytes z) 0 .load = .ok (cs, es) →
    (u.installAll s.myCore es).readAtOnce s.myCore .cached (piecesOf cs) = .ok none →
    ∃ t p, exec (.ldS z d a i) s = .next t ∧ t.me.status = .parked .own ∧ t.me.pending = some p ∧ p.finish = .load z d ∧
      p.left = 0 ∧ p.len = s.ilen ∧ t.me.pc = s.me.pc ∧ (∀ n, t.me.x n = s.me.x n) ∧
      p.parts.map (fun q => (q.pa, q.n)) = (piecesOf cs).map fun c => (c.loc.pa, c.n)) ∧
  (∀ (s : State) z d a b x y cs es, s.Ready [a, b] (some d) [x, y] →
    (s.popAll [a, b]).check ((s.popAll [a, b]).accessor s.cur) x (sizeBytes z) (sizeBytes z) .load = .ok (cs, es) →
    (y.toNat ≤ 767 → ∃ t, exec (.acqProm z d a b) s = .next t ∧ s.Awaits t (.prom x z d) 1 ∧
      t.promReqs = s.promReqs ++ [{ from_ := s.cur, core := y.toNat, launch := some s.me.launch }]) ∧
    (y = BitVec.allOnes 64 → (∃ c, s.holdsUnit c s.me.launch = true) →
      ∃ (t : State) (ts : List Nat), exec (.acqProm z d a b) s = .next t ∧ s.Awaits t (.prom x z d) ts.length ∧ ts.Nodup ∧
        (∀ c, c ∈ ts ↔ s.holdsUnit c s.me.launch = true) ∧
        t.promReqs = s.promReqs ++ ts.map fun c => { from_ := s.cur, core := c, launch := some s.me.launch }))

/-- R135, R268, R273 and R275: every store whose access passes its checks and finds room completes; it stores the low bytes of X(d),
or of the registers of its group, lowest first, at the address that its operands give; st.rel first starts a release. In the
scratchpad of the own core a store completes, is counted in ST, and puts its bytes where its address says, and nothing
elsewhere; that they are accepted there in the step of issue is the model's choice (notes/assumptions/91.md). A store with a piece in
another core's scratchpad is counted in ST and waits for the test of each such piece at its port (R152, R273, R314). -/
def Obligations.StoresComplete : Prop :=
  (∀ s d a i x v cs es t, s.Ready [a, d] none [x, v] →
    (s.popAll [a, d]).check ((s.popAll [a, d]).accessor s.cur) (x + BitVec.ofInt 64 (8 * i)) 8 0 .store = .ok (cs, es) →
    ((s.popAll [a, d]).installAll s.myCore es).store s s.cur [a, d] cs (bytesLe 8 v.toNat) = .ok t →
    exec (.st d a i) s = .next t.retire) ∧
  (∀ s z d a i x v cs es t, s.Ready [a, d] none [x, v] →
    (s.popAll [a, d]).check ((s.popAll [a, d]).accessor s.cur) (x + BitVec.ofInt 64 i) (sizeBytes z) 0 .store = .ok (cs, es) →
    ((s.popAll [a, d]).installAll s.myCore es).store s s.cur [a, d] cs (bytesLe (sizeBytes z) v.toNat) = .ok t →
    exec (.stS z d a i) s = .next t.retire) ∧
  (∀ s z d a b x y v cs es t, s.Ready [a, b, d] none [x, y, v] →
    (s.popAll [a, b, d]).check ((s.popAll [a, b, d]).accessor s.cur) (x + y) (sizeBytes z) 0 .store = .ok (cs, es) →
    ((s.popAll [a, b, d]).installAll s.myCore es).store s s.cur [a, b, d] cs (bytesLe (sizeBytes z) v.toNat) = .ok t →
    exec (.stx z d a b) s = .next t.retire) ∧
  (∀ s z sc d a x v cs es t, s.Ready [a, d] none [x, v] →
    (s.popAll [a, d]).check ((s.popAll [a, d]).accessor s.cur) x (sizeBytes z) (sizeBytes z) .store = .ok (cs, es) →
    (((s.popAll [a, d]).installAll s.myCore es).startRelease s.cur sc false).store s s.cur [a, d] cs (bytesLe (sizeBytes z) v.toNat) = .ok t →
    exec (.stRel z sc d a) s = .next t.retire) ∧
  (∀ s d a i x cs es t, s.Ready [a] none [x] (List.map (d + ·) [0, 1, 2, 3]) →
    (s.popAll [a]).check ((s.popAll [a]).accessor s.cur) (x + BitVec.ofInt 64 i) 32 0 .store = .ok (cs, es) →
    ((s.popAll [a]).installAll s.myCore es).store s s.cur [a] cs
      (([0, 1, 2, 3].map (d + ·)).flatMap fun r => bytesLe 8 (s.me.x r).toNat) = .ok t →
    exec (.stQ d a i) s = .next t.retire) ∧
  (∀ s d a i x cs es t, s.Ready [a] none [x] (List.map (d + ·) [0, 1, 2, 3, 4, 5, 6, 7]) →
    (s.popAll [a]).check ((s.popAll [a]).accessor s.cur) (x + BitVec.ofInt 64 i) 64 0 .store = .ok (cs, es) →
    ((s.popAll [a]).installAll s.myCore es).store s s.cur [a] cs
      (([0, 1, 2, 3, 4, 5, 6, 7].map (d + ·)).flatMap fun r => bytesLe 8 (s.me.x r).toNat) = .ok t →
    exec (.stO d a i) s = .next t.retire) ∧
  (∀ (s : State) reads a n align o (bs : List Byte), s.Unhindered → s.InScratch a n o → align = 0 ∨ align = n → bs.length = n →
    ∃ cs t, (s.popAll reads).check ((s.popAll reads).accessor s.cur) a n align .store = .ok (cs, []) ∧
      (s.popAll reads).store s s.cur reads cs bs = .ok t ∧ t.mem.read (scratchPa s.myCore o) n = bs ∧
      (∀ p, p < scratchPa s.myCore o ∨ scratchPa s.myCore o + n ≤ p → t.mem.byte p = s.mem.byte p) ∧
      ((∀ r ∈ s.me.stores, r.id ≠ s.nextId) → t.me.st = s.me.st + 1)) ∧
  (∀ s z d a i x v cs es, s.Ready [a, d] none [x, v] →
    (s.popAll [a, d]).check ((s.popAll [a, d]).accessor s.cur) (x + BitVec.ofInt 64 i) (sizeBytes z) 0 .store = .ok (cs, es) →
    (∃ q ∈ piecesOf cs, q.inPeer s.myCore = true) → s.me.st < 65535 →
    ∃ (t : State) (p : Pending), exec (.stS z d a i) s = .next t ∧ t.me.status = .parked .own ∧ t.me.pending = some p ∧ p.id = s.nextId ∧
      p.finish = .store ((withOffsets 0 (piecesOf cs)).map fun w =>
        (w.2.loc.pa, w.2.loc.poa, ((bytesLe (sizeBytes z) v.toNat).drop w.1).take w.2.n)) ∧
      p.left = 0 ∧ p.len = s.ilen ∧ p.parts.map (fun q => (q.pa, q.n)) =
        ((piecesOf cs).filter (·.inPeer s.myCore)).map (fun q => (q.loc.pa, q.n)) ∧
      (∀ q ∈ piecesOf cs, q.inPeer s.myCore = true → ∃ m ∈ t.net, ∃ r : ReadReq, m.body = .test r ∧ m.poa = q.loc.poa ∧ r.pa = q.loc.pa ∧
        r.n = q.n ∧ r.slot = s.cur ∧ r.id = s.nextId) ∧
      ((∀ r ∈ s.me.stores, r.id ≠ s.nextId) → t.me.st = s.me.st + 1) ∧ t.me.pc = s.me.pc ∧ (∀ n, t.me.x n = s.me.x n) ∧ t.mem = s.mem)

/-- The frame of stores and loads in the scratchpad of the own core: a store writes the low bytes of X(d), lowest first, at the
physical address of its offset, counts one store in ST, and leaves every other byte and every register; a load gives the bytes
there and changes nothing but its destination. That both take effect in the step of issue is the model's choice
(notes/assumptions/8.md, notes/assumptions/91.md). -/
def Obligations.ScratchpadStoreAndLoad : Prop :=
  (∀ s z d a i x v o, s.Ready [a, d] none [x, v] → s.Unhindered → s.InScratch (x + BitVec.ofInt 64 i) (sizeBytes z) o →
    ∃ t, exec (.stS z d a i) s = .next t ∧ s.KeptRegs [] t ∧ t.me.fflags = s.me.fflags ∧
      ((∀ r ∈ s.me.stores, r.id ≠ s.nextId) → t.me.st = s.me.st + 1) ∧
      (∀ k < sizeBytes z, t.mem.byte (0x300000000000 + s.myCore * 2 ^ 20 + o + k) = byteAtPlace v k) ∧
      (∀ p, p < 0x300000000000 + s.myCore * 2 ^ 20 + o ∨ 0x300000000000 + s.myCore * 2 ^ 20 + o + sizeBytes z ≤ p →
        t.mem.byte p = s.mem.byte p)) ∧
  (∀ s z d a i x o, s.Ready [a] (some d) [x] → s.Unhindered → s.InScratch (x + BitVec.ofInt 64 i) (sizeBytes z) o →
    ∃ t, exec (.ldS z d a i) s = .next t ∧ s.KeptBut [d] t ∧ t.me.fflags = s.me.fflags ∧
      (1 ≤ d → d ≤ 50 →
        t.me.x d = extend z (numLe (s.mem.read (0x300000000000 + s.myCore * 2 ^ 20 + o) (sizeBytes z)))))

/-- R34, R36 to R39, R214 and R271, for every load, store and atomic with ready operands, and the accesses to seal-class pages: an
address in no aperture raises cause 0x13; in the aperture of the own scratchpad, or of the cluster's, an access beyond the declared
bytes cause 0x04 with detail 4 at the first byte beyond them, and a misaligned one that has to be aligned cause 0x05; beyond the
declared stack cause 0x04 with detail 5. A load, store or atomic that reaches the scratchpad of another core on which no unit of
its launch runs raises cause 0x06 with detail 6, and one through the on-chip window that no grant allows cause 0x06 with detail 5. -/
def Obligations.AccessFaults : Prop :=
  ∀ i (m : MemAccess), Instr.accesses i = some m → ∀ (s : State) vs (x : Word) (p : Nat), s.Ready m.reads m.write vs m.extra → x = m.address vs →
    s.myCore < 768 →
    let faults (cause : Nat) (at_ : Word) (k : Nat) : Prop := exec i s = .next (s.takeTrap s.cur { cause := cause, taddr := at_, tinfo := k })
    let plain : Prop := m.op = .load ∨ m.op = .store ∨ ∃ h, m.op = .atomic h
    let aligned (o : Nat) : Prop := m.align = 0 ∨ o % m.align = 0
    (x.toNat / 2 ^ 56 ∉ [0x00, 0xE0, 0xE1, 0xE8, 0xF0] → faults 0x13 x 0) ∧
    ((x.toNat / 2 ^ 56, x.toNat % 2 ^ 56) = (0x00, p) → 2 ^ 49 ≤ p → faults 0x13 x 0) ∧
    ((x.toNat / 2 ^ 56, x.toNat % 2 ^ 56) = (0xE0, p) →
      (2 ^ 18 ≤ p → faults 0x13 x 0) ∧
      (p + m.n ≤ 2 ^ 18 → s.me.scratchBound < p + m.n → faults 0x04 (x + BitVec.ofNat 64 (s.me.scratchBound - p)) 4) ∧
      (p + m.n ≤ 2 ^ 18 → p + m.n ≤ s.me.scratchBound → m.align ≠ 0 → p % m.align ≠ 0 → faults 0x05 x 0)) ∧
    (∀ c, (x.toNat / 2 ^ 56, x.toNat % 2 ^ 56) = (0xE1, c * 2 ^ 18 + p) → p < 2 ^ 18 →
      (8 ≤ c → faults 0x13 x 0) ∧
      (c < 8 → p + m.n ≤ 2 ^ 18 → s.me.scratchBound < p + m.n → faults 0x04 (x + BitVec.ofNat 64 (s.me.scratchBound - p)) 4) ∧
      (c < 8 → p + m.n ≤ 2 ^ 18 → p + m.n ≤ s.me.scratchBound → m.align ≠ 0 → p % m.align ≠ 0 → faults 0x05 x 0) ∧
      (c < 8 → p + m.n ≤ 2 ^ 18 → p + m.n ≤ s.me.scratchBound → aligned p → plain → s.myCore / 8 * 8 + c ≠ s.myCore →
        (s.popAll m.reads).holdsUnit (s.myCore / 8 * 8 + c) s.me.launch = false → faults 0x06 x 6)) ∧
    ((x.toNat / 2 ^ 56, x.toNat % 2 ^ 56) = (0xE8, p) →
      (2 ^ 28 ≤ p → faults 0x13 x 0) ∧ (p + m.n ≤ 2 ^ 28 → s.me.stackSize ≤ p → faults 0x04 x 5)) ∧
    ((x.toNat / 2 ^ 56, x.toNat % 2 ^ 56) = (0xF0, p) →
      (2 ^ 46 ≤ p ∨ region p = .none → faults 0x13 x 0) ∧
      (p < 2 ^ 46 → p % 64 + m.n ≤ 64 → region p ≠ .none → (∀ o, region p ≠ .device o) → (∀ h, region p ≠ .hostWindow h) → aligned p →
        (m.op = .load ∧ s.granted s.me.asidNo p % 2 = 0) ∨ (m.op = .store ∧ s.granted s.me.asidNo p < 2) ∨
          ((∃ h, m.op = .atomic h) ∧ (s.granted s.me.asidNo p % 2 = 0 ∨ s.granted s.me.asidNo p < 2)) → faults 0x06 x 5))

/-- R278 and R279: an atomic on the scratchpad of the own core gives its destination the old value, extended by its type (nothing
for the no-return forms), and leaves the new value of `AtomicNewValues` there and every other byte. R278: amo.cas stores X(b)
where the old value equals the low bytes of X(d), and always gives the old value. That they are performed and answered in the step of
issue is the model's choice (notes/assumptions/8.md, notes/assumptions/91.md). -/
def Obligations.AtomicsOnScratchpad : Prop :=
  (∀ (op : AmoOp) (mk : AType → Bool → Nat → Nat → Nat → Instr),
     ((op, mk) = (.add, .amoAdd) ∨ (op, mk) = (.min, .amoMin) ∨ (op, mk) = (.max, .amoMax) ∨ (op, mk) = (.and, .amoAnd) ∨
       (op, mk) = (.or, .amoOr) ∨ (op, mk) = (.xor, .amoXor) ∨ (op, mk) = (.swp, .amoSwp) ∨ (op, mk) = (.inc, .amoInc)) →
     ∀ s ty d a b x y o, s.Unhindered → s.InScratch x (atypeBytes ty) o →
       let pa := 0x300000000000 + s.myCore * 2 ^ 20 + o
       let n := atypeBytes ty
       let old := numLe (s.mem.read pa n)
       let stored (t : State) : Prop :=
         t.mem.read pa n = bytesLe n (amoNew op ty old (y.toNat % 2 ^ (8 * n))) ∧
           ∀ p, p < pa ∨ pa + n ≤ p → t.mem.byte p = s.mem.byte p
       (s.Ready [a, b] (some d) [x, y] → ∃ t, exec (mk ty false d a b) s = .next t ∧ stored t ∧ s.KeptRegs [d] t ∧
         (1 ≤ d → d ≤ 50 → t.me.x d = extend (match ty with | .i32 => .i32 | .n32 => .n32 | _ => .i64) old)) ∧
       (s.Ready [a, b] none [x, y] → ∃ t, exec (mk ty true 0 a b) s = .next t ∧ stored t ∧ s.KeptRegs [] t)) ∧
  (∀ s ty d a b x y c o, s.Unhindered → s.InScratch x (atypeBytes ty) o → s.Ready [a, b, d] (some d) [x, y, c] → isPort d = false →
     let pa := 0x300000000000 + s.myCore * 2 ^ 20 + o
     let n := atypeBytes ty
     let old := numLe (s.mem.read pa n)
     ∃ t, exec (.amoCas ty d a b) s = .next t ∧ s.KeptRegs [d] t ∧
       (1 ≤ d → d ≤ 50 → t.me.x d = extend (match ty with | .i32 => .i32 | .n32 => .n32 | _ => .i64) old) ∧
       (old = c.toNat % 2 ^ (8 * n) → numLe (t.mem.read pa n) = y.toNat % 2 ^ (8 * n)) ∧
       (old ≠ c.toNat % 2 ^ (8 * n) → t.mem.read pa n = s.mem.read pa n) ∧
       ∀ p, p < pa ∨ pa + n ≤ p → t.mem.byte p = s.mem.byte p)

/-- R246, R250 to R253, R275 and R276: on a core where no release and no promotion is under way and nothing waits in the write
buffer, a release at core scope appends to the promotion log and completes, one at cluster scope whose round wrote nothing outside
the cluster completes, and one at a wider scope closes the round and stays open for its query; a fence does the same and keeps the
slot's loads waiting while it is open: a load then sends a read that leaves when that release has completed. That the entry of the log
is all that a core-scope release does, one release of a slot after the other, is read by inference (notes/assumptions/14.md). acq, but at core scope, makes every L1 sector
invalid whose line is not homed at the core. R283, R284 and R286: cinv makes the sectors of its range invalid, cwb sends the entries of the write buffer with bytes in its
range that nothing holds, pf.l1 and pf.l2 record their request, and hint sets priority and next use of the pages of its range that are
mapped; a length of 0 has no effect (for pf the model's reading: notes/assumptions/21.md), and one above 2^30 is cause 0x01,
subcode 3. -/
def Obligations.OrderingCacheAndHintInstructions : Prop :=
  ((∀ s sc (fence : Bool), s.Calm s.myCore → (s.core s.myCore).wb = [] → s.me.stores = [] → s.me.outstanding = [] →
     s.me.fenced = [] →
     ∃ t, exec (if fence then .fence sc else .rel sc) s = .next t ∧ t.mem = s.mem ∧ t.me.pc = s.retire.me.pc ∧
       (∀ n, t.me.x n = s.me.x n) ∧ t.nextId = s.nextId + 1 ∧
       (sc = .core → (s.core s.myCore).log.length < Config.promotionLogEntries → t.me.releases = [] ∧ t.me.fenced = [] ∧
         (t.core s.myCore).log = (s.core s.myCore).log ++ [((s.core s.myCore).round, s.cur)] ∧
         (t.core s.myCore).round = (s.core s.myCore).round) ∧
       (sc = .clus → (s.core s.myCore).outside = false → t.me.releases = [] ∧ t.me.fenced = [] ∧
         (t.core s.myCore).round = (s.core s.myCore).round) ∧
       (sc = .dev ∨ sc = .sys ∨ sc = .fab → (s.core s.myCore).draining.length < Config.drainingRounds →
         (∃ r, t.me.releases = [r] ∧ r.id = s.nextId ∧ r.scope = sc ∧ r.round = some (s.core s.myCore).round) ∧
         t.me.fenced = (if fence then [s.nextId] else []) ∧
         (t.core s.myCore).round = ((s.core s.myCore).round + 1) % 2 ^ 32 ∧
         (t.core s.myCore).draining = (s.core s.myCore).draining ++
           [((s.core s.myCore).round, Tab.getD (s.core s.myCore).sent ((s.core s.myCore).round % 8) 0)])) ∧
   (∀ s sc, ∃ t, exec (.acq sc) s = .next t ∧ s.KeptBut [] t ∧ (∀ c, c ≠ s.myCore → t.core c = s.core c) ∧
     ∀ sec : Nat, (t.core s.myCore).sector sec =
       if sc = .core ∨ (Tab.get? (s.core s.myCore).l1 (sec / 4)).any (·.ownHome) then (s.core s.myCore).sector sec else none) ∧
   (∀ s z d a i x o r, s.Ready [a] (some d) [x] → s.me.fenced.getLast? = some r → (s.core s.myCore).wb = [] →
     s.InScratch (x + BitVec.ofInt 64 i) (sizeBytes z) o →
     ∃ (t : State) (p : Pending) (m : Msg) (q : ReadReq), exec (.ldS z d a i) s = .next t ∧ t.me.status = .parked .own ∧
       t.me.pending = some p ∧ p.id = s.nextId ∧ p.finish = .load z d ∧ p.left = 0 ∧ t.me.pc = s.me.pc ∧ (∀ n, t.me.x n = s.me.x n) ∧
       t.mem = s.mem ∧ t.net = s.net ++ [m] ∧ m.gate = [.release s.cur r] ∧ m.body = .read q ∧ q.slot = s.cur ∧ q.id = s.nextId ∧
       q.pa = scratchPa s.myCore o ∧ q.n = sizeBytes z)) ∧
  ((∀ s, ∃ t, exec (.cinv .all) s = .next t ∧ s.KeptBut [] t ∧ ∀ sec : Nat, (t.core s.myCore).sector sec = none) ∧
   (∀ s, exec (.cwb .all) s = .next (s.sendEntries s.myCore fun _ => true).retire ∧
     ((∀ e ∈ (s.core s.myCore).wb, e.hold = []) → ∃ t, exec (.cwb .all) s = .next t ∧ (t.core s.myCore).wb = [])) ∧
   (∀ s a b x, s.Ready [a, b] none [x, 0] →
     exec (.cinv (.range a b)) s = .next (s.popAll [a, b]).retire ∧ exec (.cwb (.range a b)) s = .next (s.popAll [a, b]).retire ∧
     ∀ t, exec (.pf t a b) s = .next (s.popAll [a, b]).retire) ∧
   (∀ (s : State) (a b : Nat) (x y : Word) (va : Nat), s.Ready [a, b] none [x, y] → s.virtualOf x = some va → y ≠ 0 → y.toNat ≤ 2 ^ 30 →
     let u := s.popAll [a, b]
     let inside (pa n : Nat) : Bool := u.overlaps s.me.asidNo (u.pagesOf s.myCore s.me.asidNo va y.toNat) va y.toNat pa n
     (∃ t, exec (.cinv (.range a b)) s = .next t ∧ s.KeptBut [] t ∧ ∀ sec : Nat, (t.core s.myCore).sector sec =
       if inside (sec * 32) 32 then none else (s.core s.myCore).sector sec) ∧
     exec (.cwb (.range a b)) s = .next (u.sendEntries s.myCore fun e => e.pas.any fun pa => inside pa 1).retire ∧
     (∀ l2, ∃ t, exec (.pf (if l2 then .l2 else .l1) a b) s = .next t ∧ s.KeptBut [] t ∧ t.prefetches = s.prefetches ++
       [{ core := s.myCore, asid := s.me.asidNo, va := va, left := y.toNat, toL2 := l2 }]) ∧
     ∀ t, exec (.pf t a b) s = .next (u.prefetch t va y.toNat).retire ∧ s.KeptBut [] (u.prefetch t va y.toNat).retire) ∧
   (∀ s a b x y, s.Ready [a, b] none [x, y] → s.virtualOf x = none → y ≠ 0 → y.toNat ≤ 2 ^ 30 →
     exec (.cinv (.range a b)) s = .next (s.popAll [a, b]).retire ∧ exec (.cwb (.range a b)) s = .next (s.popAll [a, b]).retire ∧
     (aperture s.myCore x = .unmapped → ∀ t, exec (.pf t a b) s =
       .next (s.takeTrap s.cur { cause := 0x13, taddr := x, tinfo := 0 }))) ∧
   (∀ s a b x y t, s.Ready [a, b] none [x, y] → 2 ^ 30 < y.toNat →
     let illegal : Host.Outcome State Fault Refusal :=
       .next (s.takeTrap s.cur { cause := 0x01, taddr := s.me.pc + word (s.ilen - 2), tinfo := 3 })
     exec (.cinv (.range a b)) s = illegal ∧ exec (.cwb (.range a b)) s = illegal ∧ exec (.pf t a b) s = illegal) ∧
   (∀ s a b x y va, s.Ready [a, b] none [x, y] → s.virtualOf x = some va →
     ∃ t, exec (.hint a b) s = .next t ∧ s.KeptBut [] t ∧
       ∀ k p, Tab.get? s.pages k = some p → Tab.get? t.pages k = some
         (if p.asid = s.me.asidNo ∧ y.toNat / 2 ^ 40 ≠ 0 ∧ p.va < va + y.toNat / 2 ^ 40 * 65536 ∧ va < p.va + p.size ∧
             s.pageValid p = true then { p with prio := y.toNat / 2 ^ 37 % 8, nextUse := (s.stepctr + y.toNat % 2 ^ 37) % 2 ^ 64 } else p)))

/-- R274, R285 and R287: ld.a, step and home count themselves in LD and leave their destination to a later reply, whose value is
the step count before the increment, the place of the byte, or what the read of ld.a finds. R231, R281 and R282: append, seal and
tail send one request to the home of the page and wait for its reply; at the home an append to an open page with room puts its
record at the next multiple of its length, zeros before it, and answers with that offset, one without room answers -1, one to a
sealed page cause 0x08; seal and tail answer with the tail. The model's choices among these: what ld.a reads and when
(notes/assumptions/10.md), one request at issue and completion at the reply for append, seal and tail (15), home of an undeclared
scratchpad byte answering without a fault (20), and cause 0x11 for an append to a failed sector, or a seal or tail of a page whose tail lies in one (106). -/
def Obligations.AsynchronousAndSealInstructions : Prop :=
  ((∀ (s : State) d, s.Ready [] (some d) [] → isPort d = false → s.me.ld < 65535 →
     ∃ (t : State) (o : Outstanding), exec (.stepCtr d) s = .next t ∧ t.stepctr = (s.stepctr + 1) % 2 ^ 64 ∧ t.me.ld = s.me.ld + 1 ∧ s.KeptRegs [] t ∧
       t.mem = s.mem ∧ t.me.outstanding.getLast? = some o ∧ o.id = s.nextId ∧ o.d = d ∧ o.live = true ∧
       ∃ r : Reply, t.replies = s.replies ++ [r] ∧ r.slot = s.cur ∧ r.id = s.nextId ∧ r.bytes = bytesLe 8 (BitVec.ofNat 64 s.stepctr).toNat) ∧
   (∀ (s : State) d a x n, s.Ready [a] (some d) [x] → isPort d = false → s.me.ld < 65535 → s.myCore < 768 → n < 262144 →
     x.toNat = 0xE0 * 2 ^ 56 + n →
     ∃ (t : State) (o : Outstanding), exec (.home d a) s = .next t ∧ t.me.ld = s.me.ld + 1 ∧ s.KeptRegs [] t ∧ t.mem = s.mem ∧
       t.me.outstanding.getLast? = some o ∧ o.id = s.nextId ∧ o.d = d ∧ o.live = true ∧
       ∃ r : Reply, t.replies = s.replies ++ [r] ∧ r.slot = s.cur ∧ r.id = s.nextId ∧ r.bytes = bytesLe 8 (2 * 2 ^ 62 + s.myCore)) ∧
   (∀ (s : State) z d a i x n, s.Ready [a] (some d) [x] → isPort d = false → s.me.ld < 65535 → s.Unhindered →
     s.InScratch (x + BitVec.ofInt 64 i) (sizeBytes z) n →
     ∃ (t : State) (o : Outstanding), exec (.ldA z d a i) s = .next t ∧ t.me.ld = s.me.ld + 1 ∧ s.KeptRegs [] t ∧ t.mem = s.mem ∧
       t.me.outstanding.getLast? = some o ∧ o.id = s.nextId ∧ o.d = d ∧ o.z = z ∧ o.live = true ∧
       ∃ (m : Msg) (r : ReadReq), t.net = s.net ++ [m] ∧ m.core = s.myCore ∧ m.body = .read r ∧ r.slot = s.cur ∧ r.id = s.nextId ∧
         r.pa = scratchPa s.myCore n ∧ r.n = sizeBytes z)) ∧
  ((∀ (s : State) z d a b x c cs es, s.Ready [a] (some d) [x] (group b (recBytes z / 8)) →
     let u := s.popAll [a]
     u.check (u.accessor s.cur) x (recBytes z) (recBytes z) .append = .ok (c :: cs, es) →
     ∃ (t : State) (m : Msg), exec (.append z d a b) s = .next t ∧ s.AwaitsWord d t ∧ t.net = s.net ++ [m] ∧ m.core = s.myCore ∧ m.poa = c.loc.poa ∧
       m.gate = u.holdsFor s.cur ∧ m.body = .append (u.pageOf c.loc) c.loc.pa ((group b (recBytes z / 8)).flatMap fun r => bytesLe 8 (s.me.x r).toNat)
         s.cur s.me.uid s.nextId) ∧
   (∀ (s : State) d a x c cs es, s.Ready [a] (some d) [x] →
     let u := s.popAll [a]
     (u.check (u.accessor s.cur) x 8 8 .sealOp = .ok (c :: cs, es) →
       ∃ (t : State) (m : Msg), exec (.sealPage d a) s = .next t ∧ s.AwaitsWord d t ∧ t.net = s.net ++ [m] ∧ m.core = s.myCore ∧ m.poa = c.loc.poa ∧
         m.gate = u.holdsFor s.cur ∧ m.body = .sealReq (u.pageOf c.loc) c.loc.pa s.cur s.me.uid s.nextId) ∧
     (u.check (u.accessor s.cur) x 8 8 .tailOp = .ok (c :: cs, es) →
       ∃ (t : State) (m : Msg), exec (.tail d a) s = .next t ∧ s.AwaitsWord d t ∧ t.net = s.net ++ [m] ∧ m.core = s.myCore ∧ m.poa = c.loc.poa ∧
         m.gate = s.fenceGate s.cur ∧ m.body = .tailReq (u.pageOf c.loc) c.loc.pa s.cur s.me.uid s.nextId)) ∧
   (∀ (s : State) (core poa page at_ : Nat) (bytes : List Byte) (g uid id : Nat), bytes.length ∈ [8, 16, 32, 64] →
     let x := s.sealAt page
     let o := (x.tail + bytes.length - 1) / bytes.length * bytes.length
     let written (a : Nat) : Prop := page + x.tail ≤ a ∧ a < page + o + bytes.length
     let t := s.doAppend core poa page at_ bytes g uid id
     ∃ r : Reply, t.replies = s.replies ++ [r] ∧ r.slot = g ∧ r.uid = uid ∧ r.id = id ∧
       (x.sealed = true → t.sealAt page = x ∧ t.mem = s.mem ∧ r.failed = some (0x08, 0, 0)) ∧
       (x.sealed = false → x.size < o + bytes.length → t.sealAt page = x ∧ t.mem = s.mem ∧ r.failed = none ∧
         r.bytes = bytesLe 8 (2 ^ 64 - 1)) ∧
       (x.sealed = false → o + bytes.length ≤ x.size → (∃ a, written a ∧ a / 32 ∈ s.lost) → t.sealAt page = x ∧ t.mem = s.mem ∧
         ∃ k, r.failed = some (0x11, k, 0)) ∧
       (x.sealed = false → o + bytes.length ≤ x.size → (∀ a, written a → a / 32 ∉ s.lost) →
         t.sealAt page = { x with tail := o + bytes.length } ∧ r.failed = none ∧ r.bytes = bytesLe 8 (BitVec.ofNat 64 o).toNat ∧
         ((∀ a, written a → s.Plain a) → t.mem.read (page + o) bytes.length = bytes ∧
           (∀ a, page + x.tail ≤ a → a < page + o → t.mem.byte a = 0) ∧ ∀ a, ¬written a → t.mem.byte a = s.mem.byte a))) ∧
   (∀ (s : State) (poa page at_ g uid id : Nat), let x := s.sealAt page
     ((page + x.tail) / 32 ∉ s.lost →
       (∃ r : Reply, (s.doSeal poa page at_ g uid id).replies = s.replies ++ [r] ∧ r.slot = g ∧ r.id = id ∧ r.failed = none ∧
         r.bytes = bytesLe 8 (BitVec.ofNat 64 x.tail).toNat ∧ (s.doSeal poa page at_ g uid id).sealAt page = { x with sealed := true }) ∧
       ∃ r : Reply, (s.doTail poa page at_ g uid id).replies = s.replies ++ [r] ∧ r.slot = g ∧ r.id = id ∧ r.failed = none ∧
         r.bytes = bytesLe 8 (BitVec.ofNat 64 x.tail).toNat) ∧
     ((page + x.tail) / 32 ∈ s.lost → x.tail < x.size → (s.doSeal poa page at_ g uid id).sealAt page = x ∧
       (∃ r k, (s.doSeal poa page at_ g uid id).replies = s.replies ++ [r] ∧ r.failed = some (0x11, k, 0)) ∧
       ∃ r k, (s.doTail poa page at_ g uid id).replies = s.replies ++ [r] ∧ r.failed = some (0x11, k, 0))))

/-! ## Queues, mailboxes, barriers, tasks and levels (R184 to R209) -/

/-- R184 to R190: qbind binds a free port to a queue of the launch and qfree unbinds it; qtok pushes a token; qpeek and qlen look at
a port without popping; tvec writes a token-vector entry. What R186 refuses, and an odd handler, is cause 0x01, subcode 3. -/
def Obligations.QueuePortInstructions : Prop :=
  (∀ s dir q a x, s.Ready [a] none [x] → 60 ≤ q → q ≤ 63 →
    ((s.popAll [a]).bindRefused dir q x = false → ∃ t, exec (.qbind dir q a) s = .next t ∧ t.mem = s.mem ∧
      (∀ n, t.me.x n = s.me.x n) ∧ (∀ p, 56 ≤ p → p ≤ 63 → p ≠ q → t.me.port p = s.me.port p) ∧
      t.me.port q = (if dir = .input then .pop ((s.launch s.me.launch).queueIds.getD x.toNat 0) x.toNat
        else .push ((s.launch s.me.launch).queueIds.getD x.toNat 0) x.toNat)) ∧
    ((s.popAll [a]).bindRefused dir q x = true → exec (.qbind dir q a) s =
      .next (s.takeTrap s.cur { cause := 0x01, taddr := s.me.pc + word (s.ilen - 2), tinfo := 3 }))) ∧
  (∀ s q n e, 60 ≤ q → q ≤ 63 → s.me.port q = .pop n e ∨ s.me.port q = .push n e →
    ∃ t, exec (.qfree q) s = .next t ∧ t.me.port q = .unbound ∧ t.mem = s.mem ∧ t.queues = s.queues ∧
      (∀ k, t.me.x k = s.me.x k) ∧ ∀ p, 56 ≤ p → p ≤ 63 → p ≠ q → t.me.port p = s.me.port p) ∧
  (∀ s q level n e x, s.me.port q = .push n e → s.portRoom s.cur q = true → Tab.get? s.queues n = some x → x.ring = false →
    ∃ t y, exec (.qtok q level) s = .next t ∧ s.KeptBut [] t ∧ Tab.get? t.queues n = some y ∧
      y.elems = x.elems ++ [{ data := 0, tag := level }] ∧ y.pushed = x.pushed + 1) ∧
  (∀ s q level n e, s.me.port q = .push n e → s.portRoom s.cur q = true →
    exec (.qtok q level) s = .next (s.pushQueue s.cur n 0 level).retire) ∧
  (∀ s d q h n, s.Ready [] (some d) [] → s.lookAt s.cur q = some (h, n) → (s.me.port q).pushes = false →
    exec (.qpeek d q) s = .next (s.after [] d (match h with | some e => e.data | none => 0))) ∧
  (∀ s d q h n, s.Ready [] (some d) [] → s.lookAt s.cur q = some (h, n) →
    exec (.qlen d q) s = .next (s.after [] d (BitVec.ofNat 64
      ((match h with | some e => 2 ^ 34 + e.tag * 2 ^ 32 | none => 0) + n % 2 ^ 32)))) ∧
  (∀ s q level a x, s.Ready [a] none [x] → 56 ≤ q → q ≤ 63 → 1 ≤ level → level ≤ 3 →
    (x.getLsbD 0 = false → ∃ t, exec (.tvec q level a) s = .next t ∧ t.me.vector q level = x ∧ t.mem = s.mem ∧
      (∀ n, t.me.x n = s.me.x n) ∧ ∀ p l, 56 ≤ p → p ≤ 63 → 1 ≤ l → l ≤ 3 → (p, l) ≠ (q, level) → t.me.vector p l = s.me.vector p l) ∧
    (x.getLsbD 0 = true → exec (.tvec q level a) s =
      .next (s.takeTrap s.cur { cause := 0x01, taddr := s.me.pc + word (s.ilen - 2), tinfo := 3 })))

/-- R33, R191 and R192: send counts one store and reads the 64 bytes at X(b) for the mailbox that X(a) names, while the slot goes on;
when the last of them has come, the message leaves with these bytes. recv takes the lowest mailbox of its mask that holds a message
for its slot, stores the body at X(a) and gives the sender and the mailbox, and with no such message parks. What X(a) may not name
is cause 0x01, subcode 3. That the store of recv is tested and made in its step (notes/assumptions/91.md), and which of several
waiting slots takes a message (notes/assumptions/16.md), are the model's choices. -/
def Obligations.MailboxInstructions : Prop :=
  (∀ (s : State) a b x y cs es, s.Ready [a, b] none [x, y] →
    let u := s.popAll [a, b]
    u.check (u.accessor s.cur) y 64 0 .load = .ok (cs, es) → (u.installAll s.myCore es).lostPiece s.myCore s.cur (piecesOf cs) = none →
    (x.toNat / 2 ^ 20 = 0 → x.toNat / 2 ^ 10 % 2 ^ 6 = 0 → x.toNat % 2 ^ 10 < 768 → s.me.st < 65535 →
      ∃ (t : State) (z : Sending) (m : Mail), exec (.send a b) s = .next t ∧ t.sendings = s.sendings ++ [z] ∧ z.id = s.nextId ∧ z.slot = s.cur ∧ z.mail = some m ∧
        z.parts.map (fun q => (q.pa, q.n)) = (piecesOf cs).map (fun c => (c.loc.pa, c.n)) ∧
        m.core = x.toNat % 2 ^ 10 ∧ m.box = x.toNat / 2 ^ 16 ∧ m.sender = s.cur ∧ m.tip = s.me.pc ∧ m.launch = s.me.launch ∧
        m.fabric = none ∧ (∀ n, t.me.x n = s.me.x n) ∧ t.me.pc = s.retire.me.pc ∧
        ((∀ r ∈ s.me.stores, r.id ≠ s.nextId) → t.me.st = s.me.st + 1)) ∧
    (x.toNat / 2 ^ 20 ≠ 0 ∨ x.toNat / 2 ^ 10 % 2 ^ 6 ≠ 0 ∨ 768 ≤ x.toNat % 2 ^ 10 → exec (.send a b) s =
      .next (s.takeTrap s.cur { cause := 0x01, taddr := s.me.pc + word (s.ilen - 2), tinfo := 3 }))) ∧
  (∀ (s : State) i r z m, s.ReplyArrives i r →
    s.sendings.find? (fun x => x.id == r.id) = some z → z.mail = some m →
    (∀ q ∈ z.parts, (q.off = r.off → q.bytes = none ∧ q.failed = none) ∧ (q.off ≠ r.off → q.answered = true)) →
    (∀ p, (s.slot r.slot).pending = some p → p.id ≠ r.id) →
    ∃ t : State, exec (.loadReply i) s = .next t ∧ t.mails = s.mails ++ [{ m with body := bytesOf (z.parts.map (·.take r)) }] ∧
      t.sendings = s.sendings.filter fun x => x.id != r.id) ∧
  (∀ (s : State) d a b x y cs es k m u, s.Ready [a, b] (some d) [x, y] → y ≠ 0 → y.toNat < 2 ^ 16 →
    (s.popAll [a, b]).check ((s.popAll [a, b]).accessor s.cur) x 64 0 .store = .ok (cs, es) →
    s.mailFor s.cur y.toNat = some (k, m) →
    ((s.popAll [a, b]).installAll s.myCore es).storeNow s.cur cs (s.mem.read (mailboxPa s.myCore k 0) 64) = .ok u →
    exec (.recv d a b) s = .next (((u.writeX d (match m.fabric with
      | none => BitVec.ofNat 64 (m.sender * 16 + k)
      | some f => BitVec.ofNat 64 (2 ^ 63 + f.2 * 2 ^ 18 + k))).modCore s.myCore fun c =>
        { c with mail := Tab.del c.mail k }).fillMailbox s.myCore k).retire) ∧
  (∀ (s : State) d a b x y o k m, s.Ready [a, b] (some d) [x, y] → isPort d = false → y ≠ 0 → y.toNat < 2 ^ 16 → s.Unhindered →
    s.InScratch x 64 o → s.mailFor s.cur y.toNat = some (k, m) → (s.core s.myCore).waitMail = [] →
    ∃ t : State, exec (.recv d a b) s = .next t ∧ s.KeptRegs [d] t ∧ (t.core s.myCore).mail = Tab.del (s.core s.myCore).mail k ∧
      t.mem.read (scratchPa s.myCore o) 64 = s.mem.read (mailboxPa s.myCore k 0) 64 ∧
      (∀ p, p < scratchPa s.myCore o ∨ scratchPa s.myCore o + 64 ≤ p → t.mem.byte p = s.mem.byte p) ∧
      (m.fabric = none → 1 ≤ d → d ≤ 50 → t.me.x d = BitVec.ofNat 64 (m.sender * 16 + k))) ∧
  (∀ (s : State) d a b x y cs es, s.Ready [a, b] (some d) [x, y] → y ≠ 0 → y.toNat < 2 ^ 16 → s.me.stopAsked = false →
    (s.popAll [a, b]).check ((s.popAll [a, b]).accessor s.cur) x 64 0 .store = .ok (cs, es) →
    s.mailFor s.cur y.toNat = none →
    exec (.recv d a b) s = .next (s.modMe fun sl => { sl with status := .parked (.mailbox y.toNat) }))

/-- R193, R263 and R298: waitc completes when each counter is at or below its limit (15 is no limit), makes the L1 sectors of bytes
copied invalid where it covers CP, parks otherwise, and raises a pending asynchronous error that it covers first, with tcause
bit 62. R166 and R195 to R198: arrive raises the unit's count and tells the object, unless the unit is three arrivals ahead; wait
goes on once no arrival of the unit is ahead of the phase; sync does both; drop leaves; join of a member completes, and any other
unit asks to become one and waits for the answer. A barrier number beyond the kernel's count is cause 0x04, and a unit that is no
member raises cause 0x01, subcode 3. -/
def Obligations.CounterWaitsAndBarriers : Prop :=
  (∀ (s : State) ld st cp tb, ld ≤ 15 → st ≤ 15 → cp ≤ 15 → tb ≤ 15 →
     (s.me.reported (cp != 15) (limitOf tb) = none →
       (ld = 15 ∨ s.me.ld ≤ ld) → (st = 15 ∨ s.me.st ≤ st) → (cp = 15 ∨ s.me.cp ≤ cp) → (tb = 15 ∨ s.me.tb ≤ tb) →
         (cp = 15 → exec (.waitc ld st cp tb) s = .next s.retire) ∧
         ∃ t : State, exec (.waitc ld st cp tb) s = .next t ∧ s.KeptBut [] t ∧ t.me.pc = s.retire.me.pc ∧
           (cp ≠ 15 → t.me.copied = [] ∧ ∀ sec : Nat, (t.core s.myCore).sector sec =
             if ∃ r ∈ s.me.copied, r.1 / 32 ≤ sec ∧ sec ≤ (r.1 + r.2 - 1) / 32 then none else (s.core s.myCore).sector sec)) ∧
     (s.me.reported (cp != 15) (limitOf tb) = none → s.me.stopAsked = false →
       (ld ≠ 15 ∧ ld < s.me.ld ∨ st ≠ 15 ∧ st < s.me.st ∨ cp ≠ 15 ∧ cp < s.me.cp ∨ tb ≠ 15 ∧ tb < s.me.tb) →
         exec (.waitc ld st cp tb) s = .next (s.modMe fun x => { x with status := .parked (.counters ld st cp tb) })) ∧
     (∀ e, s.me.reported (cp != 15) (limitOf tb) = some e → exec (.waitc ld st cp tb) s =
       .next ((s.modMe fun sl => { sl with pend := sl.pend.erase e }).takeTrap s.cur
         { cause := e.cause, taddr := e.addr, tinfo := e.seq % 256, async := true }))) ∧
  ((∀ (s : State) n, s.me.barrierBound ≤ n →
     let bound : Host.Outcome State Fault Refusal := .next (s.takeTrap s.cur { cause := 0x04, taddr := 0, tinfo := 2 })
     exec (.barArv n) s = bound ∧ exec (.barWait n) s = bound ∧ exec (.barSync n) s = bound ∧ exec (.barDrop n) s = bound ∧
     exec (.barJoin n) s = bound) ∧
   (∀ (s : State) n, n < s.me.barrierBound → (s.me.view n).member = false →
     let illegal : Host.Outcome State Fault Refusal :=
       .next (s.takeTrap s.cur { cause := 0x01, taddr := s.me.pc + word (s.ilen - 2), tinfo := 3 })
     exec (.barArv n) s = illegal ∧ exec (.barWait n) s = illegal ∧ exec (.barSync n) s = illegal ∧ exec (.barDrop n) s = illegal ∧
     (s.me.stopAsked = false → ∃ (t : State) (r : BarrierReq) (p : Pending), exec (.barJoin n) s = .next t ∧ t.mem = s.mem ∧ (∀ k, t.me.x k = s.me.x k) ∧
       t.me.pc = s.me.pc ∧ t.barReqs = s.barReqs ++ [r] ∧ r.slot = s.cur ∧ r.n = n ∧ r.kind = 2 ∧ t.me.status = .parked .own ∧
       t.me.pending = some p ∧ p.left = 1 ∧ p.finish = .none ∧ p.len = s.ilen)) ∧
   (∀ (s : State) n v, n < s.me.barrierBound → s.me.view n = v → v.member = true →
     (v.p < v.c + 3 → ∃ (t : State) (r : BarrierReq), exec (.barArv n) s = .next t ∧ s.KeptBut [] t ∧ t.me.pc = s.retire.me.pc ∧
       t.me.view n = { v with p := v.p + 1 } ∧ t.barReqs = s.barReqs ++ [r] ∧ r.slot = s.cur ∧ r.n = n ∧ r.kind = 0) ∧
     (v.c + 3 ≤ v.p → s.me.stopAsked = false → exec (.barArv n) s = .next (s.modMe fun x => { x with status := .parked (.lead n) })) ∧
     (v.p ≤ v.c → exec (.barWait n) s = .next s.retire) ∧
     (v.c < v.p → s.me.stopAsked = false → exec (.barWait n) s = .next (s.modMe fun x => { x with status := .parked (.phase n) })) ∧
     (v.mark = false → v.p < v.c + 3 → s.me.stopAsked = false → ∃ (t : State) (r : BarrierReq), exec (.barSync n) s = .next t ∧ s.KeptBut [] t ∧
       t.me.pc = s.me.pc ∧ t.me.status = .parked (.phase n) ∧ t.me.view n = { v with p := v.p + 1, mark := true } ∧
       t.barReqs = s.barReqs ++ [r] ∧ r.slot = s.cur ∧ r.n = n ∧ r.kind = 0) ∧
     (v.mark = true → v.p ≤ v.c → ∃ t : State, exec (.barSync n) s = .next t ∧ s.KeptBut [] t ∧ t.me.pc = s.retire.me.pc ∧
       t.me.view n = { v with mark := false } ∧ t.barReqs = s.barReqs) ∧
     (∃ (t : State) (r : BarrierReq), exec (.barDrop n) s = .next t ∧ s.KeptBut [] t ∧ t.me.pc = s.retire.me.pc ∧
       t.me.view n = { v with member := false, mark := false } ∧ t.barReqs = s.barReqs ++ [r] ∧ r.slot = s.cur ∧ r.n = n ∧ r.kind = 1) ∧
     exec (.barJoin n) s = .next s.retire))

/-- R199 to R201: fork starts a release at device scope and puts a child with the parent's registers, fp the parent's sp and lk 0,
before the launch's waiting tasks; the child waits for that release. Where 65,536 forked tasks wait, fork raises cause 0x04. sync
with no children acquires at device scope; else a thread that may move rests with its PC at the sync and leaves its slot, and any
other parks. spawn reads its record, sends it to reserve an entry of the queue, counted as a store, and gives the sequence number of
that entry, which is then complete, or -1 where the queue is full and nothing is counted. The model's choices among these: a record
that the core holds is read in the step of issue (notes/assumptions/8.md), and which threads may move (notes/assumptions/24.md). -/
def Obligations.TaskInstructions : Prop :=
  (∀ (p : Slot) (uid : Nat) (pc : Word), (p.child uid pc).pc = pc ∧ (p.child uid pc).x 48 = 0 ∧ (p.child uid pc).x 49 = p.x 50 ∧
    (∀ n, n ≤ 50 → n ≠ 48 → n ≠ 49 → (p.child uid pc).x n = p.x n) ∧ (p.child uid pc).frm = p.frm ∧
    (p.child uid pc).thand = p.thand ∧ (p.child uid pc).asid = p.asid ∧ (p.child uid pc).ports = Vector.replicate 8 .unbound ∧
    (p.child uid pc).lease = none ∧ ((p.child uid pc).ld, (p.child uid pc).st, (p.child uid pc).cp, (p.child uid pc).tb) = (0, 0, 0, 0)) ∧
  (∀ (s : State) i u, s.me.unit = some u → (s.launch u.launch).waitingForks < 65536 →
    let s₁ := s.fresh.2
    exec (.fork i) s = .next (((s₁.startRelease s.cur .dev false).modLaunch u.launch fun l => { l with
        tasks := { slot := s.me.child s.nextId (s.me.pc + BitVec.ofInt 64 (2 * i)), core := s.myCore,
                   after := some (s.cur, s.nextId + 1) } :: l.tasks
        count := l.count + 1 }).modUnit u.uid fun u => { u with children := u.children + 1 }).retire) ∧
  (∀ (s : State) i u, s.me.unit = some u → 65536 ≤ (s.launch u.launch).waitingForks →
    exec (.fork i) s = .next (s.takeTrap s.cur { cause := 0x04, taddr := 0, tinfo := 7 })) ∧
  (∀ (s : State) u, s.me.unit = some u → u.children = 0 → ∃ t : State, exec .sync s = .next t ∧ s.KeptBut [] t ∧ t.me.pc = s.retire.me.pc ∧
    ∀ sec : Nat, (t.core s.myCore).sector sec =
      if (Tab.get? (s.core s.myCore).l1 (sec / 4)).any (·.ownHome) then (s.core s.myCore).sector sec else none) ∧
  (∀ (s : State) u, s.me.unit = some u → u.children ≠ 0 → s.movable s.me = false → s.me.stopAsked = false →
    exec .sync s = .next (s.modMe fun x => { x with status := .parked .children })) ∧
  (∀ (s : State) u, s.me.unit = some u → u.children ≠ 0 → s.movable s.me = true → s.me.fenced = [] →
    ∃ (t : State) (z : Thread), exec .sync s = .next t ∧ (t.slot s.cur).status = .empty ∧ (t.slot s.cur).unit = none ∧
      Tab.get? (t.launch u.launch).resting u.uid = some z ∧ z.slot.unit = some u ∧ z.slot.pc = s.me.pc ∧
      (∀ n, z.slot.x n = s.me.x n) ∧ z.after = some (s.cur, s.nextId)) ∧
  (∀ (s : State) d a b x y bs t₀, s.Ready [a, b] (some d) [x, y] → x.toNat % 64 = 0 → y.toNat < 16 →
    s.spawnAllowed (128 + 16 * dieOf s.cur + y.toNat) = true → s.me.st < 65535 → (s.popAll [a, b]).ReadsNow s x 64 0 bs t₀ → t₀.me.st < 65535 →
    ∃ (t : State) (r : Spawn) (p : Pending), exec (.spawn d a b) s = .next t ∧ t.spawns = t₀.spawns ++ [r] ∧ r.slot = s.cur ∧ r.die = dieOf s.cur ∧
      r.index = y.toNat ∧ r.record = bs ∧ r.id = t₀.nextId ∧ t.me.status = .parked .own ∧ t.me.pc = s.me.pc ∧
      t.me.pending = some p ∧ p.id = t₀.nextId ∧ p.finish = .spawned y.toNat d t₀.nextId ∧ p.len = s.ilen ∧
      ((∀ o ∈ t₀.me.stores, o.id ≠ t₀.nextId) → t.me.st = t₀.me.st + 1)) ∧
  (∀ (s : State) i r p k d op, s.LastReply i r p → p.finish = .spawned k d op → 1 ≤ d → d ≤ 50 →
    let v := numLe (p.bytesWith r) % 2 ^ 64
    ∃ t : State, exec (.loadReply i) s = .next t ∧ (t.slot r.slot).x d = BitVec.ofNat 64 v ∧ (t.slot r.slot).pending = none ∧
      (v = 2 ^ 64 - 1 → (∀ o ∈ (t.slot r.slot).stores, o.id ≠ op) ∧
        ((∃ o ∈ (s.slot r.slot).stores, o.id = op) → (t.slot r.slot).st = (s.slot r.slot).st - 1)) ∧
      (v ≠ 2 ^ 64 - 1 → (t.slot r.slot).st = (s.slot r.slot).st ∧ (∃ o ∈ t.acks, o.slot = r.slot ∧ o.id = op) ∧
        ∃ (q : DeviceQueue) (e : Bool × List Byte), Tab.get? (t.die (dieOf r.slot)).spawnQ k = some q ∧ Tab.get? q.entries v = some e ∧ e.1 = true))

/-- R202 to R206: lvl.cnt gives status and count of the object that X(a) names, or bit 63 where it is absent; lvl.wait goes on once
the count is at or below X(b) or the object is complete; cancel posts its object to the ridge. A value that R202 does not allow
is cause 0x01, subcode 3. When the cluster's copy of the level table is renewed, and what it holds of records not taken, is the
model's choice (notes/assumptions/23.md); so is that the yielding unit goes to the end of the waiting tasks
(notes/assumptions/22.md). R177, R206, R207 and R209: yield passes the slot's own turn where no waiting task may start, and
else goes behind the waiting tasks for the one forked last, lbq gives
the load registers of its cluster, five bits a core, migr asks for a core of the cluster, and dusk starts a probe and gives its
number. -/
def Obligations.LevelAndSchedulingInstructions : Prop :=
  ((∀ (s : State) v d a x, s.Ready [a] (some d) [x] →
     (∀ k, s.seeLevel s.cur v x = some (some k) →
       exec (.lvlCnt v d a) s = .next (s.after [a] d (BitVec.ofNat 64 (k.status * 2 ^ 32 + k.count % 2 ^ 32)))) ∧
     (s.seeLevel s.cur v x = some none → exec (.lvlCnt v d a) s = .next (s.after [a] d (BitVec.ofNat 64 (2 ^ 63)))) ∧
     (s.seeLevel s.cur v x = none → exec (.lvlCnt v d a) s =
       .next (s.takeTrap s.cur { cause := 0x01, taddr := s.me.pc + word (s.ilen - 2), tinfo := 3 }))) ∧
   (∀ (s : State) v a b x y k, s.Ready [a, b] none [x, y] → s.seeLevel s.cur v x = some (some k) →
     (k.count ≤ y.toNat ∨ k.status ≠ 0 → exec (.lvlWait v a b) s = .next (s.popAll [a, b]).retire) ∧
     (y.toNat < k.count → k.status = 0 → s.me.stopAsked = false →
       exec (.lvlWait v a b) s = .next (s.modMe fun z => { z with status := .parked (.level v x y.toNat) }))) ∧
   (∀ (s : State) v a x, s.Ready [a] none [x] →
     (∀ k, s.levelKey (s.launch s.me.launch) s.me.launch v x = some (some k) →
       ∃ t : State, exec (.cancel v a) s = .next t ∧ s.KeptBut [] t ∧ t.cancels = s.cancels ++ [{ level := v, key := k }]) ∧
     (s.levelKey (s.launch s.me.launch) s.me.launch v x = some none → exec (.cancel v a) s = .next (s.popAll [a]).retire))) ∧
  ((∀ s : State, (s.me.unit = none ∨ s.movable s.me = false ∨ ∃ u : UnitInfo, s.me.unit = some u ∧ s.taskFor u.launch = none) →
     exec .yieldTurn s = .next (s.modMe fun sl => { sl with yielded := some s.cycle }).retire) ∧
   (∀ (s : State) u z rest, s.me.unit = some u → s.movable s.me = true → s.taskFor u.launch = some (z, rest) → s.me.fenced = [] →
     ∃ (t : State) (own : Thread), exec .yieldTurn s = .next t ∧ t.me.pc = z.slot.pc ∧ t.me.status = .running ∧ (∀ n, t.me.x n = z.slot.x n) ∧
       (t.launch u.launch).tasks = rest ++ [own] ∧ own.slot.unit = some u ∧ own.slot.pc = s.retire.me.pc ∧
       (∀ n, own.slot.x n = s.me.x n) ∧ own.after = some (s.cur, s.nextId)) ∧
   (∀ (s : State) d, s.Ready [] (some d) [] → exec (.lbq d) s = .next (s.after [] d (BitVec.ofNat 64
     (((List.range 8).map fun k => (s.cluster (s.myCore / 8)).loads.toList.getD k 0 * 32 ^ k).sum)))) ∧
   (∀ (s : State) a x, s.Ready [a] none [x] →
     (7 < x.toNat → exec (.migr a) s =
       .next (s.takeTrap s.cur { cause := 0x01, taddr := s.me.pc + word (s.ilen - 2), tinfo := 3 })) ∧
     (x.toNat ≤ 7 → s.myCore / 8 * 8 + x.toNat = s.myCore ∨ (s.popAll [a]).movable (s.popAll [a]).me = false →
       exec (.migr a) s = .next (s.popAll [a]).retire) ∧
     (x.toNat ≤ 7 → s.myCore < 768 → s.myCore / 8 * 8 + x.toNat ≠ s.myCore → (s.popAll [a]).movable (s.popAll [a]).me = true →
       ∃ (t : State) (m : Migration), exec (.migr a) s = .next t ∧ t.migrations = s.migrations ++ [m] ∧ m.origin = s.cur ∧ m.release = s.nextId ∧
         m.target = s.myCore / 8 * 8 + x.toNat ∧ m.back = false ∧ m.thread.pc = s.retire.me.pc ∧
         (∀ n, m.thread.x n = s.me.x n) ∧ t.me.status = .stopped)) ∧
   (∀ (s : State) o d a x, s.Ready [a] (some d) [x] → x.toNat ≤ 15 →
     ∃ (t : State) (p : Probe), exec (.dusk o d a) s = .next t ∧ s.KeptBut [d] t ∧ t.probes = s.probes ++ [p] ∧ p.slot = s.cur ∧ p.box = x.toNat ∧
       p.core = s.myCore ∧ (p.dev = true ↔ o = .dev) ∧ p.number = s.me.probeSeq ∧ p.sample = none ∧
       t.me.probeSeq = s.me.probeSeq + 1 ∧ (1 ≤ d → d ≤ 50 → t.me.x d = BitVec.ofNat 64 s.me.probeSeq)))

/-! ## Vector instructions (R332 to R346) -/

/-- A row written reads back lane by lane, and no byte outside its 512 changes: the shape of every vector result. R345: vld loads
512 bytes into a row, with the last reply to its reads or, by the model's choice (notes/assumptions/8.md), at once where its core can
give them, and vst stores a row's 512 bytes; that those of the own scratchpad are accepted in the step of issue is the model's
choice (notes/assumptions/91.md). R308, R320, R335: a vector instruction without a leased bank raises cause 0x0F, and one that meets
a tile command at work on its rows cause 0x0C; vex2, vrcp and vrsq are illegal in mode I32. -/
def Obligations.VectorRowsMemoryAndFaults : Prop :=
  (∀ (s : State) (x : Lease) (r : Nat) (cs : List (Nat × Nat)), x.cluster < 96 → x.bank < 4 → r ≤ 63 →
     cs.length = laneCount x.mode → (∀ c ∈ cs, c.1 < 2 ^ (8 * laneBytes x.mode)) →
     (s.putLanes x r cs).row x.cluster x.bank x.mode r = cs.map (·.1) ∧ s.KeptBut [] { s.putLanes x r cs with mem := s.mem } ∧
     (∀ p, p < bankPa x.cluster x.bank (512 * r) ∨ bankPa x.cluster x.bank (512 * r) + 512 ≤ p →
       (s.putLanes x r cs).mem.byte p = s.mem.byte p) ∧
     ∀ k < 64, (s.putLanes x r cs).me.fflags.getLsbD k =
       (s.me.fflags.getLsbD k || (decide (k < 6) && cs.any fun c => (BitVec.ofNat 64 c.2).getLsbD k))) ∧
  ((∀ s x d a v bs t, s.VectorReady [a] none [v] [] (some d) x → (s.popAll [a]).ReadsNow s v 512 0 bs t →
     exec (.vld d a) s = .next (t.writeRow x.cluster x.bank d bs).retire) ∧
   (∀ s x d a v cs es, s.VectorReady [a] none [v] [] (some d) x → s.me.fenced = [] →
     let u := s.popAll [a]
     u.check (u.accessor s.cur) v 512 0 .load = .ok (cs, es) →
     (u.installAll s.myCore es).readAtOnce s.myCore .cached (piecesOf cs) = .ok none →
     ∃ t p, exec (.vld d a) s = .next t ∧ t.me.status = .parked .own ∧ t.me.pending = some p ∧ p.left = 0 ∧ p.room = none ∧
       p.finish = .row x.cluster x.bank d ∧ p.parts.map (fun q => (q.pa, q.n)) = (piecesOf cs).map fun c => (c.loc.pa, c.n)) ∧
   (∀ s i r p cl b v, s.LastReply i r p → s.Calm (coreOf r.slot) → p.finish = .row cl b v → cl < 96 → b < 4 → v ≤ 63 →
     (p.bytesWith r).length = 512 →
     ∃ t, exec (.loadReply i) s = .next t ∧ t.mem.read (bankPa cl b (512 * v)) 512 = p.bytesWith r ∧
       (∀ k, k < bankPa cl b (512 * v) ∨ bankPa cl b (512 * v) + 512 ≤ k → t.mem.byte k = s.mem.byte k) ∧
       (t.slot r.slot).pending = none) ∧
   (∀ s x d a v cs es t, s.VectorReady [a] none [v] [d] none x →
     (s.popAll [a]).check ((s.popAll [a]).accessor s.cur) v 512 0 .store = .ok (cs, es) →
     ((s.popAll [a]).installAll s.myCore es).store s s.cur [a] cs (s.rowBytes x.cluster x.bank d) = .ok t →
     exec (.vst d a) s = .next t.retire) ∧
   (∀ s x d a v o, s.VectorReady [a] none [v] [d] none x → s.Unhindered → s.myCore < 768 → v.toNat = 0xE0 * 2 ^ 56 + o →
     o % 64 = 0 → o + 512 ≤ s.me.scratchBound → s.me.scratchBound ≤ 262144 →
     ∃ t, exec (.vst d a) s = .next t ∧ s.KeptRegs [] t ∧
       t.mem.read (scratchPa s.myCore o) 512 = s.rowBytes x.cluster x.bank d ∧
       ∀ p, p < scratchPa s.myCore o ∨ scratchPa s.myCore o + 512 ≤ p → t.mem.byte p = s.mem.byte p)) ∧
  (∀ (s : State) (d a b : Nat),
     (s.me.lease = none → exec (.vadd d a b) s = .next (s.takeTrap s.cur { cause := 0x0F, taddr := 0, tinfo := 0 }) ∧
       exec (.vzero d) s = .next (s.takeTrap s.cur { cause := 0x0F, taddr := 0, tinfo := 0 })) ∧
     (∀ k w, s.me.lease = some (k, w) → (s.bank (clusterOf s.myCore) k).busyFor [a, b] (some d) = true →
       exec (.vadd d a b) s = .next (s.takeTrap s.cur { cause := 0x0C, taddr := 0, tinfo := 0 })) ∧
     (∀ k w, s.me.lease = some (k, w) → (s.bank (clusterOf s.myCore) k).mode = .i32 →
       let illegal : Host.Outcome State Fault Refusal :=
         .next (s.takeTrap s.cur { cause := 0x01, taddr := s.me.pc + word (s.ilen - 2), tinfo := 3 })
       exec (.vex2 d a) s = illegal ∧ exec (.vrcp d a) s = illegal ∧ exec (.vrsq d a) s = illegal))

/-- R336 to R341: the lane-wise instructions put into row d, for each lane, the operation on the lanes of their source rows:
floating point in the bank's format and tfrm's rounding, or integers modulo 2^32 in mode I32. -/
def Obligations.VectorLaneResults : Prop :=
  ∀ (s : State) (x : Lease) (d a b : Nat),
    let row (r : Nat) := s.row x.cluster x.bank x.mode r
    let give (cs : List (Nat × Nat)) : Host.Outcome State Fault Refusal := .next (s.putLanes x d cs).retire
    let int (v : Int) : Nat × Nat := ((v % 2 ^ 32).toNat, 0)
    let op (f : Ieee → Nat × Nat) (v : Int) : Nat × Nat := match laneFormat x.mode with | some fmt => f fmt | none => int v
    (s.VectorReady [] none [] [a, b] (some d) x →
      exec (.vadd d a b) s = give (List.zipWith (fun p q =>
        op (fun f => f.add x.rnd (f.decode p) (f.decode q)) (signedOf 32 p + signedOf 32 q)) (row a) (row b)) ∧
      exec (.vsub d a b) s = give (List.zipWith (fun p q =>
        op (fun f => f.add x.rnd (f.decode p) (f.decode q).negate) (signedOf 32 p - signedOf 32 q)) (row a) (row b)) ∧
      exec (.vmul d a b) s = give (List.zipWith (fun p q =>
        op (fun f => f.mul x.rnd (f.decode p) (f.decode q)) (signedOf 32 p * signedOf 32 q)) (row a) (row b)) ∧
      exec (.vmin d a b) s = give (List.zipWith (fun p q =>
        op (fun f => f.minMax false p q) (Min.min (signedOf 32 p) (signedOf 32 q))) (row a) (row b)) ∧
      exec (.vmax d a b) s = give (List.zipWith (fun p q =>
        op (fun f => f.minMax true p q) (Max.max (signedOf 32 p) (signedOf 32 q))) (row a) (row b)) ∧
      (let ones (c : Bool) : Nat := if c then 2 ^ (8 * laneBytes x.mode) - 1 else 0
       let compared (c : VCond) (o : FCond) (i : Int → Int → Bool) : Prop :=
         exec (.vcmp c d a b) s = give (List.zipWith (fun p q => match laneFormat x.mode with
           | some f => (ones (f.compare o p q).1, (f.compare o p q).2)
           | none => (ones (i (signedOf 32 p) (signedOf 32 q)), 0)) (row a) (row b))
       compared .eq .eq (fun p q => decide (p = q)) ∧ compared .ne .ne (fun p q => decide (p ≠ q)) ∧
         compared .lt .lt (fun p q => decide (p < q)) ∧ compared .le .le fun p q => decide (p ≤ q)) ∧
      exec (.vperm d a b) s = give ((row b).map fun u => ((row a).getD (u % laneCount x.mode) 0, 0))) ∧
    (s.VectorReady [] none [] [d, a, b] (some d) x →
      exec (.vfma d a b) s = give (List.zipWith (fun (p : Nat × Nat) q =>
        op (fun f => f.fma x.rnd (f.decode p.1) (f.decode p.2) (f.decode q)) (signedOf 32 p.1 + signedOf 32 p.2 * signedOf 32 q))
          ((row d).zip (row a)) (row b)) ∧
      exec (.vsel d a b) s = give (List.zipWith (fun (p : Nat × Nat) q => (if p.1 = 0 then q else p.2, 0)) ((row d).zip (row a)) (row b))) ∧
    (s.VectorReady [] none [] [a] (some d) x →
      exec (.vabs d a) s = give ((row a).map fun p => op (fun f => (p % 2 ^ (f.width - 1), 0)) (signedOf 32 p).natAbs) ∧
      exec (.vneg d a) s = give ((row a).map fun p => op (fun f => (p ^^^ 2 ^ (f.width - 1), 0)) (-signedOf 32 p)) ∧
      (x.mode ≠ .i32 →
        exec (.vex2 d a) s = give ((row a).map fun p => op (fun f => f.ex2 x.rnd (f.decode p)) 0) ∧
        exec (.vrcp d a) s = give ((row a).map fun p => op (fun f => f.rcp x.rnd (f.decode p)) 0) ∧
        exec (.vrsq d a) s = give ((row a).map fun p => op (fun f => f.rsq x.rnd (f.decode p)) 0)))

/-- R337, R340 to R344: instructions with a register operand, and whole rows: scaling and shifts of every lane by a register,
broadcast, bitwise operations, copies and zeros of rows, one lane to and from a register, conversion lane by lane, and reduction by
the pairwise tree of R343. That vcvt sets the flags of an I32 source is the model's choice (notes/assumptions/102.md). -/
def Obligations.VectorRowAndRegisterResults : Prop :=
  ∀ (s : State) (x : Lease) (d a b : Nat),
    let row (r : Nat) := s.row x.cluster x.bank x.mode r
    let bytes (r : Nat) := s.rowBytes x.cluster x.bank r
    let w := 8 * laneBytes x.mode
    let give (rs : List Nat) (cs : List (Nat × Nat)) : Host.Outcome State Fault Refusal :=
      .next ((s.popAll rs).putLanes x d cs).retire
    let put (bs : List Byte) : Host.Outcome State Fault Refusal := .next (s.writeRow x.cluster x.bank d bs).retire
    (s.VectorReady [] none [] [a] (some d) x → exec (.vmov d a) s = put (bytes a)) ∧
    (s.VectorReady [] none [] [] (some d) x → exec (.vzero d) s = put (List.replicate 512 0)) ∧
    (s.VectorReady [] none [] [a, b] (some d) x →
      exec (.vand d a b) s = put (List.zipWith (· &&& ·) (bytes a) (bytes b)) ∧
      exec (.vor d a b) s = put (List.zipWith (· ||| ·) (bytes a) (bytes b)) ∧
      exec (.vxor d a b) s = put (List.zipWith (· ^^^ ·) (bytes a) (bytes b))) ∧
    (∀ c, s.VectorReady [b] none [c] [a] (some d) x →
      exec (.vshl d a b) s = give [b] ((row a).map fun p => (if w ≤ c.toNat then 0 else p * 2 ^ c.toNat % 2 ^ w, 0)) ∧
      exec (.vshr false d a b) s = give [b] ((row a).map fun p => (if w ≤ c.toNat then 0 else p / 2 ^ c.toNat, 0)) ∧
      exec (.vshr true d a b) s = give [b] ((row a).map fun p =>
        ((signedOf w p / 2 ^ (Min.min c.toNat (w - 1)) % 2 ^ w).toNat, 0)) ∧
      exec (.vscl d a b) s = give [b] ((row a).map fun p => match laneFormat x.mode with
        | some f => f.mul x.rnd (f.decode p) (fp32.decode c.toNat)
        | none => ((signedOf 32 p * signedOf 32 c.toNat % 2 ^ 32).toNat, 0))) ∧
    (∀ v, s.VectorReady [a] none [v] [] (some d) x →
      exec (.vbcast d a) s = give [a] (List.replicate (laneCount x.mode) (v.toNat % 2 ^ w, 0))) ∧
    (∀ k, s.VectorReady [b] (some d) [k] [a] none x → k.toNat < laneCount x.mode →
      exec (.vgetl d a b) s = .next (s.after [b] d
        (if x.mode = .i32 then BitVec.ofInt 64 (signedOf 32 ((row a).getD k.toNat 0)) else BitVec.ofNat 64 ((row a).getD k.toNat 0)))) ∧
    (∀ v k, s.VectorReady [a, b] none [v, k] [d] (some d) x → k.toNat < laneCount x.mode →
      exec (.vsetl d a b) s = give [a, b] (((row d).set k.toNat (v.toNat % 2 ^ w)).map fun c => (c, 0))) ∧
    (s.VectorReady [] none [] [a] (some d) x →
      (∀ dst, ∃ bs fl, exec (.vcvt dst d a) s = .next ((s.writeRow x.cluster x.bank d bs).modMe (·.flag fl)).retire ∧ bs.length = 512 ∧
        let e := codeBytes dst
        let cs := ((row a).take (Min.min (laneCount x.mode) (512 / e))).map (convertLane x.mode dst x.rnd)
        (∀ i < cs.length, (bs.drop (e * i)).take e = bytesLe e (cs.getD i (0, 0)).1) ∧ (∀ y ∈ bs.drop (e * cs.length), y = 0) ∧
        ∀ k, fl.testBit k = cs.any fun c => c.2.testBit k) ∧
      (x.mode = .i32 → exec (.vred .add d a) s =
        .next ((s.writeRow x.cluster x.bank d
          (bytesLe 4 (((row a).map (signedOf 32)).sum % 2 ^ 32).toNat ++ List.replicate 508 0)).modMe (·.flag 0)).retire) ∧
      (∀ op,
        let both (f : Ieee → Nat × Nat) (v : Int) : Nat × Nat := match laneFormat x.mode with
          | some fmt => f fmt
          | none => ((v % 2 ^ 32).toNat, 0)
        let combined (p q : Nat) : Nat × Nat := match op with
          | .add => both (fun f => f.add x.rnd (f.decode p) (f.decode q)) (signedOf 32 p + signedOf 32 q)
          | .min => both (fun f => f.minMax false p q) (Min.min (signedOf 32 p) (signedOf 32 q))
          | .max => both (fun f => f.minMax true p q) (Max.max (signedOf 32 p) (signedOf 32 q))
        let r := pairTree combined (fun i => (row a).getD i 0) (if laneCount x.mode = 128 then 7 else 8) 0
        exec (.vred op d a) s = .next ((s.writeRow x.cluster x.bank d
          (bytesLe (laneBytes x.mode) r.1 ++ List.replicate (512 - laneBytes x.mode) 0)).modMe (·.flag r.2)).retire)) ∧
    (s.VectorReady [] (some d) [] [] none x → exec (.vlanes d) s = .next (s.after [] d (BitVec.ofNat 64
      (x.bank * 2 ^ 12 + (match x.mode with | .fp32 => 0 | .fp16 => 1 | .bf16 => 2 | .i32 => 3) * 2 ^ 10 + laneCount x.mode))))

/-! ## Leases, rings, tile commands, copies and bindings (R297 to R328, R347 to R372) -/

/-- R308 and R350 to R353: a lease request waits in its cluster and completes with the bank's number once it is granted; unlease
frees the bank and ends the scale bindings unless commands are left; tmode sets the bank's mode and tzero issues a command. -/
def Obligations.LeaseInstructions : Prop :=
  (∀ s k d w, s.Ready [] (some d) [] → NoPorts [d] → s.me.lease = none → s.me.stopAsked = false → 1 ≤ w → w ≤ 8 →
    ∃ t, exec (.lease k d w) s = .next t ∧ t.me.status = .parked .lease ∧ t.mem = s.mem ∧
      (t.cluster (clusterOf s.myCore)).leaseQ = (s.cluster (clusterOf s.myCore)).leaseQ ++
        [(s.cur, match k with | .bank n => some n | .any => none, w)]) ∧
  (∀ s k d w b v, s.Ready [] (some d) [] → NoPorts [d] → s.me.lease = some (b, v) →
    (s.me.leaseNew = true → exec (.lease k d w) s =
      .next ((s.modMe fun x => { x with leaseNew := false }).after [] d (BitVec.ofNat 64 b))) ∧
    (s.me.leaseNew = false → exec (.lease k d w) s =
      .next (s.takeTrap s.cur { cause := 0x01, taddr := s.me.pc + word (s.ilen - 2), tinfo := 3 }))) ∧
  (∀ s b w, s.me.lease = some (b, w) → b < 4 → (∀ k ∈ (s.bank (clusterOf s.myCore) b).order, k.slot ≠ s.cur) →
    ∃ t, exec .unlease s = .next t ∧ t.me.lease = none ∧ t.me.scaleA = none ∧ t.me.scaleB = none ∧
      (t.bank (clusterOf s.myCore) b).holder = none ∧ t.mem = s.mem) ∧
  (∀ s b w, s.me.lease = some (b, w) → (∃ k ∈ (s.bank (clusterOf s.myCore) b).order, k.slot = s.cur) →
    exec .unlease s = .next (s.takeTrap s.cur { cause := 0x0C, taddr := 0, tinfo := 0 })) ∧
  (∀ s m b w, s.me.lease = some (b, w) → b < 4 → ∃ t, exec (.tmode m) s = .next t ∧ (t.bank (clusterOf s.myCore) b).mode = m ∧
    t.mem = s.mem ∧ ∀ n, t.me.x n = s.me.x n) ∧
  (∀ s b, s.MayIssue b → ∃ t, exec .tzero s = .next t ∧ s.Issued t b .zero) ∧
  (∀ s m, s.me.lease = none →
    let absent : Host.Outcome State Fault Refusal := .next (s.takeTrap s.cur { cause := 0x0F, taddr := 0, tinfo := 0 })
    exec .unlease s = absent ∧ exec (.tmode m) s = absent ∧ exec .tzero s = absent)

/-- R312, R354 to R358: ring.cfg gives a descriptor its launch, base, slot size and count; that it takes one without an owner whatever
its counts, unless a command of its last launch still names it, is the model's choice (notes/assumptions/96.md). ring.push claims the
next slot, which is cause 0x0B for a full ring; ring.room gives the free slots once there are as many as asked; scl.cfg binds and unbinds scales. -/
def Obligations.RingInstructions : Prop :=
  (∀ s n a b x y, s.Ready [a, b] none [x, y] → NoPorts [a, b] → n < s.me.ringBound → s.me.unit ≠ none →
    x.toNat % 64 = 0 → x.toNat < 2 ^ 18 → y.toNat < 2 ^ 13 → y.toNat % 8 ≠ 7 →
    x.toNat + (y.toNat / 8 + 1) * 64 * 2 ^ (y.toNat % 8) ≤ s.me.scratchBound → s.me.scratchBound ≤ 0x40000 →
    ((s.ring s.myCore n).owner = none ∨ (s.ring s.myCore n).owner = some s.me.launch) →
    ((s.ring s.myCore n).owner = none ∧ s.ringNamed s.myCore n = false ∨ (s.ring s.myCore n).head = (s.ring s.myCore n).tail ∧
      (s.ring s.myCore n).tail = (s.ring s.myCore n).next ∧ (s.ring s.myCore n).claims = []) →
    ∃ t, exec (.ringCfg n a b) s = .next t ∧ s.KeptBut [] t ∧ t.ring s.myCore n =
      { owner := some s.me.launch, base := x.toNat, size := (y.toNat / 8 + 1) * 64, count := 2 ^ (y.toNat % 8) }) ∧
  (∀ s n, n < s.me.ringBound → s.ownsRing n = true →
    ((s.ring s.myCore n).room ≠ 0 → ∃ t c, exec (.ringPush n) s = .next t ∧ s.KeptBut [] t ∧
      (t.ring s.myCore n).claims = (s.ring s.myCore n).claims ++ [c] ∧ c.1 = s.cur) ∧
    ((s.ring s.myCore n).room = 0 → exec (.ringPush n) s = .next (s.takeTrap s.cur { cause := 0x0B, taddr := 0, tinfo := n })) ∧
    (∀ d w, s.Ready [] (some d) [] → NoPorts [d] → w ≤ (s.ring s.myCore n).count → w ≤ (s.ring s.myCore n).room →
      exec (.ringRoom d n w) s = .next (s.after [] d (BitVec.ofNat 64 (s.ring s.myCore n).room)))) ∧
  (∀ s n, s.me.ringBound ≤ n → exec (.ringPush n) s = .next (s.takeTrap s.cur { cause := 0x04, taddr := 0, tinfo := 3 })) ∧
  (∀ s isB n a x b w, s.Ready [a] none [x] → NoPorts [a] → n < s.me.ringBound → s.me.lease = some (b, w) →
    (x = 0 ∨ x = 1 ∧ s.ownsRing n = true) → ∃ t, exec (.sclCfg isB n a) s = .next t ∧ t.mem = s.mem ∧
      (if isB then t.me.scaleB else t.me.scaleA) = (if x = 1 then some n else none) ∧
      (if isB then t.me.scaleA = s.me.scaleA else t.me.scaleB = s.me.scaleB) ∧ ∀ k, t.me.x k = s.me.x k)

/-- R313, R347, R359 to R361: tmma and tdist whose tests hold reserve the next slot of each operand ring, and in the scaled form of
the two scale rings after them, each ring's next advancing once for every naming, and issue their command with these slots;
tcommit closes the slot's batch and gives its number; twaitb goes on once at most n closed batches are left. -/
def Obligations.MatrixAndBatchInstructions : Prop :=
  (∀ s f d ra rb x b, s.Ready [d] none [x] → NoPorts [d] → s.MayIssue b → ra < s.me.ringBound → rb < s.me.ringBound →
    s.ownsRing ra = true → s.ownsRing rb = true → x.toNat ≤ 65535 →
    64 * operandStride f x.toNat ≤ (s.ring s.myCore ra).size → 128 * operandStride f x.toNat ≤ (s.ring s.myCore rb).size →
    modeAccepts f false (s.bank (clusterOf s.myCore) b).mode = true →
    let issues (i : Instr) (k : Option Dist) : Prop := ∃ t, exec i s = .next t ∧
      s.Issued t b (.mma f false k x.toNat ra (s.nextSlot [] ra) rb (s.nextSlot [ra] rb) none) ∧
      ∀ r, (t.ring s.myCore r).next = s.nextSlot [ra, rb] r
    issues (.tmma f false d ra rb) none ∧ ∀ k, issues (.tdist f false k d ra rb) (some k)) ∧
  (∀ s f d ra rb x b p q, s.Ready [d] none [x] → NoPorts [d] → s.MayIssue b → ra < s.me.ringBound → rb < s.me.ringBound →
    s.ownsRing ra = true → s.ownsRing rb = true → x.toNat ≤ 65535 → s.me.scaleA = some p → s.me.scaleB = some q →
    64 * operandStride f x.toNat ≤ (s.ring s.myCore ra).size → 128 * operandStride f x.toNat ≤ (s.ring s.myCore rb).size →
    modeAccepts f true (s.bank (clusterOf s.myCore) b).mode = true →
    let issues (i : Instr) (k : Option Dist) : Prop := ∃ t, exec i s = .next t ∧
      s.Issued t b (.mma f true k x.toNat ra (s.nextSlot [] ra) rb (s.nextSlot [ra] rb)
        (some (p, s.nextSlot [ra, rb] p, q, s.nextSlot [ra, rb, p] q))) ∧
      ∀ r, (t.ring s.myCore r).next = s.nextSlot [ra, rb, p, q] r
    issues (.tmma f true d ra rb) none ∧ ∀ k, issues (.tdist f true k d ra rb) (some k)) ∧
  (∀ s d, s.Ready [] (some d) [] → NoPorts [d] → s.me.tb < 65535 →
    ∃ t, exec (.tcommit d) s = .next t ∧ t.mem = s.mem ∧ t.me.batches = s.me.batches ++ [(s.me.batch, s.me.openCmds)] ∧
      t.me.openCmds = 0 ∧ t.me.batch = s.me.batch + 1 ∧ t.me.tb = s.me.tb + 1 ∧
      (1 ≤ d → d ≤ 50 → t.me.x d = BitVec.ofNat 64 s.me.batch)) ∧
  (∀ s n, s.me.reported false (some n) = none →
    (s.me.tb ≤ n → exec (.twaitb n) s = .next s.retire) ∧
    (n < s.me.tb → s.me.stopAsked = false →
      exec (.twaitb n) s = .next (s.modMe fun x => { x with status := .parked (.batches n) })))

/-- R322, R323, R362 to R367: tload, tstore and qst whose tests and checks hold issue their command; qsax declares the bank's
quantisation; rsav stores the residue record and waits until its bytes are accepted, and rlod reads one at its points of acceptance
and takes it with the last reply where it suits the declaration. That both wait for the earlier commands of the bank before they
move the record, and how rsav then completes, is the model's choice (notes/assumptions/48.md), as is that the record leaves for a
scratchpad as one request (notes/assumptions/91.md). -/
def Obligations.TileMemoryInstructions : Prop :=
  (∀ s tr a b x y k cs es, s.Ready [a, b] none [x, y] → NoPorts [a, b] → s.MayIssue k → y.toNat / 2 ^ 26 % 2 ^ 6 = 0 →
    regionFits y = true →
    s.checkRanges (s.accessor s.cur) .load (runs x (tileStride y)
      (if tr then (regionOf y false).nl else (regionOf y false).nr)
      ((if tr then (regionOf y false).nr else (regionOf y false).nl) * laneBytes (s.bank (clusterOf s.myCore) k).mode)) = .ok (cs, es) →
    ∃ t, exec (.tload tr a b) s = .next t ∧ s.Issued t k (.load tr x y)) ∧
  (∀ s dst a b x y k cs es, s.Ready [a, b] none [x, y] → NoPorts [a, b] → s.MayIssue k → y.toNat / 2 ^ 26 % 2 ^ 6 = 0 →
    regionFits y = true →
    s.checkRanges (s.accessor s.cur) .store (runs x (tileStride y) (regionOf y false).nr ((regionOf y false).nl * codeBytes dst)) =
      .ok (cs, es) →
    ∃ t, exec (.tstore dst a b) s = .next t ∧ s.Issued t k (.store dst x y)) ∧
  (∀ s f col blk a b x y k w, s.Ready [a, b] none [x, y] → NoPorts [a, b] → s.me.lease = some (k, w) → k < 4 → x.toNat < 2 ^ 16 →
    ∃ t, exec (.qsax f col blk a b) s = .next t ∧ t.mem = s.mem ∧ (t.bank (clusterOf s.myCore) k).decl =
      some { col := col, fmt := f, blk := blk, tag := x.toNat, stride := y }) ∧
  (∀ s d a b x y z k q cs es, s.Ready [a, b, d] none [x, y, z] → NoPorts [a, b, d] → s.MayIssue k →
    (s.bank (clusterOf s.myCore) k).decl = some q → quantFits q (s.bank (clusterOf s.myCore) k).mode y = true →
    residueTest (s.bank (clusterOf s.myCore) k).issue q y = .ok () →
    s.checkRanges (s.accessor s.cur) .store (quantRanges q x y z) = .ok (cs, es) →
    ∃ t, exec (.qst d a b) s = .next t ∧ s.Issued t k (.quant x y z q)) ∧
  (∀ s d a b x y z k w, s.Ready [a, b, d] none [x, y, z] → NoPorts [a, b, d] → s.me.lease = some (k, w) →
    (s.bank (clusterOf s.myCore) k).decl = none → exec (.qst d a b) s =
      .next (s.takeTrap s.cur { cause := 0x01, taddr := s.me.pc + word (s.ilen - 2), tinfo := 3 })) ∧
  (∀ s a x k w o, s.Ready [a] none [x] → NoPorts [a] → s.me.lease = some (k, w) → s.Unhindered → s.myCore < 768 → x.toNat = 0xE0 * 2 ^ 56 + o → o % 64 = 0 → o + 576 ≤ s.me.scratchBound → s.me.scratchBound ≤ 262144 →
    s.bankBusy (clusterOf s.myCore) k = false →
    ∃ t, exec (.rsav a) s = .next t ∧
      s.SendsRecord t s.myCore o (residueBytes (s.bank (clusterOf s.myCore) k).residue)) ∧
  (∀ (s : State) g p id, (s.slot g).status = .parked (.accepted id) → (s.slot g).pending = some p → p.finish = .none → p.parts = [] →
    p.room = none → (s.slot g).late = none → (∀ o ∈ (s.slot g).stores, o.id ≠ id) → (s.slot g).stopAsked = false →
    ((s.wakeSlot g).slot g).status = .running ∧ ((s.wakeSlot g).slot g).pending = none ∧
      ((s.wakeSlot g).slot g).pc = ((s.slot g).advance p.len).pc) ∧
  (∀ s a x k w cs es, s.Ready [a] none [x] → NoPorts [a] → s.me.lease = some (k, w) → s.bankBusy (clusterOf s.myCore) k = true →
    let waits (i : Instr) (f : Finish) : Prop := ∃ t p, exec i s = .next t ∧ t.me.status = .parked (.tilesDone k) ∧
      t.me.pending = some p ∧ p.finish = f ∧ p.len = s.ilen ∧ t.me.pc = s.me.pc ∧ (∀ n, t.me.x n = s.me.x n) ∧ t.mem = s.mem
    (s.check (s.accessor s.cur) x 576 64 .store = .ok (cs, es) → waits (.rsav a) (.rsav x)) ∧
    (s.check (s.accessor s.cur) x 576 64 .load = .ok (cs, es) → waits (.rlod a) (.rlod x))) ∧
  (∀ s a x k w cs es, s.Ready [a] none [x] → NoPorts [a] → s.me.lease = some (k, w) →
    s.check (s.accessor s.cur) x 576 64 .load = .ok (cs, es) → s.bankBusy (clusterOf s.myCore) k = false →
    ∃ t p, exec (.rlod a) s = .next t ∧ t.me.status = .parked .own ∧ t.me.pending = some p ∧ p.left = 0 ∧ p.room = none ∧
      p.finish = .record ∧ p.parts.map (fun q => (q.pa, q.n)) = (piecesOf cs).map (fun c => (c.loc.pa, c.n)) ∧
      ∀ n, t.me.x n = s.me.x n) ∧
  (∀ s i r p k w z, s.LastReply i r p → s.Calm (coreOf r.slot) → p.finish = .record → (s.slot r.slot).lease = some (k, w) → k < 4 →
    residueOf (p.bytesWith r) = some z → (s.bank (clusterOf (coreOf r.slot)) k).takes z = true →
    ∃ t, exec (.loadReply i) s = .next t ∧ (t.bank (clusterOf (coreOf r.slot)) k).residue = z ∧
      (t.bank (clusterOf (coreOf r.slot)) k).issue = z ∧ (t.slot r.slot).pending = none ∧ t.mem = s.mem)

/-- R297, R299, R300, R368 and R369: copies that pass their checks at issue are put in flight, counted in CP and numbered; a copy of
no bytes does nothing; cstat gives the copy counters and the oldest copy with an error. -/
def Obligations.CopyInstructions : Prop :=
  (∀ (s : State) d a b x y n, s.Ready [d, a, b] none [x, y, n] → NoPorts [d, a, b] → n ≠ 0 → n.toNat ≤ 2 ^ 32 →
    s.copyChecks (extent x 0 1 n.toNat) (extent y 0 1 n.toNat) = .ok () → s.me.cp < 65535 →
    (s.core s.myCore).copies.length < 1024 →
    ∃ (t : State) (c : Copy), exec (.copy false d a b) s = .next t ∧ (t.core s.myCore).copies = (s.core s.myCore).copies ++ [c] ∧ c.dst = x ∧ c.src = y ∧
      c.rows = 1 ∧ c.rowBytes = n.toNat ∧ c.mask = none ∧ c.slot = s.cur ∧ c.seq = s.me.copySeq ∧ t.me.cp = s.me.cp + 1 ∧
      t.me.copySeq = s.me.copySeq + 1 ∧ t.mem = s.mem ∧ ∀ k, t.me.x k = s.me.x k) ∧
  (∀ (s : State) d a b x y, s.Ready [d, a, b] none [x, y, 0] → NoPorts [d, a, b] → exec (.copy false d a b) s = .next s.retire) ∧
  (∀ (s : State) d a b x y p q, s.Ready [d, a, b, b + 1] none [x, y, p, q] → NoPorts [d, a, b, b + 1] → 1 ≤ b → b ≤ 46 →
    p.toNat / 2 ^ 32 ≠ 0 → p.toNat % 2 ^ 32 ≠ 0 →
    s.copyChecks (extent x (signedOf 32 (q.toNat / 2 ^ 32)) (p.toNat / 2 ^ 32) (p.toNat % 2 ^ 32))
      (extent y (signedOf 32 (q.toNat % 2 ^ 32)) (p.toNat / 2 ^ 32) (p.toNat % 2 ^ 32)) = .ok () →
    s.me.cp < 65535 → (s.core s.myCore).copies.length < 1024 →
    ∃ (t : State) (c : Copy), exec (.copy true d a b) s = .next t ∧ (t.core s.myCore).copies = (s.core s.myCore).copies ++ [c] ∧ c.dst = x ∧ c.src = y ∧
      c.rows = p.toNat / 2 ^ 32 ∧ c.rowBytes = p.toNat % 2 ^ 32 ∧ c.dstride = signedOf 32 (q.toNat / 2 ^ 32) ∧
      c.sstride = signedOf 32 (q.toNat % 2 ^ 32) ∧ t.mem = s.mem) ∧
  (∀ (s : State) d a b x y n, s.Ready [d, a, b] none [x, y, n] → NoPorts [d, a, b] → n.toNat / 2 ^ 56 = 0 → n.toNat / 2 ^ 48 % 256 ≠ 0 →
    n.toNat / 2 ^ 32 % 2 ^ 16 = 0 → 1 ≤ n.toNat % 2 ^ 32 → n.toNat % 2 ^ 32 ≤ 262144 → x.toNat / 2 ^ 56 = 0xE0 →
    s.copyChecks (x, n.toNat % 2 ^ 32) (y, n.toNat % 2 ^ 32) = .ok () → s.me.cp < 65535 → (s.core s.myCore).copies.length < 1024 →
    ∃ (t : State) (c : Copy), exec (.copyMc d a b) s = .next t ∧ (t.core s.myCore).copies = (s.core s.myCore).copies ++ [c] ∧ c.dst = x ∧ c.src = y ∧
      c.rowBytes = n.toNat % 2 ^ 32 ∧ c.mask = some (n.toNat / 2 ^ 48 % 256) ∧ t.mem = s.mem) ∧
  (∀ (s : State) d, s.Ready [] (some d) [] → NoPorts [d] →
    let e := ({ s.me with pend := s.me.pend.filter (·.copy) } : Slot).reported true none
    exec (.cstat d) s = .next (s.after [] d (BitVec.ofNat 64
      (s.me.copySeq % 256 * 2 ^ 40 + (match e with | some x => x.seq % 256 * 2 ^ 32 + 2 ^ 28 + (if x.cause = 0x11 then 2 ^ 27 else 0) | none => 0) +
        (s.core s.myCore).copies.length * 2 ^ 16 + s.me.cp))))

/-- R303, R306, R328 and R370 to R372: gbind binds a free stream port to a generator read from its descriptor, or frees the port;
gref and topk lend their two ports to the reference accelerator and the top-k unit where these are free. -/
def Obligations.BindingInstructions : Prop :=
  (∀ s p, (s.me.port p = .unbound ∨ ∃ n, s.me.port p = .gen n) → ∃ t, exec (.gbind p 0) s = .next t ∧ t.mem = s.mem ∧
    (56 ≤ p → p ≤ 63 → t.me.port p = .unbound) ∧ ∀ k, t.me.x k = s.me.x k) ∧
  (∀ s p a x o g, s.Ready [a] none [x] → NoPorts [a] → a ≠ 0 → 56 ≤ p → p ≤ 63 → s.me.port p = .unbound → s.myCore < 768 →
    x.toNat = 0xE0 * 2 ^ 56 + o → o % 64 = 0 → o + 64 ≤ s.me.scratchBound → s.me.scratchBound ≤ 262144 →
    generatorOf s.cur p s.nextId s.me.uid (s.accessor s.cur) (s.mem.read (scratchPa s.myCore o) 64) = some g →
    (∃ n < 16, Tab.get? (s.core s.myCore).gens n = none) → (∀ m ∈ s.net, m.core ≠ s.myCore) → s.lost = [] →
    ∃ t n, exec (.gbind p a) s = .next t ∧ t.me.port p = .gen n ∧ Tab.get? (t.core s.myCore).gens n = some g ∧ t.mem = s.mem ∧
      ∀ k, t.me.x k = s.me.x k) ∧
  (∀ s w e qd qa b x u out n, s.Ready [b] none [x] → NoPorts [b] → s.me.unit = some u → s.me.port qd = .push out n →
    (s.me.port qa).mayLend true = true → (s.core s.myCore).ref = none →
    ∃ t r, exec (.gref w e qd qa b) s = .next t ∧ (t.core s.myCore).ref = some r ∧ r.base = x ∧ r.idx64 = w ∧ r.el8 = e ∧
      r.out = out ∧ r.slot = s.cur ∧ t.mem = s.mem) ∧
  (∀ s qd qa b x, s.Ready [b] none [x] → NoPorts [b] → s.me.unit ≠ none → x.toNat < 2 ^ 13 → x.toNat / 2 ^ 11 ≠ 0 →
    1 ≤ x.toNat % 512 → x.toNat % 512 ≤ 256 → (s.cluster (clusterOf s.myCore)).topk = none →
    (s.me.port qd).mayLend false = true → (s.me.port qa).mayLend true = true →
    ∃ t k, exec (.topk qd qa b) s = .next t ∧ (t.cluster (clusterOf s.myCore)).topk = some k ∧ k.k = x.toNat % 512 ∧
      k.level = x.toNat / 2 ^ 11 ∧ k.largest = x.getLsbD 10 ∧ k.ikey = x.getLsbD 9 ∧ k.slot = s.cur ∧ t.mem = s.mem)

/-! ## Special registers, traps, privilege and the ridge's instructions (R19 to R26, R390, R395, R411 to R426) -/

/-- R19, R20 and R425: csrr gives the value of the register that the number names, in the slot's own copy for the registers of a
slot and in any slot for the numbers below 0x100; the others only a ridge slot may read. -/
def Obligations.CsrReadsGiveTheRegister : Prop :=
  (∀ s d c v, s.Ready [] (some d) [] → c ≤ 0xFFF → (c < 0x100 ∨ 768 ≤ s.myCore) → s.readCsr c = some v →
    exec (.csrr d c) s = .next (s.after [] d v)) ∧
  (∀ s : State, s.readCsr 0x001 = some s.me.frm ∧ s.readCsr 0x002 = some s.me.fflags ∧ s.readCsr 0x003 = some s.me.tfrm ∧
    s.readCsr 0x010 = some s.me.asid ∧ s.readCsr 0x011 = some (word (s.cur / 16)) ∧ s.readCsr 0x012 = some (word (s.cur % 16)) ∧
    s.readCsr 0x020 = some s.me.tcause ∧ s.readCsr 0x021 = some s.me.tip ∧ s.readCsr 0x022 = some s.me.taddr ∧
    s.readCsr 0x023 = some s.me.thand ∧ s.readCsr 0x024 = some s.me.tinfo ∧ s.readCsr 0x030 = some 0x356 ∧
    s.readCsr 0x031 = some 0x10818301 ∧ s.readCsr 0x040 = some (word s.stepctr) ∧ s.readCsr 0x050 = some (word s.me.ld) ∧
    s.readCsr 0x051 = some (word s.me.st) ∧ s.readCsr 0x052 = some (word s.me.cp) ∧ s.readCsr 0x053 = some (word s.me.tb) ∧
    s.readCsr 0x100 = some s.me.rasid ∧ s.readCsr 0x103 = some s.me.agsel ∧ s.readCsr 0x110 = some s.me.qsel)

/-- R5, R22, R412, R413 and R425: csrw, csrs and csrc give a writable register what they make of its value and X(d): a register of
the slot at once; a device-wide one when every die has applied it, until when the slot waits, which with the selectors that are not
device-wide is the model's choice (notes/assumptions/50.md), as are what csrs and csrc make of a register whose ones clear
(notes/assumptions/51.md) and the clamping of pwrlim and the regulators (notes/assumptions/52.md). Every other register of the slot,
every other slot, and every register that is not selected otherwise by the write stay; fields that do not exist keep reading zero;
memory stays but for entries that rqhead lets into the die's queue. From every state in which the reserved bits of frm, tfrm and
fflags are zero in every slot and saved thread, every step leaves them zero, and so are they at reset. -/
def Obligations.CsrWritesChangeTheRegister : Prop :=
  (∀ s d c v x, s.Ready [d] none [x] → c ≤ 0xFFF → (c < 0x100 ∨ 768 ≤ s.myCore ∧ c ∈ [0x100, 0x103, 0x110]) → s.readCsr c = some v →
    csrWritable c = true →
    exec (.csrw d c) s = .next ((s.popAll [d]).writeCsr c x).retire ∧
    exec (.csrs d c) s = .next ((s.popAll [d]).writeCsr c (v ||| x)).retire ∧
    exec (.csrc d c) s = .next ((s.popAll [d]).writeCsr c (v &&& ~~~x)).retire) ∧
  (∀ s d c x, s.Ready [d] none [x] → 768 ≤ s.myCore → 0x100 ≤ c → c ≤ 0xFFF → c ∉ [0x100, 0x103, 0x110] → s.readCsr c ≠ none →
    csrWritable c = true →
    let waits (i : Instr) (op : Nat) : Prop := ∃ t : State, exec i s = .next t ∧ s.Awaits t (.csr op c x) 1 ∧
      t.csrWrites = s.csrWrites ++ [{ slot := s.cur, id := s.nextId, issued := s.cycle }]
    waits (.csrw d c) 0 ∧ waits (.csrs d c) 1 ∧ waits (.csrc d c) 2) ∧
  (∀ (s : State) (g : Nat) (p : Pending) (op c : Nat) (x : Word), s.LastOf g p → p.finish = .csr op c x → 0x100 ≤ c →
    c ∉ [0x100, 0x103, 0x110] →
    let t := s.oneLess g
    let u : State := { s with cur := g }
    (t.slot g).pending = none ∧ (t.slot g).status = .parked .eligible ∧ (t.slot g).pc = ((s.slot g).advance p.len).pc ∧
    ∀ v, u.readCsr c = some v → { t with cur := g }.readCsr c =
      (u.writeCsr c (if op = 0 then x else if op = 1 then v ||| x else v &&& ~~~x)).readCsr c) ∧
  (∀ (s : State) (v : Word),
    (s.writeCsr 0x001 v).me = { s.me with frm := v &&& 3 } ∧ (s.writeCsr 0x002 v).me = { s.me with fflags := v &&& 63 } ∧
    (s.writeCsr 0x003 v).me = { s.me with tfrm := v &&& 3 } ∧ (s.writeCsr 0x020 v).me = { s.me with tcause := v } ∧
    (s.writeCsr 0x021 v).me = { s.me with tip := v } ∧ (s.writeCsr 0x022 v).me = { s.me with taddr := v } ∧
    (s.writeCsr 0x023 v).me = { s.me with thand := v } ∧ (s.writeCsr 0x024 v).me = { s.me with tinfo := v } ∧
    (s.writeCsr 0x100 v).me = { s.me with rasid := v &&& 0xFFF } ∧
    (s.writeCsr 0x103 v).me = { s.me with agsel := v &&& 0xFF00F } ∧ (s.writeCsr 0x110 v).me = { s.me with qsel := v &&& 0xFF }) ∧
  (∀ (s : State) (v : Word),
    let reads (c : Nat) (w : Word) : Prop := (s.writeCsr c v).readCsr c = some w
    reads 0x101 (v &&& 0x80003FFFFFFFE000) ∧ (s.me.agsel.toNat % 16 ≤ 11 → reads 0x104 v) ∧
    (∀ i < 8, reads (0x108 + i) (v &&& 0xFFFFFFFF3FFFFFFF)) ∧ (s.me.qsel.toNat % 256 ≤ 191 → reads 0x111 (v &&& 0x87FFF000FFFFFFFF)) ∧
    reads 0x118 (v &&& 0x3FFFFFFFF00F) ∧ reads 0x119 (v &&& 0xFFFFFFFF) ∧ (∀ i < 12, reads (0x120 + i) (v &&& 0xFFFFFFFF)) ∧
    reads 0x200 (BitVec.ofNat 64 (Nat.max 1200 (Nat.min 2400 (v.toNat % 2 ^ 16)))) ∧
    reads 0x204 (BitVec.ofNat 64 s.power.errcor &&& ~~~v) ∧ reads 0x205 (BitVec.ofNat 64 s.power.errunc &&& ~~~v) ∧
    (∀ i < 12, reads (0x210 + i) (BitVec.ofNat 64 (v.toNat / 2 ^ 63 * 2 ^ 63 + Nat.max 16 (v.toNat / 2 ^ 32 % 2 ^ 16) * 2 ^ 32 +
      Nat.max 1 (v.toNat % 2 ^ 20))))) ∧
  (∀ (s : State) (v : Word) (c : Nat), csrWritable c = true →
    let t := s.writeCsr c v
    t.cur = s.cur ∧ (∀ g, g ≠ s.cur → t.slot g = s.slot g) ∧ t.clusters = s.clusters ∧ t.ports = s.ports ∧
    (c ∉ [0x001, 0x002, 0x003, 0x020, 0x021, 0x022, 0x023, 0x024, 0x100, 0x103, 0x110] → t.me = s.me) ∧
    (c ≠ 0x119 ∨ (s.die (dieOf s.cur)).inWaiting = [] → t.mem = s.mem) ∧
    (c ∉ [0x100, 0x103, 0x110, 0x119] → ∀ k, k ≠ c → t.readCsr k = s.readCsr k)) ∧
  (∀ s t : State, s.ReservedClear → step s = .next t → t.ReservedClear) ∧ State.reset.ReservedClear

/-- R5, R19, R64, R67 and R412: a number that is not assigned, or a write to a register that may not be written, is cause 0x01,
subcode 4; a number from 0x100 on is cause 0x03 in a compute slot. R64 and R411: the ridge's instructions are cause 0x03 in
every compute slot, before any register contents are looked at. -/
def Obligations.CsrAndPrivilegeFaults : Prop :=
  ((∀ s d c, ¬(51 ≤ d ∧ d ≤ 55) → 0x100 ≤ c → c ≤ 0xFFF → s.myCore < 768 →
     let privilege : Host.Outcome State Fault Refusal := .next (s.takeTrap s.cur { cause := 0x03, taddr := 0, tinfo := 0 })
     exec (.csrr d c) s = privilege ∧ exec (.csrw d c) s = privilege ∧ exec (.csrs d c) s = privilege ∧
     exec (.csrc d c) s = privilege) ∧
   (∀ s d c, ¬(51 ≤ d ∧ d ≤ 55) → c ≤ 0xFFF → (c < 0x100 ∨ 768 ≤ s.myCore) →
     let illegal : Host.Outcome State Fault Refusal :=
       .next (s.takeTrap s.cur { cause := 0x01, taddr := s.me.pc + word (s.ilen - 2), tinfo := 4 })
     (s.readCsr c = none → exec (.csrr d c) s = illegal) ∧
     (s.readCsr c = none ∨ csrWritable c = false →
       exec (.csrw d c) s = illegal ∧ exec (.csrs d c) s = illegal ∧ exec (.csrc d c) s = illegal)) ∧
   (∀ (s : State) (c : Nat), c < 0x100 → c ∉ [0x001, 0x002, 0x003, 0x010, 0x011, 0x012, 0x020, 0x021, 0x022, 0x023, 0x024, 0x030, 0x031,
     0x040, 0x050, 0x051, 0x052, 0x053] → s.readCsr c = none)) ∧
  (∀ s a b, s.myCore < 768 → ¬(51 ≤ a ∧ a ≤ 55) → ¬(51 ≤ b ∧ b ≤ 55) →
     let privilege : Host.Outcome State Fault Refusal := .next (s.takeTrap s.cur { cause := 0x03, taddr := 0, tinfo := 0 })
     exec (.tlbGen a) s = privilege ∧ exec (.tlbInv a b) s = privilege ∧ exec (.keySet a b) s = privilege ∧
     (∀ op, exec (.slotCtl op a) s = privilege) ∧ exec (.slotSv a b) s = privilege ∧ exec (.slotLd a b) s = privilege ∧
     exec (.promAll a) s = privilege ∧ exec (.wake a) s = privilege ∧ exec .tret s = privilege)

/-- R395 and R396: taking a trap with a handler (thand not 0, even, tcause bit 63 clear) writes tcause, tip, taddr and tinfo, clears
the repeat buffer and continues at thand; registers, memory, flags and every other slot stay. R395: a trap without a handler, or
with tcause bit 63 set, stops the slot with tcause (bit 63 clear), tip, taddr and tinfo written, and its launch is cancelled or
complete, as a failure. R390 and R391: an instruction that meets a page fault has no effect: its slot is dropped with all its
registers and its PC, and a fault report with the missing pages leaves for the ridge. -/
def Obligations.TrapsAndPageFaults : Prop :=
  (∀ (s : State) (g : Nat) (t : Trap), (s.slot g).thand ≠ 0 → (s.slot g).thand.getLsbD 0 = false →
     (s.slot g).tcause.getLsbD 63 = false → t.cause < 256 →
     let x := s.slot g
     let y := (s.takeTrap g t).slot g
     y.tcause = BitVec.ofNat 64 (2 ^ 63 + (if t.async then 2 ^ 62 else 0) + t.cause) ∧ y.tip = x.pc ∧ y.taddr = t.taddr ∧
     y.tinfo = BitVec.ofNat 64 t.tinfo ∧ y.rep = none ∧ y.pc = x.thand ∧ y.thand = x.thand ∧ y.regs = x.regs ∧
     y.fflags = x.fflags ∧ y.frm = x.frm ∧ y.ports = x.ports ∧ (s.takeTrap g t).mem = s.mem ∧
     ∀ h, h ≠ g → (s.takeTrap g t).slot h = s.slot h) ∧
  (∀ (s : State) (g : Nat) (t : Trap) (u : UnitInfo),
     ((s.slot g).thand = 0 ∨ (s.slot g).thand.getLsbD 0 = true ∨ (s.slot g).tcause.getLsbD 63 = true) →
     (s.slot g).unit = some u → t.cause < 256 →
     let y := (s.takeTrap g t).slot g
     y.tcause = BitVec.ofNat 64 ((if t.async then 2 ^ 62 else 0) + t.cause) ∧ y.tip = (s.slot g).pc ∧ y.taddr = t.taddr ∧
     y.tinfo = BitVec.ofNat 64 t.tinfo ∧ y.rep = none ∧ y.status = .stopped ∧ y.regs = (s.slot g).regs ∧
     ((s.launch u.launch).status = 0 → ((s.takeTrap g t).launch u.launch).failed = true)) ∧
  (∀ (s : State) (g : Nat) (pieces : List Nat) (fetch write : Bool), (s.slot g).stopAsked = false →
     let t := s.drop g pieces fetch write
     (t.slot g).status = .dropped ∧ (t.slot g).pc = (s.slot g).pc ∧ (t.slot g).regs = (s.slot g).regs ∧
     (t.slot g).rep = (s.slot g).rep ∧ (t.slot g).tcause = (s.slot g).tcause ∧ (∀ h, h ≠ g → t.slot h = s.slot h) ∧
     ∃ r : Report, t.reports = s.reports ++ [r] ∧ r.slot = g ∧ r.pieces = pieces ∧ r.pc = (s.slot g).pc ∧ r.fetch = fetch ∧ r.write = write ∧
       (t.slot g).dropSeq = r.seq)

/-- R414 and R415: trap, of 4 or 6 bytes, raises cause 0x12 with its code mod 256 in tinfo; tret, in a ridge slot, continues at tip
and clears tcause bit 63, and is cause 0x03 in a compute slot. -/
def Obligations.SoftwareTrapAndReturn : Prop :=
  (∀ s code, exec (.trap code) s = .next (s.takeTrap s.cur { cause := 0x12, taddr := 0, tinfo := code % 256 })) ∧
  (∀ code, code < 65536 → (encode (.trap code)).length = if code < 256 then 2 else 3) ∧
  (∀ s code, (s.me.thand ≠ 0 ∧ s.me.thand.getLsbD 0 = false ∧ s.me.tcause.getLsbD 63 = false) →
    ∃ t, exec (.trap code) s = .next t ∧ t.me.pc = s.me.thand ∧ t.me.tip = s.me.pc ∧ t.me.taddr = 0 ∧
      t.me.tinfo = BitVec.ofNat 64 (code % 256) ∧ t.me.tcause = BitVec.ofNat 64 (2 ^ 63 + 0x12)) ∧
  (∀ s, 768 ≤ s.myCore → s.me.tip.getLsbD 0 = false →
    ∃ t, exec .tret s = .next t ∧ t.me.pc = s.me.tip ∧ t.me.tcause.getLsbD 63 = false ∧
      (∀ k < 63, t.me.tcause.getLsbD k = s.me.tcause.getLsbD k) ∧ t.me.tip = s.me.tip ∧ t.me.thand = s.me.thand ∧
      (∀ n, t.me.x n = s.me.x n) ∧ t.mem = s.mem) ∧
  (∀ s, 768 ≤ s.myCore → s.me.tip.getLsbD 0 = true →
    exec .tret s = .next (s.takeTrap s.cur { cause := 0x05, taddr := s.me.tip, tinfo := 0 })) ∧
  (∀ s, s.myCore < 768 → exec .tret s = .next (s.takeTrap s.cur { cause := 0x03, taddr := 0, tinfo := 0 }))

/-- R416 to R424: the ridge's instructions have their effect in a ridge slot. tlb.gen raises the generation and tlb.inv removes the
TLB entries of its range; both wait until the accesses translated before have ended. key.set loads or unloads a key slot. slot.ctl
stops a running slot or lets a stopped one run, and completes at a target in the asked state. slot.sv stores the record of a stopped
slot and waits until it is accepted, slot.ld fills an empty one. prom.all sends one request to each core that it names and waits for
the replies. post counts one store, reads its 48 bytes, and these then stand in an entry of the die's inbound queue; wake sends its
message. The model's choices in these clauses: that key.set and slot.ld complete in the step of their issue where their core holds
the record (notes/assumptions/8.md), that tlb.inv removes whole TLB entries (notes/assumptions/39.md), the range tests of key.set,
slot.sv and slot.ld (notes/assumptions/53.md), the unit, the bank and the releases of a loaded slot (notes/assumptions/54.md), which
stopped slots slot.ctl.run lets run (notes/assumptions/109.md), and the place of a post's entry from its issue on
(notes/assumptions/55.md). -/
def Obligations.RidgeInstructionsComplete : Prop :=
  ((∀ (s : State) a x, 768 ≤ s.myCore → s.Ready [a] none [x] → NoPorts [a] → x.toNat < 4096 → s.me.stopAsked = false →
     ∃ (t : State) (z : TlbOp), exec (.tlbGen a) s = .next t ∧ s.Awaits t .none 1 ∧ (t.asidOf x.toNat).gen = ((s.asidOf x.toNat).gen + 1) % 65536 ∧
       t.tlbOps = s.tlbOps ++ [z] ∧ z.slot = s.cur ∧ z.asid = x.toNat ∧ z.bound = s.nextId ∧ z.range = none) ∧
   (∀ (s : State) a b x n, 768 ≤ s.myCore → s.Ready [a, b] none [x, n] → NoPorts [a, b] →
     (n = 0 → exec (.tlbInv a b) s = .next s.retire) ∧
     (n ≠ 0 → 2 ^ 49 < x.toNat + n.toNat → exec (.tlbInv a b) s =
       .next (s.takeTrap s.cur { cause := 0x01, taddr := s.me.pc + word (s.ilen - 2), tinfo := 3 })) ∧
     (n ≠ 0 → x.toNat + n.toNat ≤ 2 ^ 49 → s.me.stopAsked = false →
       ∃ (t : State) (z : TlbOp), exec (.tlbInv a b) s = .next t ∧ s.Awaits t .none 1 ∧ t.tlbOps = s.tlbOps ++ [z] ∧ z.slot = s.cur ∧
         z.asid = s.me.rasid.toNat % 4096 ∧ z.bound = s.nextId ∧ z.range = some (x.toNat, n.toNat) ∧
         ∀ c, ∀ e ∈ (t.core c).tlb, e ∈ (s.core c).tlb ∧
           ¬(e.asid = s.me.rasid.toNat % 4096 ∧ e.va < x.toNat + n.toNat ∧ x.toNat < e.va + e.size))) ∧
   (∀ (s : State) a b k x bs t, 768 ≤ s.myCore → s.Ready [a, b] none [k, x] → NoPorts [a, b] → k.toNat < 1024 → s.ReadsNow s x 64 64 bs t →
     exec (.keySet a b) s = .next (t.setKey k.toNat bs).retire) ∧
   (∀ (s : State) i r p k, s.LastReply i r p → p.finish = .key k → ∃ t : State, exec (.loadReply i) s = .next t ∧ (t.slot r.slot).pending = none ∧
     Tab.get? t.keys k = if p.bytesWith r = List.replicate 64 0 then none else some (p.bytesWith r))) ∧
  ((∀ (s : State) op a x, 768 ≤ s.myCore → s.Ready [a] none [x] → NoPorts [a] → x.toNat < 12288 →
     ((s.slot x.toNat).status = .empty → ∃ t : State, exec (.slotCtl op a) s = .next t ∧ t.mem = s.mem ∧ (∀ n, t.me.x n = s.me.x n) ∧
       t.me.pc = s.retire.me.pc) ∧
     ((s.slot x.toNat).status = .running → ∃ t : State, exec (.slotCtl .stop a) s = .next t ∧ (t.slot x.toNat).status = .stopped ∧
       (t.slot x.toNat).regs = (s.slot x.toNat).regs ∧ t.me.pc = s.retire.me.pc ∧ t.mem = s.mem) ∧
     ((s.slot x.toNat).status = .stopped → s.mayRun x.toNat = true → ∃ t : State, exec (.slotCtl .run a) s = .next t ∧
       (t.slot x.toNat).status = .running ∧ (t.slot x.toNat).regs = (s.slot x.toNat).regs ∧ t.me.pc = s.retire.me.pc ∧ t.mem = s.mem)) ∧
   (∀ (s : State) a b x g c o, 768 ≤ s.myCore → s.Ready [a, b] none [x, g] → NoPorts [a, b] → g.toNat < 12288 →
     (s.slot g.toNat).status = .stopped → s.Unhindered → c < 768 → o % 64 = 0 → o + 1024 ≤ 262144 →
     x.toNat = 0xF0 * 2 ^ 56 + scratchPa c o →
     ∃ t : State, exec (.slotSv a b) s = .next t ∧
       s.SendsRecord t c o (slotBytes (s.slot g.toNat) (s.launch (s.slot g.toNat).launch) 3)) ∧
   (∀ (s : State) a b x g bs t sl, 768 ≤ s.myCore → s.Ready [a, b] none [x, g] → NoPorts [a, b] → g.toNat < 12288 →
     (s.slot g.toNat).status = .empty → s.ReadsNow s x 1024 64 bs t → (t.slot g.toNat).status = .empty →
     t.slotOf (coreOf g.toNat) bs = some sl →
     ∃ (u : State) (r : Option Repeat), exec (.slotLd a b) s = .next u ∧ u.slot g.toNat = { sl with rep := r, releases := (t.slot g.toNat).releases } ∧
       (∀ k w, sl.lease = some (k, w) → k < 4 → (u.bank (clusterOf (coreOf g.toNat)) k).holder = some g.toNat ∧
         (u.bank (clusterOf (coreOf g.toNat)) k).weight = w) ∧
       ∀ n, u.me.x n = t.me.x n) ∧
   (∀ (s : State) i r p g sl, s.LastReply i r p → p.finish = .slotLoad g → 768 ≤ coreOf r.slot → g < 12288 → (s.slot g).status = .empty →
     s.slotOf (coreOf g) (p.bytesWith r) = some sl →
     ∃ (t : State) (z : Option Repeat), exec (.loadReply i) s = .next t ∧ t.slot g = { sl with rep := z, releases := (s.slot g).releases } ∧
       (∀ k w, sl.lease = some (k, w) → k < 4 → (t.bank (clusterOf (coreOf g)) k).holder = some g) ∧
       (t.slot r.slot).pending = none)) ∧
  ((∀ (s : State) a x, 768 ≤ s.myCore → s.Ready [a] none [x] → NoPorts [a] → s.me.stopAsked = false →
     (x.toNat ≤ 767 → ∃ (t : State) (q : Promote), exec (.promAll a) s = .next t ∧ s.Awaits t .none 1 ∧ t.promReqs = s.promReqs ++ [q] ∧
       q.from_ = s.cur ∧ q.core = x.toNat ∧ q.launch = none) ∧
     (x = BitVec.allOnes 64 → ∃ (t : State) (qs : List Promote), exec (.promAll a) s = .next t ∧ s.Awaits t .none 768 ∧ t.promReqs = s.promReqs ++ qs ∧
       qs.map (fun q => (q.from_, q.core)) = (List.range 768).map fun c => (s.cur, c))) ∧
   (∀ (s : State) a x cs es, s.Ready [a] none [x] → NoPorts [a] → s.check (s.accessor s.cur) x 48 0 .load = .ok (cs, es) →
     (s.installAll s.myCore es).lostPiece s.myCore s.cur (piecesOf cs) = none → s.me.st < 65535 →
     ∃ (t : State) (z : Sending) (e : Inbound), exec (.post a) s = .next t ∧ t.sendings = s.sendings ++ [z] ∧ z.id = s.nextId ∧
       z.slot = s.cur ∧ z.mail = none ∧ (t.die (dieOf s.cur)).inWaiting.getLast? = some e ∧ e.reads = some s.nextId ∧ e.source = s.cur ∧
       e.kind = 1 ∧ e.asid = s.me.asidNo ∧ e.job = (s.launch s.me.launch).job ∧ e.op.map (fun o => (o.slot, o.id)) = some (s.cur, s.nextId) ∧
       z.parts.map (fun q => (q.pa, q.n)) = (piecesOf cs).map (fun c => (c.loc.pa, c.n)) ∧ (∀ n, t.me.x n = s.me.x n) ∧
       t.me.pc = s.retire.me.pc ∧ ((∀ r ∈ s.me.stores, r.id ≠ s.nextId) → t.me.st = s.me.st + 1)) ∧
   (∀ (s : State) i r z e, s.ReplyArrives i r → s.sendings.find? (fun x => x.id == r.id) = some z → z.mail = none →
     (∀ q ∈ z.parts, (q.off = r.off → q.bytes = none ∧ q.failed = none) ∧ (q.off ≠ r.off → q.answered = true)) →
     (∀ p, (s.slot r.slot).pending = some p → p.id ≠ r.id) →
     let d := s.die (dieOf z.slot)
     d.inWaiting = [e] → e.reads = some z.id → d.inbound.length < d.inboundSize → s.mayAccept (inboundPoint (dieOf z.slot)) e.source = true →
     ∃ (t : State) (f : Inbound), exec (.loadReply i) s = .next t ∧ f = { e with body := bytesOf (z.parts.map (·.take r)), reads := none, time := f.time } ∧
       (t.die (dieOf z.slot)).inbound = d.inbound ++ [f] ∧ (t.die (dieOf z.slot)).inWaiting = [] ∧
       (t.die (dieOf z.slot)).rqtail = (d.rqtail + 1) % 2 ^ 32 ∧ (∀ o ∈ e.op, o ∈ t.acks) ∧
       (s.Calm (coreOf z.slot) → s.Calm (coreOf r.slot) → (s.core (coreOf z.slot)).wb = [] → bits d.rqbase 45 12 ≠ 0 →
         t.mem.read (bits d.rqbase 45 12 * 4096 + d.rqtail % d.inboundSize * 64) (inboundBytes f).length = inboundBytes f)) ∧
   (∀ (s : State) a x, 768 ≤ s.myCore → s.Ready [a] none [x] → NoPorts [a] → x.toNat / 2 ^ 48 % 2 ^ 12 = 0 → x.toNat / 2 ^ 14 % 4 = 0 →
     x.toNat / 2 ^ 60 % 8 ≤ 4 → x.toNat % 2 ^ 14 < 12288 →
     ∃ (t : State) (w : Wake), exec (.wake a) s = .next t ∧ s.KeptBut [] t ∧ t.me.pc = s.retire.me.pc ∧ t.wakes = s.wakes ++ [w] ∧
       w.by_ = some s.cur ∧ w.slot = x.toNat % 2 ^ 14 ∧ w.seq = x.toNat / 2 ^ 16 % 2 ^ 32 ∧ (w.reject.isSome ↔ x.getLsbD 63 = true)))

/-! ## The memory system's own steps (R217 to R221, R227 to R238, R243 to R256, R261, R274, R391, R392, R399, R440) -/

/-- R217 to R219, R231, R243, R244, R248, R261, R314, R418 and R456: a request that arrives at its point of acceptance leaves the way,
in the order of its core; a write to DRAM puts its bytes into memory and is counted and acknowledged, an atomic leaves its new value
and answers with the old one where it returns, a read is answered with the bytes there (zeros at and above the tail of a seal-class
page), a piece of a store to be tested is answered with the ring that refuses it, and append, seal and tail act on the page's record;
an entry of a write buffer that has been open for 64 cycles leaves it. The model's choice are the piece of a store that is tested on its
way (log 91), the one request of append, seal and tail (log 15) and the sectors that fail them (log 106), what a read finds where it is
an asynchronous load's (log 10), the bytes under a key (log 31), and the cycle to which an acceptance at the own port counts (log 107). -/
def Obligations.RequestsActAtTheirPointOfAcceptance : Prop :=
  (∀ s i m cs, State.Arrives s i m → m.body = .write cs → (∀ c ∈ cs, s.Plain c.1) → (cs.map (·.1)).Nodup →
    ∃ t, exec (.homeWrite i) s = .next t ∧ (∀ c ∈ cs, t.mem.byte c.1 = c.2) ∧
      (∀ a, a ∉ cs.map (·.1) → t.mem.byte a = s.mem.byte a) ∧ t.slots = s.slots ∧ t.net = s.net.eraseIdx i ∧ t.acks = s.acks ++ m.ops ∧
      ∀ r, m.tag = some r → Tab.getD t.arrivals (arrivalKey m.poa m.core r) 0 = (Tab.getD s.arrivals (arrivalKey m.poa m.core r) 0 + 1) % 2 ^ 32) ∧
  (∀ (s : State) pa b, (s.putDram pa b).dramByte pa = b) ∧
  (∀ s i m op ty pa v, State.Arrives s i m → m.body = .atomic op ty pa v none → (∀ k < atypeBytes ty, s.Plain (pa + k)) →
    ∃ t, exec (.homeAtomic i) s = .next t ∧
      t.mem.read pa (atypeBytes ty) = bytesLe (atypeBytes ty)
        (amoNew op ty (numLe (s.mem.read pa (atypeBytes ty))) (v.toNat % 2 ^ (8 * atypeBytes ty))) ∧
      (∀ a, a < pa ∨ pa + atypeBytes ty ≤ a → t.mem.byte a = s.mem.byte a) ∧ t.slots = s.slots ∧ t.net = s.net.eraseIdx i ∧
      t.acks = s.acks ++ m.ops) ∧
  (∀ s i m op ty pa v g uid id, State.Arrives s i m → m.body = .atomic op ty pa v (some (g, uid, id)) →
    (∀ k < atypeBytes ty, s.Plain (pa + k)) → pa / 32 ∉ s.lost →
    ∃ t, exec (.homeAtomic i) s = .next t ∧
      t.mem.read pa (atypeBytes ty) = bytesLe (atypeBytes ty)
        (amoNew op ty (numLe (s.mem.read pa (atypeBytes ty))) (v.toNat % 2 ^ (8 * atypeBytes ty))) ∧
      (∀ a, a < pa ∨ pa + atypeBytes ty ≤ a → t.mem.byte a = s.mem.byte a) ∧ t.slots = s.slots ∧ t.net = s.net.eraseIdx i ∧
      t.replies = s.replies ++ [{ slot := g, uid := uid, id := id, poa := some m.poa
                                  bytes := bytesLe 8 (numLe (s.mem.read pa (atypeBytes ty))) }]) ∧
  (∀ s i m r, State.Arrives s i m → m.body = .read r → r.shadow = none → r.n ≠ 0 →
    (∀ k < r.n, s.Plain (r.pa + k) ∧ (r.pa + k) / 32 ∉ s.lost) →
    ∃ t, exec (.homeRead i) s = .next t ∧ t.mem = s.mem ∧ t.slots = s.slots ∧ t.net = s.net.eraseIdx i ∧
      t.replies = s.replies ++ [{ slot := r.slot, uid := r.uid, id := r.id, off := r.off, poa := some m.poa
                                  bytes := (List.range r.n).map fun k => match r.page with
                                    | some p => if p + (s.sealAt p).tail ≤ r.pa + k then 0 else s.mem.byte (r.pa + k)
                                    | none => s.mem.byte (r.pa + k) }]) ∧
  (∀ s i m r, State.Arrives s i m → m.body = .test r →
    exec (.homeWrite i) s = .next { s.taking i m.poa m.rank with
      replies := s.replies ++ [{ slot := r.slot, uid := r.uid, id := r.id, off := r.off, bytes := [], poa := some m.poa
                                 failed := (s.refusedIn r.pa r.n).map fun x => (0x0B, x.1, x.2) }] }) ∧
  (∀ s i m page at_ bytes g uid id, State.Arrives s i m → m.body = .append page at_ bytes g uid id →
    exec (.appendRequest i) s = .next ((s.taking i m.poa m.rank).doAppend m.core m.poa page at_ bytes g uid id) ∧
    ((s.sealAt page).sealed = true → exec (.appendRequest i) s = .next { s.taking i m.poa m.rank with
      replies := s.replies ++ [{ slot := g, uid := uid, id := id, bytes := [], poa := some m.poa, failed := some (0x08, 0, 0) }] })) ∧
  (∀ s i m page at_ g uid id, State.Arrives s i m → m.body = .sealReq page at_ g uid id → (page + (s.sealAt page).tail) / 32 ∉ s.lost →
    ∃ t, exec (.sealRequest i) s = .next t ∧ (t.sealAt page).sealed = true ∧ (t.sealAt page).tail = (s.sealAt page).tail ∧ t.mem = s.mem ∧
      t.net = s.net.eraseIdx i ∧ t.replies = s.replies ++
        [{ slot := g, uid := uid, id := id, poa := some m.poa, bytes := bytesLe 8 (s.sealAt page).tail }]) ∧
  (∀ s i m page at_ g uid id, State.Arrives s i m → m.body = .tailReq page at_ g uid id → (page + (s.sealAt page).tail) / 32 ∉ s.lost →
    exec (.tailRequest i) s = .next { s.taking i m.poa m.rank with
      replies := s.replies ++ [{ slot := g, uid := uid, id := id, poa := some m.poa, bytes := bytesLe 8 (s.sealAt page).tail }] }) ∧
  (∀ s c i e, (s.core c).wb[i]? = some e → e.hold = [] → e.opened + 64 ≤ s.cycle →
    exec (.writeBufferTimeout c i) s = .next (s.sendEntry c i) ∧ ((s.sendEntry c i).core c).wb.length + 1 = (s.core c).wb.length)

/-- R16, R151, R152, R218, R249, R254, R255, R274 and R456: an accepted piece leaves its store, and with the last one ST falls by one;
the last reply to an asynchronous load lowers LD and writes x(d) unless the slot has written it since; the last reply to a waiting
load, atomic, append, seal or tail writes its registers and ends it; a prefetch goes on through its range; a gathered query whose
counts agree has completed its round when its answers are back, and removes the log entries up to it; a promote request is answered
at once by a core without a unit of the launch, and a reply brings its slot one nearer, to the end of prom.all and to the load of
acq.prom. The model's choice are the pieces of an access and the step in which it ends (log 8), the end of an asynchronous load (log
10), when the releases of a slot go on (log 14), the end of append, seal and tail (log 15), the pieces of a store that was tested
(log 91), and when an answer may come from another die (logs 72 and 114). -/
def Obligations.RepliesAndReleaseRounds : Prop :=
  (∀ s i o, s.AckArrives i o →
    s.stillUnit o.slot o.uid = true → s.Calm (coreOf o.slot) →
    ∃ t, exec (.writeAcceptance i) s = .next t ∧ t.acks = s.acks.eraseIdx i ∧ t.mem = s.mem ∧
      ∀ x, (s.slot o.slot).stores.find? (·.id == o.id) = some x →
        (x.left ≤ 1 → (t.slot o.slot).st = (s.slot o.slot).st - 1 ∧ ∀ y ∈ (t.slot o.slot).stores, y.id ≠ o.id) ∧
        (1 < x.left → (t.slot o.slot).st = (s.slot o.slot).st)) ∧
  (∀ s i r x, s.ReplyArrives i r →
    (s.slot r.slot).uid = r.uid → s.Calm (coreOf r.slot) → (∀ y ∈ s.sendings, y.id ≠ r.id) →
    (∀ p, (s.slot r.slot).pending = some p → p.id ≠ r.id) →
    (s.slot r.slot).outstanding.find? (·.id == r.id) = some x → (∀ p ∈ x.parts, p.off = r.off ∨ p.answered = true) →
    ∃ t, exec (.loadReply i) s = .next t ∧ t.replies = s.replies.eraseIdx i ∧ t.mem = s.mem ∧ (t.slot r.slot).ld = (s.slot r.slot).ld - 1 ∧
      (∀ n, n ≠ x.d → (t.slot r.slot).x n = (s.slot r.slot).x n) ∧ (∀ g, g ≠ r.slot → t.slot g = s.slot g) ∧
      (x.live = true → 1 ≤ x.d → x.d ≤ 50 → (t.slot r.slot).x x.d = extend x.z (numLe (bytesOf (x.parts.map (·.take r))))) ∧
      (x.live = false → (t.slot r.slot).x x.d = (s.slot r.slot).x x.d)) ∧
  (∀ s i r, s.ReplyArrives i r →
    (s.slot r.slot).uid ≠ r.uid → (∀ y ∈ s.sendings, y.id ≠ r.id) →
    exec (.loadReply i) s = .next { s with replies := s.replies.eraseIdx i }) ∧
  (∀ s i r p d vs, s.LastReply i r p → s.Calm (coreOf r.slot) → p.finish.gives (p.bytesWith r) = some (d, vs) → isPort d = false →
    ∃ t, exec (.loadReply i) s = .next t ∧ s.Completes t r.slot p ∧ t.replies = s.replies.eraseIdx i ∧
      (t.slot r.slot).regs = ((s.slot r.slot).setXs d vs).regs) ∧
  (∀ s i r p ws, s.LastReply i r p → s.Calm (coreOf r.slot) → p.finish = .store ws →
    ∃ t, exec (.loadReply i) s = .next t ∧ s.Completes t r.slot p ∧ (t.slot r.slot).regs = (s.slot r.slot).regs ∧
      ∀ w ∈ ws, ∃ m ∈ t.net, m.core = coreOf r.slot ∧ m.poa = w.2.1 ∧ m.body = .write (cellsAt w.1 w.2.2) ∧ m.tested = true) ∧
  (∀ s i p, s.prefetches[i]? = some p →
    ∃ t n, exec (.l1Fill i) s = .next t ∧ t.slots = s.slots ∧ 0 < n ∧
      t.prefetches = if p.left ≤ n then s.prefetches.eraseIdx i else s.prefetches.set i { p with va := p.va + n, left := p.left - n }) ∧
  (∀ s c n k rest, (s.core c).draining = (n, k) :: rest →
    ((s.core c).query = none → s.arrivedTotal c (n % 8) = k →
      exec (.gatheredQueryReply c) s = .next (s.modCore c fun x => { x with query := some s.cycle })) ∧
    (∀ q, (s.core c).query = some q → q + Config.crossing ≤ s.cycle → (∀ d < 4, s.wayOpen (dieOfCore c) d = true) → s.Calm c →
      exec (.gatheredQueryReply c) s = .next (s.modCore c fun x =>
        { x with draining := rest, query := none, log := x.log.filter fun e => newer e.1 n })) ∧
    ((s.core c).query = none → s.arrivedTotal c (n % 8) ≠ k → exec (.gatheredQueryReply c) s = .fault .eventNotEnabled)) ∧
  (∀ s i p, s.promReqs[i]? = some p → (∀ x ∈ s.promReqs.take i, x.from_ ≠ p.from_ ∨ x.core ≠ p.core) → s.mayAccept (5000 + p.core) p.from_ = true →
    s.crossed (dieOf p.from_) (dieOfCore p.core) p.sent = true →
    let u := { s with promReqs := s.promReqs.eraseIdx i }.noteAccepted (5000 + p.core) p.from_
    exec (.promoteRequest i) s = .next (u.promotionArrives p) ∧
    ∀ l, p.launch = some l → s.holdsUnit p.core l = false →
      exec (.promoteRequest i) s = .next { u with promReps := s.promReps ++ [{ p with launch := none, sent := none }] }) ∧
  (∀ s i p, s.promReps[i]? = some p → (∀ x ∈ s.promReps.take i, x.core ≠ p.core ∨ coreOf x.from_ ≠ coreOf p.from_) → s.crossed (dieOfCore p.core) (dieOf p.from_) p.sent = true →
    (∀ q, (s.slot p.from_).pending = some q → 2 ≤ q.left →
      ∃ t, exec (.promoteReply i) s = .next t ∧ t.promReps = s.promReps.eraseIdx i ∧ t.mem = s.mem ∧
        t.slot p.from_ = { s.slot p.from_ with pending := some { q with left := q.left - 1 } } ∧ ∀ g, g ≠ p.from_ → t.slot g = s.slot g) ∧
    (∀ q, s.LastOf p.from_ q → q.finish = .none →
      ∃ t, exec (.promoteReply i) s = .next t ∧ t.promReps = s.promReps.eraseIdx i ∧ s.Completes t p.from_ q ∧
        (t.slot p.from_).regs = (s.slot p.from_).regs) ∧
    (∀ q a z d cs es, s.LastOf p.from_ q → q.finish = .prom a z d →
      s.check (s.accessor p.from_) a (sizeBytes z) (sizeBytes z) .load = .ok (cs, es) →
      ∃ t x, exec (.promoteReply i) s = .next t ∧ t.promReps = s.promReps.eraseIdx i ∧ (t.slot p.from_).pending = some x ∧
        x.finish = .acquire z .dev d ∧ x.left = 0 ∧ (t.slot p.from_).status = .parked .own ∧
        (t.slot p.from_).regs = (s.slot p.from_).regs ∧ x.parts.map (fun y => (y.pa, y.n)) = (piecesOf cs).map fun c => (c.loc.pa, c.n)))

/-- R220, R221, R227, R228, R232, R234, R236 to R238, R391, R392, R399, R410 and R440: a walk answers home with the place of the byte,
or 2^61 where nothing translates; a generation change completes when no access of an older translation is under way; a fault report
whose pieces are in reach is answered with a wake, which lets the dropped slot go on; a page moves in its five steps, at the request
of pf.fast or pf.cap too; shadow frames are filled with the bytes of a sealed block; activates keep to the regulator; scrubbing marks
lost sectors and counts errors. The model's choices in these clauses: which accesses a generation change waits for
(notes/assumptions/39.md), the choice of frames (notes/assumptions/33.md), the steps of moves, evictions and reasons
(notes/assumptions/35.md), shadow frames (notes/assumptions/38.md), retraining and saves (notes/assumptions/58.md), the events by
which storage fails and activates are counted (notes/assumptions/88.md), and the clamping of a regulator
(notes/assumptions/52.md). -/
def Obligations.TranslationAndPageSteps : Prop :=
  (∀ (s : State) i w, s.walks[i]? = some w → w.gen = (s.asidOf w.asid).gen →
    ∃ (t : State) (v : Word), exec (.walkComplete i) s = .next t ∧ t.walks = s.walks.eraseIdx i ∧ t.mem = s.mem ∧ t.slots = s.slots ∧
      t.replies = s.replies ++ [{ slot := w.slot, uid := w.uid, id := w.id, bytes := bytesLe 8 (BitVec.toNat v) }] ∧
      v = match s.translate w.core w.asid w.va with
        | some (e, _) => s.homeOfEntry w.asid w.va e
        | none => BitVec.ofNat 64 (2 ^ 61)) ∧
  (∀ (s : State) i w, s.walks[i]? = some w → w.gen ≠ (s.asidOf w.asid).gen →
    exec (.walkComplete i) s = .next { s with walks := s.walks.set i { w with gen := (s.asidOf w.asid).gen } }) ∧
  (∀ (s : State) i x, s.tlbOps[i]? = some x →
    (s.tlbClear x = true → ∀ p, s.LastOf x.slot p → p.id = x.bound → p.finish = .none →
      ∃ t : State, exec (.tlbGenerationComplete i) s = .next t ∧ t.tlbOps = s.tlbOps.eraseIdx i ∧ s.Completes t x.slot p) ∧
    (s.tlbClear x = true → (∀ p, (s.slot x.slot).pending = some p → p.id ≠ x.bound) →
      exec (.tlbGenerationComplete i) s = .next { s with tlbOps := s.tlbOps.eraseIdx i }) ∧
    (s.tlbClear x = false → s.tlbSend x ≠ s → exec (.tlbGenerationComplete i) s = .next (s.tlbSend x))) ∧
  (∀ (s : State) i r, s.reports[i]? = some r →
    ((s.servePieces { s.accessor r.slot with asid := r.asid } r.pieces).1 = .ready →
      exec (.pageFaultService i) s = .next { s with
        reports := s.reports.eraseIdx i, wakes := s.wakes ++ [{ slot := r.slot, seq := r.seq, reject := none }] }) ∧
    (∀ t p, s.servePieces { s.accessor r.slot with asid := r.asid } r.pieces = (.wait t, p) → t ≠ s →
      exec (.pageFaultService i) s = .next t) ∧
    (∀ why p, s.servePieces { s.accessor r.slot with asid := r.asid } r.pieces = (.reject why, p) →
      exec (.pageFaultService i) s = .next { s with
        reports := s.reports.eraseIdx i, wakes := s.wakes ++ [{ slot := r.slot, seq := r.seq, reject := some (why, word p, r.fetch) }] })) ∧
  (∀ (s : State) i w, s.wakes[i]? = some w → (∀ x ∈ s.wakes.take i, x.by_ ≠ w.by_ ∨ x.slot ≠ w.slot) →
    (∀ g ∈ w.by_, s.mayAccept (6000 + w.slot) g = true ∧ s.crossed (dieOf g) (dieOf w.slot) w.sent = true) →
    ∃ t : State, exec (.wakeArrival i) s = .next t ∧ t.wakes = s.wakes.eraseIdx i ∧ t.mem = s.mem ∧
    (∀ g, g ≠ w.slot → t.slot g = s.slot g) ∧
    ((s.slot w.slot).status = .dropped → (s.slot w.slot).dropSeq = w.seq →
      t.slot w.slot = { s.slot w.slot with status := .parked .eligible, reject := w.reject }) ∧
    ((s.slot w.slot).status ≠ .dropped ∨ (s.slot w.slot).dropSeq ≠ w.seq → t.slot w.slot = s.slot w.slot)) ∧
  (∀ (s : State) k id t, k < 12 → s.freeIn k < s.lowMark k → s.victim k = some id →
    s.startMove id 1 = some t ∨ (s.startMove id 1 = none ∧ s.startMove id 2 = some t) →
    exec (.pageEviction k) s = .next t ∧ ∃ m : Move, t.moves = s.moves ++ [m] ∧ m.page = id ∧ m.step = 1 ∧
      m.tier = if (s.startMove id 1).isSome = true then 1 else 2) ∧
  (∀ (s : State) i m p, s.moves[i]? = some m → Tab.get? s.pages m.page = some p →
    (m.step = 1 → ∃ t : State, exec (.pageMove i) s = .next t ∧ t.mem.read m.leafAt 8 = bytesLe 8 (leafMoved m.old 2 (leafFrame m.old)).toNat ∧
      (∀ a, a < m.leafAt ∨ m.leafAt + 8 ≤ a → t.mem.byte a = s.mem.byte a) ∧ t.moves[i]? = some { m with step := 2 }) ∧
    (m.step = 2 → ∃ t : State, exec (.pageMove i) s = .next t ∧ (t.asidOf p.asid).gen = ((s.asidOf p.asid).gen + 1) % 65536 ∧
      t.moves[i]? = some { m with step := 3 }) ∧
    (m.step = 3 → s.drained (s.framesOf p.asid m.old) = true →
      (s.pageLost (s.framesOf p.asid m.old) = false → ∃ t : State, exec (.pageMove i) s = .next t ∧ t.mem = (s.carryPage m p).mem ∧
        t.moves[i]? = some { m with step := 4 } ∧
        let from_ (k : Nat) : Nat := s.physical p.asid (p.va + k) p.size m.old
        let to_ (k : Nat) : Nat := s.physical p.asid (p.va + k) p.size m.new
        (p.onHost = none → m.tier ≠ 2 → (∀ k < p.size, inDram (from_ k) ∧ inDram (to_ k) ∧
            ∀ j < p.size, from_ j / 32 ≠ to_ k / 32 ∧ (j ≠ k → to_ j ≠ to_ k)) →
          ∀ k < p.size, t.byteAt (to_ k) = s.byteAt (from_ k))) ∧
      (s.pageLost (s.framesOf p.asid m.old) = true → ∃ t : State, exec (.pageMove i) s = .next t ∧ t.moves = s.moves.erase m ∧
        Tab.get? t.pages m.page = some { p with moving := false, fate := 3 })) ∧
    (m.step = 4 → ∃ t : State, exec (.pageMoveComplete i) s = .next t ∧ t.mem.read m.leafAt 8 = bytesLe 8 m.new.toNat ∧
      t.moves = s.moves.erase m ∧ Tab.get? t.pages m.page = some { p with moving := false, onHost := if m.tier = 2 then p.onHost else none } ∧
      ∀ f ∈ s.framesOf p.asid m.old, Tab.get? t.frames f = none ∧ Tab.get? t.seals f = (Tab.get? s.seals f).map SealInfo.free)) ∧
  (∀ (s : State) id fast r, s.steers = (id, fast) :: r →
    (Tab.get? s.pages id = none → exec (.pageMove s.moves.length) s = .next { s with steers := r }) ∧
    ∀ p, Tab.get? s.pages id = some p → p.moving = false →
      let idle := leafTier (s.leafOfPage p) = (if fast then 0 else 1) ∨ fast = false ∧ leafTier (s.leafOfPage p) = 2 ∨ p.fate ≠ 0
      let moved := { s with steers := r }.startMove id (if fast then 0 else 1)
      (idle → exec (.pageMove s.moves.length) s = .next { s with steers := r }) ∧
      (¬idle → moved.isSome = true → ∃ (t : State) (m : Move), exec (.pageMove s.moves.length) s = .next t ∧ t.steers = r ∧
        t.moves = s.moves ++ [m] ∧ m.page = id ∧ m.tier = (if fast then 0 else 1) ∧ m.step = 1 ∧ m.old = s.leafOfPage p ∧
        Tab.get? t.pages id = some { p with moving := true }) ∧
      (¬idle → moved = none → fast = true → ∀ u, s.makeRoom p (s.leafOfPage p) = some u → u ≠ s →
        exec (.pageMove s.moves.length) s = .next u ∧ u.steers = s.steers ∧ ∃ m k, u.moves = s.moves ++ [m] ∧ m.step = 1 ∧
          (m.tier = 1 ∨ m.tier = 2) ∧ s.victim k = some m.page)) ∧
  (∀ (s : State) d pa gen r, s.shadowFills = (d, pa, gen) :: r →
    let there := (s.shadowOf d pa gen).isSome = true ∨ ∃ f ∈ s.filling, f.1 = d ∧ f.2.1 = pa
    let isSealed := s.sealGenAt pa = gen ∧ ∃ q, s.sealPageAt pa = some q ∧ (s.sealAt q).sealed = true
    (¬there → isSealed →
      exec .shadowFill s = .next { s with shadowFills := r, filling := s.filling ++ [(d, pa, gen, s.cycle)] }) ∧
    (there ∨ ¬isSealed → exec .shadowFill s = .next { s with shadowFills := r })) ∧
  (∀ (s : State) d pa gen begun r, s.filling = (d, pa, gen, begun) :: r → begun + 2 * Config.crossing ≤ s.cycle →
    s.wayOpen ((sectorDie pa).getD d) d = true →
    ∃ t : State, exec .shadowFillComplete s = .next t ∧ t.filling = r ∧
      ∀ fr, s.shadowOf d pa gen = none → s.freeOnDie d = some fr →
        (t.die d).shadows = { pa := pa, gen := gen, frame := fr } :: (s.die d).shadows ∧ Tab.get? t.frames fr = some (65536, 4096) ∧
        t.mem.read fr 65536 = (List.range 65536).map fun k => match s.sealPageAt pa with
          | some q => if q + (s.sealAt q).tail ≤ pa + k then 0 else s.byteAt (pa + k)
          | none => s.byteAt (pa + k)) ∧
  (∀ (s : State) k, k < 12 → ((s.regulatorOf k).getLsbD 63 = false ∨ (s.recentActivates k).length < s.activateLimit k) →
    exec (.hbmActivate k) s = .next { s with
      activates := Tab.set s.activates k (((Tab.getD s.activates k []).filter fun t => decide (s.time < t + 65536)) ++ [s.time]) }) ∧
  (∀ (s : State) k v, k < 12 → ∃ t : State, exec (.hbmRegulatorWrite k v) s = .next t ∧ t.regulatorOf k = regulatorValue v ∧
    ∀ j, j ≠ k → t.regulatorOf j = s.regulatorOf j) ∧
  (∀ (s : State) k, k < 12 →
    (s.saving k = false → exec (.hbmRetrain k) s = .next { s with retrain := if k ∈ s.retrain then s.retrain else s.retrain ++ [k] }) ∧
    (s.saving k = true → exec (.hbmRetrain k) s = .next { s with again := true })) ∧
  (∀ (s : State) pa d, sectorDie pa = some d →
    (∃ t : State, exec (.patrolScrub pa false) s = .next t ∧ t.lost = s.lost ∧ t.mem = s.mem ∧ t.power.errcor = (s.power.errcor + 1) % 2 ^ 64) ∧
    (∃ t : State, exec (.patrolScrub pa true) s = .next t ∧ pa / 32 ∈ t.lost ∧ t.mem = s.mem ∧ pa / 32 ∈ t.found ∧
      t.power.errunc = if pa / 32 ∈ s.found then s.power.errunc else (s.power.errunc + 1) % 2 ^ 64))

/-! ## Steps of the engines, the array and the leases (R213, R296 to R331, R356, R422, R423) -/

/-- R213, R248, R263, R298 to R307: an engine reads and writes the bytes of its core's scratchpad where their addresses say; a write of
a push register enters its local queue when there is room, and nothing where no queue is; a copy reads and writes piece by piece, one
that has moved all its bytes leaves its core and lowers CP, and one that fails does so with a pending copy error; a generator loads
its next element, with the token that follows it, or the fault of its read; the reference accelerator pops its input and gathers, and
puts out its oldest gather or reports its failure, with the elements behind it in the input. The model's choices in these clauses: the
pieces of a copy (notes/assumptions/9.md), pushes to a queue that is not held (notes/assumptions/45.md), the number of a generator's
error and the elements behind a failing gather (notes/assumptions/43.md), an accelerator whose unit has ended
(notes/assumptions/44.md). -/
def Obligations.CopyGeneratorAndGatherSteps : Prop :=
  (∀ (s : State) (x : Accessor) (a : Word) (o n key : Nat), a.toNat = 0xE0 * 2 ^ 56 + o → x.core < 768 → 1 ≤ n → o % 64 + n ≤ 64 →
    o + n ≤ x.scratchBound → x.scratchBound ≤ 262144 →
    (s.lost = [] → s.pull x a n key = .bytes (s.mem.read (scratchPa x.core o) n) s) ∧
    ∀ (bs : List Byte) (k : Option Nat), bs.length = n → (s.core x.core).rings = [] → s.mayAccept (poaCore x.core) x.rank = true →
      ∃ t, s.put x a bs k = .done t ∧ t.mem.read (scratchPa x.core o) n = bs ∧ t.slots = s.slots ∧
        ∀ p, p < scratchPa x.core o ∨ scratchPa x.core o + n ≤ p → t.mem.byte p = s.mem.byte p) ∧
  (∀ s i w, s.pushWrites[i]? = some w → (∀ x ∈ s.pushWrites.take i, x.core ≠ w.core ∨ x.q ≠ w.q) →
    (∀ k q, Tab.get? (s.core w.core).local_ w.q = some k → Tab.get? s.queues k = some q → q.ring = false → q.room 0 = true →
      ∃ t y, exec (.queuePushRegisterWrite i) s = .next t ∧ t.pushWrites = s.pushWrites.eraseIdx i ∧ Tab.get? t.queues k = some y ∧
        y.elems = q.elems ++ [{ data := w.data, tag := w.tag }] ∧ y.pushed = q.pushed + 1 ∧ t.slots = s.slots ∧ t.mem = s.mem ∧
        (w.from_ = none → t.acks = s.acks) ∧ ∀ m, w.from_ = some m → t.acks = s.acks ++ m.ops) ∧
    (Tab.get? (s.core w.core).local_ w.q = none → w.from_ = none →
      exec (.queuePushRegisterWrite i) s = .next { s with pushWrites := s.pushWrites.eraseIdx i })) ∧
  (∀ s core i c, (s.core core).copies[i]? = some c → c.recorded = false → c.waits = [] →
    (c.todo = [] → c.read = [] → (∀ w ∈ s.pushWrites, w.copy ≠ c.id) → s.stillUnit c.slot c.uid = true →
      ∃ t, exec (.copyComplete core i) s = .next t ∧ (∀ x ∈ (t.core c.acc.core).copies, x.id ≠ c.id) ∧
        (t.slot c.slot).cp = (s.slot c.slot).cp - 1 ∧ (t.slot c.slot).regs = (s.slot c.slot).regs ∧ t.mem = s.mem ∧
        (t.slot c.slot).pend = (s.slot c.slot).pend ++ match c.failed with
          | some (cause, a) => [{ cause := cause, addr := a, seq := c.seq, order := c.id, batch := none, copy := true }]
          | none => []) ∧
    (∀ k left, c.todo ≠ [] → c.read = [] → s.nextByte c = (k, left) → s.pushTarget c.acc (c.to_ k) = none →
      s.deviceAt c.acc (c.from_ k) = false → s.deviceAt c.acc (c.from_ k + BitVec.ofNat 64 (s.pieceOf c k left - 1)) = false →
      (∀ bs u, s.pull c.acc (c.from_ k) (s.pieceOf c k left) (engineKey c.id k) = .bytes bs u →
        exec (.copyComplete core i) s = .next (u.keepCopy { c.taken k (s.pieceOf c k left) with read := [(k, bs)] })) ∧
      (∀ cause a x, s.pull c.acc (c.from_ k) (s.pieceOf c k left) (engineKey c.id k) = .fail cause a x →
        exec (.copyComplete core i) s = .next (s.endCopy c (some (if cause = 0x11 then 0x11 else 0x10, a))))) ∧
    (∀ k left, c.todo ≠ [] → c.read = [] → s.nextByte c = (k, left) → s.pushTarget c.acc (c.to_ k) = none →
      s.deviceAt c.acc (c.from_ k) = true → exec (.copyComplete core i) s = .next (s.endCopy c (some (0x10, c.from_ k)))) ∧
    (∀ k bs, c.todo = [] → c.read = [(k, bs)] → c.mask = none → s.pushTarget c.acc (c.to_ k) = none →
      (∀ u l f, s.put c.acc (c.to_ k) bs (some (engineKey c.id (2 ^ 64 + k))) = .done u → u.locate c.acc (c.to_ k) = .at_ l f →
        exec (.copyComplete core i) s = .next ((u.keepCopy { c with read := [] }).noteCopied c l.pa bs.length)) ∧
      (∀ a, s.put c.acc (c.to_ k) bs (some (engineKey c.id (2 ^ 64 + k))) = .fail a →
        exec (.copyComplete core i) s = .next (s.endCopy c (some (0x10, a))))) ∧
    (∀ k bs t q, c.todo = [] → c.read = [(k, bs)] → c.mask = none → s.pushTarget c.acc (c.to_ k) = some (t, q) → bs.length = 16 →
      (Tab.get? (s.core t).local_ q).isSome = true → (∀ w ∈ s.pushWrites, w.copy ≠ c.id) →
      exec (.copyComplete core i) s = .next ({ s with pushWrites := s.pushWrites ++
        [({ core := t, q := q, data := BitVec.ofNat 64 (fieldLe bs 0 8), tag := fieldLe bs 8 1 % 4, copy := c.id } : PushWrite)] }.keepCopy { c with read := [] })) ∧
    (∀ t, s.copyStep c = some t → exec (.copyComplete core i) s = .next t)) ∧
  (∀ (s : State) (c : Copy) (u : State) (cause : Nat) (a : Word),
    (u = s.keepCopy c → u.mem = s.mem ∧ u.slots = s.slots ∧ (u.core c.acc.core).copies =
      (s.core c.acc.core).copies.map fun x => if x.id = c.id then c else x) ∧
    (u = s.endCopy c (some (cause, a)) → s.stillUnit c.slot c.uid = true → u.mem = s.mem ∧ (∀ x ∈ (u.core c.acc.core).copies, x.id ≠ c.id) ∧
      (u.slot c.slot).cp = (s.slot c.slot).cp - 1 ∧ (u.slot c.slot).regs = (s.slot c.slot).regs ∧ (u.slot c.slot).pend =
        (s.slot c.slot).pend ++ [{ cause := cause, addr := a, seq := c.seq, order := c.id, batch := none, copy := true }])) ∧
  (∀ s core n g, Tab.get? (s.core core).gens n = some g → s.enginesRest g.acc.launch = false → g.exhausted = false → g.failed = false →
    (∀ e ∈ g.ahead, e.2 = none) → (g.ahead.filter fun e => e.1.tag == 0).length < 32 →
    (∀ bs t, s.pull g.acc (g.address g.next) g.bytes (engineKey g.id g.next) = .bytes bs t →
      ∃ u h rest, exec (.generatorElementLoad core n) s = .next u ∧ Tab.get? (u.core core).gens n = some h ∧ h.next = g.next + 1 ∧
        h.ahead = g.ahead ++ ({ data := g.value bs, tag := 0 }, none) :: rest ∧
        (g.tokenAfter g.next = 0 → rest = []) ∧ (g.tokenAfter g.next ≠ 0 → rest = [({ data := 0, tag := g.tokenAfter g.next }, none)])) ∧
    (∀ cause b x, s.pull g.acc (g.address g.next) g.bytes (engineKey g.id g.next) = .fail cause b x → cause ≠ 0x14 →
      ∃ u h, exec (.generatorElementLoad core n) s = .next u ∧ Tab.get? (u.core core).gens n = some h ∧ h.next = g.next + 1 ∧
        h.ahead = g.ahead ++ [({ data := 0, tag := 0 }, some (cause, g.address g.next, if cause = 0x11 then 0 else x))])) ∧
  (∀ s core r e, (s.core core).ref = some r → s.enginesRest r.acc.launch = false → r.failed = false → r.closing = false →
    r.gathers.length < 64 → (∀ g ∈ r.gathers, g.failed = none) →
    (s.refHead core r = some (e, none) → ∃ t x, exec (.refAcceleratorPop core) s = .next t ∧ (t.core core).ref = some x ∧
      x.popped = r.popped + 1 ∧ x.gathers = r.gathers ++ [{ elem := e, index := r.popped, value := if e.tag = 0 then none else some 0 }]) ∧
    (∀ cause a y, s.refHead core r = some (e, some (cause, a, y)) → ∃ t x, exec (.refAcceleratorPop core) s = .next t ∧
      (t.core core).ref = some x ∧ x.popped = r.popped ∧ t.queues = s.queues ∧
      x.gathers = r.gathers ++ [{ elem := e, index := r.popped, value := none, failed := some a, held := true }])) ∧
  (∀ s core i r g, (s.core core).ref = some r → r.gathers[i]? = some g → g.value = none → g.failed = none →
    let total := if r.el8 then 8 else 4
    let a := r.address g.elem + BitVec.ofNat 64 g.got.length
    let n := (pieceLens 8 a.toNat (total - g.got.length) (s.capAt r.acc a)).headD 1
    (∀ bs t, s.pull r.acc a n (engineKey r.id (8 * g.index + g.got.length)) = .bytes bs t →
      ∃ u x, exec (.gatherComplete core i) s = .next u ∧ (u.core core).ref = some x ∧ x.gathers = r.gathers.set i { g with
        got := g.got ++ bs, value := if total ≤ (g.got ++ bs).length then some (BitVec.ofNat 64 (numLe (g.got ++ bs))) else none }) ∧
    (∀ cause b y, s.pull r.acc a n (engineKey r.id (8 * g.index + g.got.length)) = .fail cause b y →
      ∃ u x, exec (.gatherComplete core i) s = .next u ∧ (u.core core).ref = some x ∧
        x.gathers = r.gathers.set i { g with failed := some a })) ∧
  (∀ s core r g rest, (s.core core).ref = some r → r.gathers = g :: rest → r.closing = false →
    (∀ v q, g.value = some v → Tab.get? s.queues r.out = some q → q.ring = false → q.room r.unit.uid = true →
      ∃ t y, exec (.gatherComplete core 0) s = .next t ∧ (t.core core).ref = some { r with gathers := rest } ∧
        Tab.get? t.queues r.out = some y ∧ y.elems = q.elems ++ [{ data := v, tag := g.elem.tag }] ∧ t.mem = s.mem) ∧
    (∀ a, g.value = none → g.failed = some a → s.stillUnit r.slot r.unit.uid = true →
      ∃ t, exec (.gatherComplete core 0) s = .next t ∧ (t.core core).ref = some { r with failed := true, gathers := [] } ∧ t.mem = s.mem ∧
        (t.slot r.slot).pend = (s.slot r.slot).pend ++ [{ cause := 0x10, addr := a, seq := g.index, order := r.id, batch := none }] ∧
        ∀ n q, r.inQueue = some n → Tab.get? s.queues n = some q →
          ∃ y, Tab.get? t.queues n = some y ∧ y.elems = (rest.filter fun x => !x.held).map (·.elem) ++ q.elems))

/-- R105 to R108, R297, R298, R308, R309, R313, R317 to R319, R321 to R324, R353, R356, R363 and R364: the first lease request that can
have a bank gets it, with the bank as it was for the same launch and reset for another; the array's arbiter serves the next bank with a
ready command, for twice its weight in commands, 16 at most; a ready command starts and leaves the command queue; a command that has
taken its time retires and leaves its bank's order: tzero with the first 128 columns zero, a matrix command with every cell the sum of
its groups and the ring slots released, or the pending scale error and its rows as they were, tload with the region as memory gives
it, tstore and qst with their bytes sent to be stored and counted in ST, qst with the residue of every chain in the file and QS where
an element saturates. A group's terms are added exactly and rounded once, as R105 to R108 have it, NaNs and infinities too; an element
of qst is the code and the residue of R324, and a block's scale the smallest power of two that fits. A ring's tail passes every
reserved slot whose stores before it are done. The model's choices in these clauses: a bank starts its commands in order, and how long
a command takes at least (notes/assumptions/97.md, notes/assumptions/7.md), a lost operand byte (notes/assumptions/46.md), a command
that waits while ST is 65,535 (notes/assumptions/103.md), the pieces of a store sent together (notes/assumptions/91.md), the number of
a store (notes/assumptions/81.md) and the order of R103 at an accumulator (notes/assumptions/83.md). -/
def Obligations.LeaseAndTileSteps : Prop :=
  (∀ s cl g named w b rest, (s.cluster cl).leaseQ = (g, named, w) :: rest → s.bankFor cl named = some b → b < 4 →
    ∃ t, exec (.leaseGrant cl) s = .next t ∧ (t.slot g).lease = some (b, w) ∧ (t.slot g).leaseNew = true ∧
      (t.bank cl b).holder = some g ∧ (t.bank cl b).weight = w ∧
      (t.cluster cl).leaseQ = rest ∧ (t.slot g).regs = (s.slot g).regs ∧
      ((s.bank cl b).lastLaunch = some (s.slot g).launch → t.mem = s.mem ∧ (t.bank cl b).mode = (s.bank cl b).mode) ∧
      ((s.bank cl b).lastLaunch ≠ some (s.slot g).launch → (t.bank cl b).mode = .fp32 ∧ (t.bank cl b).decl = none ∧
        ∀ o < 0x8000, t.mem.byte (bankPa cl b o) = 0)) ∧
  (∀ s cl, (s.cluster cl).arrayFree ≤ s.cycle → s.runGoesOn cl = false →
    (∀ b, ((List.range 4).map fun i => ((s.cluster cl).arbiter + i) % 4).find? (s.wantsArray cl) = some b →
      exec (.arrayArbitration cl) s = .next (s.modCluster cl fun c =>
        { c with arbiter := (b + 1) % 4, served := some (b, Nat.min 16 (2 * (s.bank cl b).weight)) })) ∧
    ((∀ b < 4, s.wantsArray cl b = false) → (s.cluster cl).served ≠ none →
      exec (.arrayArbitration cl) s = .next (s.modCluster cl fun c => { c with served := none }))) ∧
  (∀ s cl b k, b < 4 → s.nextCmd cl b = some k →
    (k.op.usesArray = false →
      ∃ t, exec (.tileCommandStart cl b) s = .next t ∧
        (t.bank cl b).order = (s.bank cl b).order.map (fun y => if y.id = k.id then { y with started := some s.cycle } else y) ∧
        (t.core k.core).cmdQueue = (s.core k.core).cmdQueue - 1 ∧ t.slots = s.slots ∧ t.mem = s.mem) ∧
    (∀ n, k.op.usesArray = true → (s.cluster cl).served = some (b, n + 1) →
      (s.cluster cl).arrayFree + (if (s.cluster cl).arrayBank = none ∨ (s.cluster cl).arrayBank = some b then 0 else 24) ≤ s.cycle →
      ∃ t, exec (.tileCommandStart cl b) s = .next t ∧
        (t.bank cl b).order = (s.bank cl b).order.map (fun y => if y.id = k.id then { y with started := some s.cycle } else y) ∧
        (t.cluster cl).served = some (b, n) ∧ (t.cluster cl).arrayBank = some b ∧
        (t.core k.core).cmdQueue = (s.core k.core).cmdQueue - 1)) ∧
  (∀ s cl b k rest, b < 4 → (s.bank cl b).order = k :: rest → k.due s.cycle = true → k.op = .zero →
    ∃ t, exec (.tileCommandRetire cl b) s = .next t ∧ (t.bank cl b).order = rest ∧
      (∀ i < 64, ∀ j < 128, (t.row cl b k.mode i).getD j 1 = 0) ∧
      (s.stillUnit k.slot k.uid = true → k.batch = (s.slot k.slot).batch → (t.slot k.slot).openCmds = (s.slot k.slot).openCmds - 1)) ∧
  (∀ s cl b k rest f dist n ra qa rb qb sc, cl < 96 → b < 4 → k.core < 768 → (s.bank cl b).order = k :: rest → k.due s.cycle = true →
    k.op = .mma f sc.isSome dist n ra qa rb qb sc → s.lost = [] → s.stillUnit k.slot k.uid = true → k.batch = (s.slot k.slot).batch →
    let size := operandStride f n
    let at_ (r q : Nat) : Nat := (s.ring k.core r).offset q
    let byte (o : Nat) : Nat := (s.mem.byte (scratchPa k.core o)).toNat
    at_ ra qa + 64 * size ≤ 262144 → at_ rb qb + 128 * size ≤ 262144 →
    (∀ x qx y qy, sc = some (x, qx, y, qy) → at_ x qx + 64 + 64 * ceilDiv n 32 ≤ 262144 ∧ at_ y qy + 64 + 128 * ceilDiv n 32 ≤ 262144) →
    ∃ t, exec (.tileCommandRetire cl b) s = .next t ∧ (t.bank cl b).order = rest ∧
      (t.slot k.slot).openCmds = (s.slot k.slot).openCmds - 1 ∧ (t.slot k.slot).regs = (s.slot k.slot).regs ∧
      (∀ core o, core < 768 → o < 262144 → t.mem.byte (scratchPa core o) = s.mem.byte (scratchPa core o)) ∧
      (ra ≠ rb → sc = none → t.ring k.core ra = (s.ring k.core ra).release qa ∧ t.ring k.core rb = (s.ring k.core rb).release qb) ∧
      (∀ x qx y qy, sc = some (x, qx, y, qy) → (s.desynced k.core x qx n 64 || s.desynced k.core y qy n 128) = true →
        t.mem = s.mem ∧ (t.slot k.slot).pend = (s.slot k.slot).pend ++
          [{ cause := 0x0E, addr := 0, seq := k.seq, order := k.id, batch := some k.batch }]) ∧
      (n = 0 → sc = none → t.mem = s.mem) ∧
      (n ≠ 0 → (∀ x qx y qy, sc = some (x, qx, y, qy) → (s.desynced k.core x qx n 64 || s.desynced k.core y qy n 128) = false) →
        (t.slot k.slot).pend = (s.slot k.slot).pend ∧
        ∀ i < 64, (∀ j, 128 ≤ j → (t.row cl b k.mode i)[j]? = (s.row cl b k.mode i)[j]?) ∧
          ∀ j < 128, (t.row cl b k.mode i)[j]? = ((s.row cl b k.mode i)[j]?).map fun old =>
            cell { f := f, dist := dist, k := n, mode := k.mode, rnd := k.tfrm, core := k.core }
              (numLe (s.mem.read (scratchPa k.core (at_ ra qa + i * size)) size))
              (numLe (s.mem.read (scratchPa k.core (at_ rb qb + j * size)) size))
              (fun blk => match sc with
                | none => .one
                | some (x, qx, y, qy) => scaleOf (byte (at_ x qx + 64 + i * ceilDiv n 32 + blk)) (byte (at_ y qy + 64 + j * ceilDiv n 32 + blk)))
              old)) ∧
  (∀ s cl b k rest tr a x bss, cl < 96 → b < 4 → (s.bank cl b).order = k :: rest → k.due s.cycle = true → k.op = .load tr a x → regionFits x = true →
    s.stillUnit k.slot k.uid = true → k.batch = (s.slot k.slot).batch →
    let r := regionOf x false
    let e := laneBytes k.mode
    (∀ err, s.pullAll k.acc k.id 0 (runs a (tileStride x) (if tr then r.nl else r.nr) ((if tr then r.nr else r.nl) * e)) = .bytes bss err →
      ∃ t, exec (.tileCommandRetire cl b) s = .next t ∧ (t.bank cl b).order = rest ∧
        (t.slot k.slot).openCmds = (s.slot k.slot).openCmds - 1 ∧
        (∀ i j, (t.row cl b k.mode i)[j]? = if r.row0 ≤ i ∧ i < r.row0 + r.nr ∧ r.lane0 ≤ j ∧ j < r.lane0 + r.nl
          then some (if tr then fieldLe (bss.getD (j - r.lane0) []) ((i - r.row0) * e) e else fieldLe (bss.getD (i - r.row0) []) ((j - r.lane0) * e) e)
          else (s.row cl b k.mode i)[j]?) ∧
        (t.slot k.slot).pend = (s.slot k.slot).pend ++ match err with
          | none => []
          | some (c, y) => [{ cause := c, addr := y, seq := k.seq, order := k.id, batch := if c = 0x10 then none else some k.batch }]) ∧
    (s.lost = [] → k.acc.core < 768 → k.acc.scratchBound ≤ 262144 → ∀ o (d : Nat), a.toNat = 0xE0 * 2 ^ 56 + o → tileStride x = (d : Int) →
      o + d * ((if tr then r.nl else r.nr) - 1) + (if tr then r.nr else r.nl) * e ≤ k.acc.scratchBound →
      s.pullAll k.acc k.id 0 (runs a (tileStride x) (if tr then r.nl else r.nr) ((if tr then r.nr else r.nl) * e)) =
        .bytes ((List.range (if tr then r.nl else r.nr)).map fun i =>
          s.mem.read (scratchPa k.acc.core (o + d * i)) ((if tr then r.nr else r.nl) * e)) none)) ∧
  (∀ s cl b k rest f a x t err, cl < 96 → b < 4 → (s.bank cl b).order = k :: rest → k.due s.cycle = true → k.op = .store f a x → regionFits x = true →
    let r := regionOf x false
    s.tileStores k ((List.range r.nr).map fun i => (a + wordOfInt ((i : Nat) * tileStride x),
      (List.range r.nl).flatMap fun j => bytesLe (codeBytes f) (storeCode k.mode f k.tfrm ((s.row cl b k.mode (r.row0 + i)).getD (r.lane0 + j) 0)))) =
        .inr (t, err) →
    exec (.tileCommandRetire cl b) s = .next (t.retireTile cl b k err)) ∧
  (∀ s cl b k rest a x scale d t err, cl < 96 → b < 4 → (s.bank cl b).order = k :: rest → k.due s.cycle = true → k.op = .quant a x scale d →
    let r := regionOf x (upperHalf x)
    let n := if d.col then r.nr else r.nl
    let file := (s.bank cl b).residue.begin d x
    let entry (i : Nat) : Nat := if d.col then r.row0 + i else (r.lane0 + i) % 128
    let values (i : Nat) : List Val := if d.col
      then (List.range r.nl).map fun j => bankDecode k.mode ((s.row cl b k.mode (r.row0 + i)).getD (r.lane0 + j) 0)
      else (List.range r.nr).map fun j => bankDecode k.mode ((s.row cl b k.mode (r.row0 + j)).getD (r.lane0 + i) 0)
    let out (i : Nat) := quantChain d.fmt d.blk k.tfrm (file.entries.getD (entry i) 0).toNat (values i)
    let e := quantBytes d.fmt
    let address (i : Nat) : Word := a + wordOfInt ((i : Nat) * signedOf 64 d.stride.toNat)
    let codes : List (Word × List Byte) := if d.col then (List.range r.nr).map fun i => (address i, (out i).1.flatMap (bytesLe e))
      else (List.range r.nr).map fun j => (address j, (List.range r.nl).flatMap fun i => bytesLe e ((out i).1.getD j 0))
    let scales : List Byte := if d.col then (List.range r.nr).flatMap fun i => (out i).2.1.flatMap (bytesLe 1)
      else (List.range (r.nr / 32)).flatMap fun j => (List.range r.nl).flatMap fun i => bytesLe 1 ((out i).2.1.getD j 0)
    r.row0 + r.nr ≤ 64 → r.lane0 + r.nl ≤ laneCount k.mode → file.entries.length = 128 → s.stillUnit k.slot k.uid = true →
    k.batch = (s.slot k.slot).batch → s.tileStores k (codes ++ if d.blk then [(scale, scales)] else []) = .inr (t, err) →
    ∃ u, exec (.tileCommandRetire cl b) s = .next u ∧ (u.bank cl b).order = rest ∧ u.mem = t.mem ∧ u.net = t.net ∧
      (u.slot k.slot).openCmds = (t.slot k.slot).openCmds - 1 ∧ (u.slot k.slot).st = (t.slot k.slot).st ∧
      (∀ i < n, (u.bank cl b).residue.entries[entry i]? = some (BitVec.ofNat 32 (out i).2.2.1)) ∧
      (∀ m, (∀ i < n, entry i ≠ m) → (u.bank cl b).residue.entries[m]? = file.entries[m]?) ∧
      (u.slot k.slot).fflags = if ∃ i < n, (out i).2.2.2 = true then (t.slot k.slot).fflags ||| BitVec.ofNat 64 fQS else (t.slot k.slot).fflags) ∧
  (∀ (s : State) (k : TileCmd) (ws : List (Word × List Byte)), s.stillUnit k.slot k.uid = true → (s.slot k.slot).st < 65535 → ws ≠ [] →
    k.acc.core = coreOf k.slot → k.acc.core < 768 → k.acc.scratchBound ≤ 262144 → s.holdsFor k.slot = [] → (∀ y ∈ s.sendings, y.slot ≠ k.slot) →
    (s.core (coreOf k.slot)).wb = [] → (∀ o ∈ (s.slot k.slot).stores, o.id ≠ s.nextId) →
    (∀ w ∈ ws, w.2 ≠ [] ∧ ∃ o, w.1.toNat = 0xE0 * 2 ^ 56 + o ∧ o + w.2.length ≤ k.acc.scratchBound) →
    ∃ t, s.tileStores k ws = .inr (t, none) ∧ t.mem = s.mem ∧ (t.slot k.slot).st = (s.slot k.slot).st + 1 ∧
      (t.slot k.slot).regs = (s.slot k.slot).regs ∧ (t.slot k.slot).pend = (s.slot k.slot).pend ∧
      ∀ w ∈ ws, ∀ o i y, w.1.toNat = 0xE0 * 2 ^ 56 + o → w.2[i]? = some y →
        ∃ m ∈ t.net, m.core = k.acc.core ∧ ∃ cs, m.body = .write cs ∧ (scratchPa k.acc.core (o + i), y) ∈ cs) ∧
  (∀ (s : State) (k : TileCmd) (ws : List (Word × List Byte)), s.stillUnit k.slot k.uid = true → 65535 ≤ (s.slot k.slot).st → (∀ t e, s.tileStores k ws ≠ .inr (t, e))) ∧
  (∀ (s : State) cl b k rest, (s.bank cl b).order = k :: rest → s.stillUnit k.slot k.uid = true →
    (∀ e, ((s.retireTile cl b k e).bank cl b).order = rest ∧ (s.retireTile cl b k e).mem = s.mem ∧ (s.retireTile cl b k e).net = s.net ∧
      ((s.retireTile cl b k e).slot k.slot).regs = (s.slot k.slot).regs ∧ ((s.retireTile cl b k e).slot k.slot).pend = (s.slot k.slot).pend ++
        match e with
        | none => []
        | some (c, y) => [{ cause := c, addr := y, seq := k.seq, order := k.id, batch := if c = 0x10 then none else some k.batch }]) ∧
    (k.batch = (s.slot k.slot).batch → ∀ e, ((s.retireTile cl b k e).slot k.slot).openCmds = (s.slot k.slot).openCmds - 1 ∧
      ((s.retireTile cl b k e).slot k.slot).tb = (s.slot k.slot).tb) ∧
    (∀ e n, k.batch ≠ (s.slot k.slot).batch → (s.slot k.slot).batches = [(k.batch, n + 1)] →
      ((s.retireTile cl b k e).slot k.slot).batches = (if n = 0 then [] else [(k.batch, n)]) ∧
      ((s.retireTile cl b k e).slot k.slot).tb = if n = 0 then (s.slot k.slot).tb - 1 else (s.slot k.slot).tb)) ∧
  (∀ a b : Val, a.isFin = true → b.isFin = true →
    (∀ d, d ≠ some .l2 → d ≠ some .ham → ∃ v, tileTerm d a b = some v ∧ v.isFin = true ∧ v.rat = a.rat * b.rat) ∧
    (∃ v, tileTerm (some .l2) a b = some v ∧ v.isFin = true ∧ v.rat = (a.rat - b.rat) * (a.rat - b.rat)) ∧
    tileTerm (some .ham) a b = some (valOfInt (if a = b then 0 else 1))) ∧
  (∀ d, ∀ a b : Val, (a.isNan = true ∨ b.isNan = true → tileTerm d a b = none) ∧
    (a.isZero = true → b.isInf = true → d ≠ some .l2 → d ≠ some .ham → tileTerm d a b = none ∧ tileTerm d b a = none)) ∧
  (∀ a b, a < 256 → b < 256 → scaleOf a b = if a = 255 ∨ b = 255 then .nan else .exp ((a : Int) + b - 254)) ∧
  (∀ (x : CellMode) (f : Ieee) (terms : List (Nat × Option Val)) (acc : Nat), x.rnd < 4 → f = fp32 ∨ f = fp16 ∨ f = bf16 → acc < 2 ^ f.width →
    let nan (k : Nat) : Nat := if f = fp32 then 0x7FC00000 + (x.core + 1) % 1024 * 4096 + k % 4096 else f.nanCode
    let met (k : Nat) : Nat := if f = fp32 ∧ (f.decode acc).isNan = true then chooseNan [acc, nan k] else nan k
    stepFloat x f .nan terms acc = met ((terms.map (·.1)).headD 0) ∧
    ∀ sc, sc = .one ∨ (∃ e, sc = .exp e) →
      (∀ before after k, terms = before ++ (k, none) :: after → (∀ t ∈ before, t.2.isSome = true) → stepFloat x f sc terms acc = met k) ∧
      ((∀ t ∈ terms, ∃ v, t.2 = some v ∧ v.isNan = false) → let all := f.decode acc :: terms.filterMap (·.2)
        ((f.decode acc).isNan = true → (∀ v ∈ terms.filterMap (·.2), v.isFin = true) →
          stepFloat x f sc terms acc = if f = fp32 then acc ||| 2 ^ 22 else f.nanCode) ∧
        ((f.decode acc).isNan = false → .inf true ∈ all → .inf false ∈ all → stepFloat x f sc terms acc = nan ((terms.map (·.1)).headD 0)) ∧
        (∀ n, (f.decode acc).isNan = false → .inf n ∈ all → .inf (!n) ∉ all → stepFloat x f sc terms acc = f.signed n f.infCode) ∧
        ((∀ v ∈ all, v.isFin = true) →
          let sum := (f.decode acc).rat + ((terms.filterMap (·.2)).map Val.rat).sum * (match sc with | .exp e => powerOfTwo e | _ => 1)
          (sum ≠ 0 → f.Rounded x.rnd (decide (sum < 0)) (against (absolute sum)) (stepFloat x f sc terms acc)) ∧
          (sum = 0 → stepFloat x f sc terms acc % 2 ^ (f.width - 1) = 0)))) ∧
  (∀ (terms : List (Nat × Option Val)) (acc : Nat) (i : Int), (∀ t ∈ terms, ∃ n m, t.2 = some (.fin n m 0)) →
    (i : Rat) = ((terms.filterMap (·.2)).map Val.rat).sum → stepInt terms acc = ((signedOf 32 acc + i) % 2 ^ 32).toNat) ∧
  (∀ (x : CellMode) a b sc acc, cell { x with k := 0 } a b sc acc = acc ∧
    ∀ t r, 1 ≤ r → r ≤ groupOf x.f →
      let terms := (List.range r).map fun p => (groupOf x.f * t + p,
        tileTerm x.dist (tileElem x.f a (groupOf x.f * t + p)) (tileElem x.f b (groupOf x.f * t + p)))
      let before := cell { x with k := groupOf x.f * t } a b sc acc
      let s := sc (groupOf x.f * t / 32)
      cell { x with k := groupOf x.f * t + r } a b sc acc = match x.mode with
        | .fp32 => stepFloat x fp32 s terms before
        | .fp16 => stepFloat x fp16 s terms before
        | .bf16 => stepFloat x bf16 s terms before
        | .i32 => stepInt terms before) ∧
  (∀ (q : QFmt) (mode : Nat) (n : Int) (res : Nat) (v : Val), mode < 4 →
    (v.isFin = false → quantElem q mode n res v = (match q with
      | .t8 => 0x80 | .t6 => 0x20 | .fp16 => 0x7E00 | .bf16 => 0x7FC0
      | .i8 => if v = .inf true then 0x80 else if v = .inf false then 0x7F else 0, 0, decide (q = .i8 ∧ v.isInf = true))) ∧
    (v.isFin = true → (fp32.decode res).isFin = true →
      let w := v.rat + (fp32.decode res).rat
      let t := w * powerOfTwo (-n)
      let top : Rat := match q with
        | .t8 => 4096 | .t6 => 16 | .i8 => 127 | .fp16 => 65504 | .bf16 => 255 * powerOfTwo 120
      (top < t → quantElem q mode n res v = (match q with | .t8 => 0x7F | .t6 => 0x1F | .i8 => 0x7F | .fp16 => 0x7BFF | .bf16 => 0x7F7F, 0, true)) ∧
      (t < (if q = .i8 then -128 else -top) →
        quantElem q mode n res v = (match q with | .t8 => 0x81 | .t6 => 0x21 | .i8 => 0x80 | .fp16 => 0xFBFF | .bf16 => 0xFF7F, 0, true)) ∧
      (t ≤ top → (if q = .i8 then -128 else -top) ≤ t → ∃ c r, quantElem q mode n res v = (c, r, false) ∧
        let left := w - (quantDecode q c).rat * powerOfTwo n
        (left ≠ 0 → fp32.Rounded 0 (decide (left < 0)) (against (absolute left)) r) ∧ (left = 0 → r % 2 ^ 31 = 0) ∧
        (t = 0 → (quantDecode q c).rat = 0) ∧
        (t ≠ 0 → match q with
          | .t8 => ∃ fl, TaperedCorrect 8 mode (decide (t < 0)) (absolute t) (c, fl)
          | .t6 => ∃ fl, TaperedCorrect 6 mode (decide (t < 0)) (absolute t) (c, fl)
          | .fp16 => fp16.Rounded mode (decide (t < 0)) (against (absolute t)) c
          | .bf16 => bf16.Rounded mode (decide (t < 0)) (against (absolute t)) c
          | .i8 => ∃ i : Int, RoundsTo mode t i ∧ c = (i % 256).toNat)))) ∧
  (∀ (q : QFmt) (vs : List Val),
    let top : Rat := match q with
      | .t8 => 4096 | .t6 => 16 | .i8 => 127 | .fp16 => 65504 | .bf16 => 255 * powerOfTwo 120
    let n := blockExp q vs
    ((∀ v ∈ vs, v.rat = 0) → n = 0) ∧
    ((∃ v ∈ vs, v.rat ≠ 0) → -127 ≤ n ∧ n ≤ 127 ∧ (n < 127 → ∀ v ∈ vs, absolute v.rat ≤ top * powerOfTwo n) ∧
      (-127 < n → ∃ v ∈ vs, top * powerOfTwo (n - 1) < absolute v.rat))) ∧
  (∀ (q : QFmt) (mode res : Nat),
    (∀ n, quantRun q mode n res [] = ([], res, false)) ∧
    (∀ n v vs, let e := quantElem q mode n res v
      let r := quantRun q mode n e.2.1 vs
      quantRun q mode n res (v :: vs) = (e.1 :: r.1, r.2.1, e.2.2 || r.2.2)) ∧
    (∀ vs, let r := quantRun q mode 0 res vs
      quantChain q false mode res vs = (r.1, [], r.2.1, r.2.2)) ∧
    quantChain q true mode res [] = ([], [], res, false) ∧
    ∀ vs rest, vs.length = 32 → let r := quantRun q mode (blockExp q vs) res vs
      let c := quantChain q true mode r.2.1 rest
      quantChain q true mode res (vs ++ rest) = (r.1 ++ c.1, (blockExp q vs + 127).toNat :: c.2.1, c.2.2.1, r.2.2 || c.2.2.2)) ∧
  (∀ s core n g ids rest, (s.ring core n).claims = (g, ids) :: rest → (∀ o ∈ (s.slot g).stores, o.id ∉ ids) →
    ∃ t k, exec (.ringTailAdvance core n) s = .next t ∧ 1 ≤ k ∧ (t.ring core n).tail = ((s.ring core n).tail + k) % 2 ^ 16 ∧
      (t.ring core n).claims = (s.ring core n).claims.drop k ∧ (t.ring core n).next = (s.ring core n).next ∧ t.slots = s.slots ∧ t.mem = s.mem ∧
      ∀ x, (t.ring core n).claims.head? = some x → ∃ o ∈ (s.slot x.1).stores, o.id ∈ x.2)

/-- R328, R329 and R423: the top-k unit takes its input's next element, and keeps the k best of a run or puts them out before the
token that ends it; the ridge takes the oldest entry of a die's inbound queue, and a post goes on to the host ring of its job, with the message of vector 3
where that is sent. The order in which a slot's posts are sent is the model's choice (log 55), and so is the vector's mask (log 79). -/
def Obligations.TopKAndPostSteps : Prop :=
  (∀ s cl x e t, (s.cluster cl).topk = some x → s.enginesRest (s.slot x.slot).launch = false → x.out = [] → s.topkPop x = some (e, t) →
    ∃ u, exec (.topkElement cl) s = .next u ∧ (u.cluster cl).topk = some (x.take e)) ∧
  (∀ s cl x e rest t, (s.cluster cl).topk = some x → s.enginesRest (s.slot x.slot).launch = false → x.out = e :: rest →
    s.topkPush cl x e = some t → exec (.topkElement cl) s = .next t ∧ (t.cluster cl).topk = some { x with out := rest }) ∧
  (∀ (x : TopK) (e : Elem), e.tag = 0 → (x.kept.length ≤ x.k → (x.take e).kept.length = Nat.min x.k (x.kept.length + 1)) ∧
    (∀ v ∈ (x.take e).kept, v = e.data ∨ v ∈ x.kept) ∧ (x.take e).out = x.out) ∧
  (∀ (x : TopK) (e : Elem), e.tag ≠ 0 → x.level ≤ e.tag →
    (x.take e).kept = [] ∧ (x.take e).out = (x.kept.map fun v => { data := v, tag := 0 }) ++ [e]) ∧
  (∀ s d e rest, (s.die d).inbound = e :: rest → (s.die d).inWaiting = [] → e.kind ≠ 1 →
    ∃ t, exec (.postForward d) s = .next t ∧ (t.die d).inbound = rest ∧
      (t.die d).rqhead = BitVec.ofNat 64 (((s.die d).rqhead.toNat + 1) % 2 ^ 32) ∧ t.ports = s.ports) ∧
  (∀ s d e rest, (s.die d).inbound = e :: rest → (s.die d).inWaiting = [] → e.kind = 1 →
    (Tab.getD (s.port (s.job e.job).port).rings 2 {}).roomy = true →
    ∃ t h more, exec (.postForward d) s = .next t ∧ (t.die d).inbound = rest ∧ t.mem = s.mem ∧ (t.port (s.job e.job).port).posted =
      (s.port (s.job e.job).port).posted ++ h :: more ∧ h.bytes = inboundBytes e ∧ (more = [] ∨ more = [(s.port (s.job e.job).port).message 3]))

/-! ## Steps of the ridge and the units (R154 to R156, R161, R174 to R182, R195 to R201, R205, R207, R405) -/

/-- R155, R156, R161, R175, R177 to R181, R201, R205 and R207: the ridge takes a record of a device queue, and places or fails a
head: a placed launch has every stage running in a slot that was empty, with its ports, and its queues empty; a head that waited 64
times is placed before any other; a root unit starts with x49 and x50 at the top of its stack window and with zeros in a scratchpad
that it takes; a unit that has stopped with its counters at 0 leaves an empty slot, and with the last one the launch has its status;
a replica starts where a queue was more than half full at two successive samples; a cancelled launch's units stop, and no other's;
a waiting task and a resting parent whose children have ended take an empty slot; a spawn reserves the next entry of its queue, or
is answered -1 by a full one; a cancellation is applied; a replica that has waited 8,192 cycles ends; a thread migrates and keeps its
registers; the load registers are sampled. The model's choice are the scratchpad of a core that a task finds (log 17), the order in
which a decision looks at records, heads and stages (logs 40, 41 and 86), the generation of a stage's units (log 108), who counts for
a replica (log 119) and when a replica is idle (log 42), what an ended unit leaves to its engines (log 44), and how a migration's
release and its slot go on (logs 14 and 24). -/
def Obligations.UnitsComeAndGo : Prop :=
  (∀ (s : State) t, s.placement = some t → exec .placementDecision s = .next t) ∧
  (∀ (s : State) q l r rest, deviceQueues.findSome? s.takeSpawn = none → s.subQs.keys.findSome? s.takeRecord = none →
    s.heads = (q, l) :: rest → s.failReason (s.launch l) = some r → ∃ t : State, exec .placementDecision s = .next t ∧
      t = s.failHead q l r ∧ t.slots = s.slots ∧ t.mem = s.mem ∧ (t.subQ q).waiting = (s.subQ q).waiting.drop 1 ∧
      ((s.launch l).status = 0 → (t.launch l).status = 2)) ∧
  (∀ (s t : State) q l, deviceQueues.findSome? s.takeSpawn = none → s.subQs.keys.findSome? s.takeRecord = none → s.heads = [(q, l)] →
    s.failReason (s.launch l) = none → s.predsDone (s.launch l) = true → s.frozen l = false → (s.subQ q).prio < 8 → s.place l = some t →
    ∃ u : State, exec .placementDecision s = .next u ∧ u.slots = t.slots ∧ u.mem = t.mem ∧ u.launches = t.launches ∧ u.queues = t.queues ∧
      (u.subQ q).waiting = (s.subQ q).waiting.drop 1 ∧ (u.subQ q).passes = 0) ∧
  (∀ (s t : State) q l r m, deviceQueues.findSome? s.takeSpawn = none → s.subQs.keys.findSome? s.takeRecord = none →
    (s.heads = [(q, l), (r, m)] ∨ s.heads = [(r, m), (q, l)]) → (∀ x ∈ [l, m], s.failReason (s.launch x) = none ∧
      s.predsDone (s.launch x) = true ∧ s.frozen x = false) → (s.subQ r).prio < (s.subQ q).prio → (s.subQ q).prio < 8 → (s.subQ r).passes < 64 →
    (s.place l = some t → ∃ u : State, exec .placementDecision s = .next u ∧ u.slots = t.slots ∧ u.launches = t.launches ∧
      (u.subQ r).waiting = (s.subQ r).waiting) ∧
    (s.place l = none → s.place m = some t → (s.subQ q).passes < 64 → ∃ u : State, exec .placementDecision s = .next u ∧ u.slots = t.slots ∧
      u.launches = t.launches ∧ (u.subQ q).passes = (s.subQ q).passes + 1 ∧ (u.subQ q).waiting = (s.subQ q).waiting) ∧
    (s.place l = none → 64 ≤ (s.subQ q).passes → exec .placementDecision s = .fault .eventNotEnabled)) ∧
  (∀ (s t : State) l, s.place l = some t → (t.launch l).placed = true ∧ (t.launch l).barrierIds.length = (s.launch l).kernel.barriers ∧
    (t.launch l).cores.length = (s.launch l).kernel.stages.length ∧ (∀ h, h ≠ l → t.launch h = s.launch h) ∧
    (∀ i st, (s.launch l).kernel.stages[i]? = some st → ∃ (c g : Nat) (u : UnitInfo), (t.launch l).cores[i]? = some c ∧ g ∈ slotsOf c ∧
      (s.slot g).status = .empty ∧ (t.slot g).status = .running ∧ (t.slot g).pc = word ((s.launch l).image + st.entry) ∧
      (t.slot g).unit = some u ∧ u.launch = l ∧ u.stage = i ∧ u.parent = none ∧ u.kind = .stage ∧ (t.slot g).ports = stagePorts (t.launch l) i) ∧
    (∀ j e, (s.launch l).kernel.queues[j]? = some e → ∃ (n : Nat) (q : Queue), (t.launch l).queueIds[j]? = some n ∧
      Tab.get? t.queues n = some q ∧ q.launch = l ∧ q.entry = j ∧ q.elems = [] ∧ q.flights = [] ∧ q.depth = e.depth ∧ q.ring = e.ring ∧
      q.core = (t.launch l).cores.getD e.to_ 0) ∧
    (∀ h, (s.slot h).status ≠ .empty → (s.slot h).launch ≠ l → t.slot h = s.slot h)) ∧
  (∀ (s t : State) l c stage kind member uid, s.startUnit l c stage kind member = some (uid, t) → ∃ (g : Nat) (u : UnitInfo),
    s.emptyOn c = some g ∧ (s.slot g).status = .empty ∧ (t.slot g).status = .running ∧ (t.slot g).unit = some u ∧ u.launch = l ∧
    u.stage = stage ∧ u.uid = uid ∧ u.root = uid ∧ u.parent = none ∧ u.kind = kind ∧
    (t.slot g).pc = word ((s.launch l).image + ((s.launch l).stage stage).entry) ∧
    (t.slot g).x 49 = word (0xE800000000000000 + (s.launch l).stackBytes) ∧ (t.slot g).x 50 = (t.slot g).x 49 ∧
    (∀ i v, (s.launch l).args[i]? = some v → i < 48 → (t.slot g).x (i + 1) = v) ∧
    (∀ i, (s.launch l).args.length < i → i < 49 → (t.slot g).x i = 0) ∧
    (∀ h, h ≠ g → t.slot h = s.slot h) ∧
    (((s.launch l).stage stage).scratch ≠ 0 → (s.core c).scratchOwner ≠ some l →
      (t.core c).scratchOwner = some l ∧ ∀ o < 0x40000, t.mem.byte (scratchPa c o) = 0)) ∧
  (∀ (s : State) g u, (s.slot g).unit = some u → u.how ≠ 0 → (s.slot g).status = .stopped →
    (s.slot g).ld = 0 → (s.slot g).st = 0 → (s.slot g).cp = 0 → (s.slot g).tb = 0 →
    ∃ t : State, exec (.unitEnd g) s = .next t ∧ t = s.endUnit g u ∧ (t.slot g).unit = none ∧ (t.slot g).status = .empty ∧
      ((s.slot g).pend ≠ [] → (t.launch u.launch).failed = true) ∧
      ((s.slot g).pend = [] → (s.launch u.launch).count = 1 → (s.launch u.launch).status = 0 → (t.launch u.launch).status =
        if (s.launch u.launch).failed then 2 else if (s.launch u.launch).cancelled then 3 else 1) ∧
      ((s.slot g).pend = [] → 2 ≤ (s.launch u.launch).count → u.parent = none →
        (∃ h : Nat, h ≠ g ∧ coreOf h = coreOf g ∧ (s.slot h).launch = u.launch ∧ (s.slot h).unit.isSome = true) →
        (t.launch u.launch).count = (s.launch u.launch).count - 1 ∧ t.mem = s.mem ∧ ∀ h, h ≠ g → t.slot h = s.slot h)) ∧
  (∀ (s : State) l, (s.launch l).status = 0 → ((s.cancelLaunch l).launch l).cancelled = true ∧ (s.cancelLaunch l).mem = s.mem ∧
    (∀ q, l ∉ ((s.cancelLaunch l).subQ q).waiting) ∧
    (∀ g u, (s.slot g).unit = some u → u.launch = l → ((s.cancelLaunch l).slot g).cancelled = true ∧
      ((s.cancelLaunch l).slot g).unit = some { u with how := if u.how = 0 then 2 else u.how } ∧
      ((s.slot g).status = .running → ((s.cancelLaunch l).slot g).status = .stopped) ∧
      ((s.cancelLaunch l).slot g).regs = (s.slot g).regs) ∧
    (∀ g, (s.slot g).launch ≠ l → (s.cancelLaunch l).slot g = s.slot g)) ∧
  (∀ (s : State) d l stage, let t := s.balance d l stage
    let full (x : Nat × Nat × Queue) : Prop := x.2.2.depth < 2 * (x.2.2.elems.length + x.2.2.backlog.length)
    (∀ x ∈ s.inputsOf l stage, (d, x.1) ∈ (t.launch l).crowded ↔ full x) ∧
    (((∀ x ∈ s.inputsOf l stage, full x → (d, x.1) ∉ (s.launch l).crowded) ∨ ((s.launch l).stage stage).replicas + 1 ≤ s.stageUnits l stage) →
      t.slots = s.slots ∧ t.mem = s.mem ∧ (t.launch l).count = (s.launch l).count) ∧
    (∀ x ∈ s.inputsOf l stage, full x → (d, x.1) ∈ (s.launch l).crowded → s.stageUnits l stage < ((s.launch l).stage stage).replicas + 1 →
      s.canHold l (s.emptiest (coresOfDie d)) ((s.launch l).stage stage) (s.launch l).kernel.rings 0 = true →
      ∀ uid u, s.startUnit l (s.emptiest (coresOfDie d)) stage .replica false = some (uid, u) →
        t.slots = u.slots ∧ t.mem = u.mem ∧ (t.launch l).count = (s.launch l).count + 1)) ∧
  (∀ (s : State) l t rest g u, (s.launch l).tasks = t :: rest → s.frozen l = false → s.mayStart t = true → s.placeTask l t = some (g, u) →
    ∃ x : State, exec (.taskStart l) s = .next x ∧ (x.launch l).tasks = rest ∧ (x.slot g).status = .running ∧ (x.slot g).regs = t.slot.regs ∧
      (x.slot g).pc = t.slot.pc ∧ (x.slot g).unit = t.slot.unit ∧ x.mem = u.mem ∧ ∀ h, h ≠ g → x.slot h = s.slot h) ∧
  (∀ (s : State) unit l t g u v, s.restingOf unit = some (l, t) → t.slot.unit = some u → u.children = 0 → s.mayStart t = true → s.frozen l = false →
    s.placeTask l t = some (g, v) →
    ∃ x : State, exec (.parentResume unit) s = .next x ∧ (x.slot g).status = .running ∧ (x.slot g).regs = t.slot.regs ∧
      (x.slot g).pc = t.slot.pc ∧ (x.slot g).unit = some u ∧ x.mem = v.mem ∧ ∀ h, h ≠ g → x.slot h = s.slot h) ∧
  (∀ (s u : State) l t g, s.placeTask l t = some (g, u) → (s.slot g).status = .empty ∧ ∃ w : UnitInfo, t.slot.unit = some w ∧
    (((s.launch l).stage w.stage).scratch = 0 → u = s) ∧
    (((s.launch l).stage w.stage).scratch ≠ 0 → (u.core (coreOf g)).scratchOwner = some l ∧
      ((s.core (coreOf g)).scratchOwner = none → ∀ o < 0x40000, u.mem.byte (scratchPa (coreOf g) o) = 0))) ∧
  (∀ (s : State) c r, s.cancels = c :: r → s.aged c.sent = true →
    exec .cancellationApply s = .next ({ s with cancels := r }.cancelObjectNow c.level c.key)) ∧
  (∀ (s : State) r rest q, s.spawns = r :: rest → Tab.getD (s.die r.die).spawnQ r.index {} = q →
    (q.tail - q.head < 256 →
      ∃ (t : State) (x : DeviceQueue), exec .spawnReservation s = .next t ∧ t.spawns = rest ∧ t.mem = s.mem ∧ t.slots = s.slots ∧
        t.replies = s.replies ++ [{ slot := r.slot, uid := (s.slot r.slot).uid, id := r.id, bytes := bytesLe 8 (q.tail % 2 ^ 32) }] ∧
        Tab.get? (t.die r.die).spawnQ r.index = some x ∧ x.tail = q.tail + 1 ∧ x.head = q.head ∧
        Tab.get? x.entries (q.tail % 2 ^ 32) = some (false, r.record)) ∧
    (256 ≤ q.tail - q.head → exec .spawnReservation s = .next { s with
      spawns := rest
      replies := s.replies ++ [{ slot := r.slot, uid := (s.slot r.slot).uid, id := r.id, bytes := bytesLe 8 (2 ^ 64 - 1) }] })) ∧
  (∀ (s : State) d, s.cycle % 1024 = 0 → d < 4 → exec (.balancerSample d) s = .next ((s.replicable d).foldl (fun t e => t.balance d e.1 e.2) s)) ∧
  (∀ (s : State) g u, (s.slot g).unit = some u → (s.slot g).idledOut s.cycle = true → s.waitsEmpty (s.slot g) = true →
    ∃ t : State, exec (.replicaIdleEnd g) s = .next t ∧ (t.slot g).status = .stopped ∧ (t.slot g).unit = some { u with how := 1 }) ∧
  (∀ (s : State) c g, (slotsOf c).find? (fun h => (s.slot h).runs && s.movable (s.slot h)) = some g → s.cycle % 4096 = 0 → c < 768 → 12 ≤ s.loadOf c →
    s.loadOf (s.leastLoaded (clusterOf c)) + 4 ≤ s.loadOf c → (s.emptyOn (s.leastLoaded (clusterOf c))).isSome = true →
    s.frozen (s.slot g).launch = false → (s.core c).wb = [] →
    ∃ (t : State) (m : Migration), exec (.migrationCheck c) s = .next t ∧ t.migrations = s.migrations ++ [m] ∧ m.origin = g ∧ m.release = s.nextId ∧
      m.target = s.leastLoaded (clusterOf c) ∧ m.back = false ∧ m.thread.regs = (s.slot g).regs ∧
      m.thread.pc = (s.slot g).pc ∧ (t.slot g).status = .stopped ∧ t.mem = s.mem) ∧
  (∀ (s : State) i m, s.migrations[i]? = some m → m.back = false → (∀ r ∈ (s.slot m.origin).releases, r.id ≠ m.release) → s.migrationVoid m = false →
    (∀ g, s.emptyOn m.target = some g → g ≠ m.origin →
      (∃ h : Nat, h ≠ m.origin ∧ coreOf h = coreOf m.origin ∧ (s.slot h).launch = (s.slot m.origin).launch ∧ (s.slot h).unit.isSome = true) →
      ∃ t : State, exec (.migrationMessage i) s = .next t ∧ (t.slot g).regs = m.thread.regs ∧ (t.slot g).pc = m.thread.pc ∧
        (t.slot g).unit = (s.slot m.origin).unit ∧ (t.slot m.origin).status = .empty ∧ t.migrations = s.migrations.eraseIdx i) ∧
    (s.emptyOn m.target = none →
      exec (.migrationMessage i) s = .next { s with migrations := s.migrations.set i { m with back := true } })) ∧
  (∀ (s : State) m, s.migrations.find? (·.back) = some m → s.migrationVoid m = false →
    ∃ t : State, exec .migrationReturn s = .next t ∧ (t.slot m.origin).regs = m.thread.regs ∧ (t.slot m.origin).pc = m.thread.pc ∧
      t.migrations = s.migrations.erase m ∧ t.mem = s.mem) ∧
  (∀ s : State, s.cycle % 64 = 0 → ∃ t : State, exec .loadRegisterUpdate s = .next t ∧ t.slots = s.slots ∧ t.mem = s.mem ∧
    ∀ c < 96, (t.cluster c).loads = s.loadsOf c)

/-- R168, R169, R183, R191, R195 to R198, R209, R405, R406 and R456: a barrier object takes the oldest request of a unit, raises C when
every member has arrived and tells its members; a unit hears it, and the reply of a join ends bar.join, with the resource-bound fault
where the barrier is full; a message enters its mailbox when a unit of the launch is there; an element of a ring queue hops on while
the next hop has a free entry, the entries of an eave port being those of the queue, and waits while a link retrains, and enters its
home; a probe takes its two samples and answers; a pre-emption goes through its steps: it waits for its slots, releases the stores of
their cores, waits for loads, engines and copies, records at its deadline the copies that run, and saves every thread with its registers.
The model's choice are the order of the requests to a barrier (log 25) and of messages to a mailbox (log 26), who sends the answer of a
probe (log 27) and what a discarded message counts (log 28), when a message may arrive (logs 72 and 114), the order of a pre-emption's
steps and what they wait for (logs 56, 57, 58), its records (log 59) and the copies that it stops (log 61). -/
def Obligations.MessagesBarriersAndProbes : Prop :=
  (∀ (s : State) i r id b, s.barReqs[i]? = some r → (∀ x ∈ s.barReqs.take i, x.uid ≠ r.uid) → (s.launch r.launch).barrierIds[r.n]? = some id →
    s.crossed (dieOf r.slot) (s.launch r.launch).barrierDie r.sent = true →
    Tab.get? (s.die (s.launch r.launch).barrierDie).barriers id = some b → (b.last.1 ≠ s.cycle ∨ b.last.2 ≤ r.slot) →
    ∃ (t : State) (x : Barrier), exec (.barrierRequest i) s = .next t ∧ t.barReqs = s.barReqs.eraseIdx i ∧ t.barAns = s.barAns ++ b.answers (b.apply r) r ∧
      Tab.get? (t.die (s.launch r.launch).barrierDie).barriers id = some x ∧ x.c = (b.apply r).c ∧ x.members = (b.apply r).members) ∧
  (∀ (b : Barrier) (r : BarrierReq) (p : Nat), r.kind = 0 → Tab.get? b.members r.uid = some p →
    Tab.get? (b.apply r).members r.uid = some (p + 1) ∧
    (∀ k n, (k, n) ∈ (b.apply r).members → (b.apply r).c ≤ n) ∧ (∃ k : Nat, (k, (b.apply r).c) ∈ (b.apply r).members) ∧
    (b.c < (b.apply r).c → ∀ k n, (k, n) ∈ (b.apply r).members →
      { uid := k, n := r.n, p := 0, c := (b.apply r).c, join := false, full := false } ∈ b.answers (b.apply r) r)) ∧
  (∀ (s : State) i a h, s.barAns[i]? = some a → (∀ x ∈ s.barAns.take i, x.uid ≠ a.uid ∨ x.n ≠ a.n) → s.slotOfUnit a.uid = some h →
    s.crossed (s.launch (s.slot h).launch).barrierDie (dieOf h) a.sent = true →
    (a.join = false → ∃ t : State, exec (.barrierReply i) s = .next t ∧ t.barAns = s.barAns.eraseIdx i ∧ t.mem = s.mem ∧
      ∀ g, (s.slot g).unit.isSome = true → (s.slot g).uid = a.uid → t.slot g = (s.slot g).hear a) ∧
    (∀ p, a.join = true → a.full = false → s.LastOf h p → p.finish = .none →
      ∃ t : State, exec (.barrierReply i) s = .next t ∧ t.barAns = s.barAns.eraseIdx i ∧ t.mem = s.mem ∧ (t.slot h).pending = none ∧
        (t.slot h).status = .parked .eligible ∧ (t.slot h).pc = ((s.slot h).advance p.len).pc ∧ (t.slot h).regs = (s.slot h).regs ∧
        Tab.get? (t.slot h).views a.n = some { member := true, p := a.p, c := a.c, mark := false }) ∧
    (∀ p, a.join = true → a.full = true → s.LastOf h p → p.popped = [] → (s.slot h).handles = true →
      ∃ t : State, exec (.barrierReply i) s = .next t ∧ (t.slot h).pc = (s.slot h).thand ∧ (t.slot h).tip = (s.slot h).pc ∧
        (t.slot h).tcause = BitVec.ofNat 64 (2 ^ 63 + 4) ∧ (t.slot h).tinfo = 6)) ∧
  (∀ (s : State) i m, s.mails[i]? = some m → (∀ x ∈ s.mails.take i, x.sender ≠ m.sender ∨ x.core ≠ m.core ∨ x.box ≠ m.box) →
    s.crossed m.dieFrom (dieOfCore m.core) m.sent = true →
    exec (.mailboxMessageArrival i) s = .next ({ s with mails := s.mails.eraseIdx i }.deliverMail m) ∧
    (s.mailWelcome m = true → Tab.get? (s.core m.core).mail m.box = none → (∀ x ∈ (s.core m.core).waitMail, x.box ≠ m.box) → m.op = none →
      ∃ t : State, exec (.mailboxMessageArrival i) s = .next t ∧ Tab.get? (t.core m.core).mail m.box = some m ∧
        (t.core m.core).waitMail = (s.core m.core).waitMail ∧
        t.mem.read (mailboxPa m.core m.box 0) m.body.length = m.body)) ∧
  (∀ (s : State) q i x f, Tab.get? s.queues q = some x → x.flights[i]? = some f → f.hop < f.last →
    (∀ y ∈ x.flights.take i, y.by_ ≠ f.by_ ∨ y.hop ≠ f.hop) →
    let there := (x.flights.filter fun y => y.portAt (dieOfCore x.core) y.hop == f.portAt (dieOfCore x.core) (f.hop + 1)).length
    (there < 2 → (∀ p, f.portAt (dieOfCore x.core) f.hop = some p → s.linkOpen p = true) → exec (.ringQueueHop q i) s = .next { s with
      queues := Tab.set s.queues q { x with flights := x.flights.set i { f with hop := f.hop + 1 } } }) ∧
    (2 ≤ there → exec (.ringQueueHop q i) s = .fault .eventNotEnabled) ∧
    (∀ p, f.portAt (dieOfCore x.core) f.hop = some p → 16 ≤ Tab.getD s.links (linkAt p) 0 →
      exec (.ringQueueHop q i) s = .fault .eventNotEnabled)) ∧
  (∀ (s : State) q i x f, Tab.get? s.queues q = some x → x.flights[i]? = some f → f.hop = f.last → (∀ y ∈ x.flights.take i, y.by_ ≠ f.by_) →
    s.crossed f.die (dieOfCore x.core) f.sent = true → f.elem.oseg = none → x.backlog = [] → x.elems.length < x.depth →
    ∃ (t : State) (y : Queue), exec (.ringQueueElementArrival q i) s = .next t ∧ Tab.get? t.queues q = some y ∧
      y.elems = x.elems ++ [{ f.elem with seg := x.tokens }] ∧ y.backlog = [] ∧ y.flights = x.flights.eraseIdx i ∧ t.slots = s.slots) ∧
  (∀ (s : State) k p, s.probes.findIdx? (·.sample.isNone) = some k → s.probes[k]? = some p →
    exec .duskSample1 s = .next { s with probes := s.probes.set k { p with sample := some (s.cycle, s.sampleDies p.launch) } }) ∧
  (∀ (s : State) p c xs, s.probes.find? (·.due s.cycle) = some p → p.sample = some (c, xs) →
    c + 64 ≤ s.cycle ∧ ∃ (t : State) (m : Mail), exec .duskSample2 s = .next t ∧ t.probes = s.probes.erase p ∧ t.mails = s.mails ++ [m] ∧
      m.core = p.core ∧ m.box = p.box ∧ m.body = answerBody p xs (s.sampleDies p.launch)) ∧
  (∀ (s : State) p, s.preempts.find? s.overdue = some p → ∃ t : State, exec .preemptionDeadline s = .next t ∧
    t.preempts = s.preempts.map (fun x => if x = p then { x with late := true } else x) ∧ t.slots = s.slots ∧ t.mem = s.mem) ∧
  (∀ (s : State) t, s.preempts.findSome? s.preemptStep = some t → exec .preemptionComplete s = .next t) ∧
  (∀ (s : State) p, s.preempts = [p] → let us := s.objectSlots (s.launchesOf p.level p.key)
    (p.phase = 1 → s.objectStopped (s.launchesOf p.level p.key) us = true → ∃ (t : State) (w : List (Nat × Nat)),
      exec .preemptionComplete s = .next t ∧ t.preempts = [{ p with phase := 2, waits := w }] ∧ w.map (·.1) = firstOnCores us ∧
      t.launches = s.launches) ∧
    (p.phase = 1 → (∃ e ∈ us, e.2.status ≠ .stopped) → exec .preemptionComplete s = .fault .eventNotEnabled) ∧
    (p.phase = 2 → s.releasesDone p us = true → s.sendsDone (s.launchesOf p.level p.key) = true →
      exec .preemptionComplete s = .next { s with preempts := [{ p with phase := 3, waits := [] }] }) ∧
    (p.phase = 4 → s.enginesDone (s.launchesOf p.level p.key) us = true → p.waits ≠ [] → s.releasesDone p us = true →
      exec .preemptionComplete s = .next { s with preempts := [{ p with phase := 5, waits := [] }] }) ∧
    (p.phase = 5 → s.copiesOf (s.launchesOf p.level p.key) = [] → ∃ n < 2 ^ 12,
      exec .preemptionComplete s = .next { s with preempts := [{ p with phase := 6, saveStacks := n }] }) ∧
    (p.phase = 5 → s.copiesOf (s.launchesOf p.level p.key) ≠ [] → p.late = false →
      exec .preemptionComplete s = .fault .eventNotEnabled)) ∧
  (∀ (s : State) p l, s.preempts = [p] → p.phase = 6 → s.launchesOf p.level p.key = [l] →
    s.objectStopped [l] (s.objectSlots [l]) = true → (∀ k ∈ s.retrain, p.saveStacks / 2 ^ k % 2 = 0) → (s.launch l).status = 0 →
    (s.launch l).cancelled = false → (s.launch l).placed = true → (s.launch l).saved = none → ∃ (t : State) (ts : List Thread),
      exec .preemptionComplete s = .next t ∧ t.preempts = [{ p with phase := 7, waits := [] }] ∧ (t.launch l).saved = some ts ∧
      (∀ g u, (s.slot g).unit = some u → u.launch = l → (t.slot g).unit = none ∧ ∃ x ∈ ts, x.origin = g ∧ x.core = coreOf g ∧
        x.slot.regs = (s.slot g).regs ∧ x.slot.pc = (s.slot g).pc ∧ x.slot.ports = (s.slot g).ports ∧ x.slot.fflags = (s.slot g).fflags) ∧
      ∀ g, (s.slot g).launch ≠ l → (s.slot g).unit.isSome = true → (t.slot g).regs = (s.slot g).regs) ∧
  (∀ (s : State) p, s.preempts = [p] →
    (p.phase = 3 → (∀ e ∈ s.objectSlots (s.launchesOf p.level p.key), e.2.ld = 0) →
      exec .preemptionComplete s = .next { s with preempts := [{ p with phase := 4, waits := [] }] }) ∧
    (p.phase = 5 → p.late = true → s.copiesOf (s.launchesOf p.level p.key) ≠ [] →
      exec .preemptionComplete s = .next ((s.copiesOf (s.launchesOf p.level p.key)).foldl State.recordCopy s)) ∧
    (p.phase = 6 → s.objectStopped (s.launchesOf p.level p.key) (s.objectSlots (s.launchesOf p.level p.key)) = true → s.retrain = [] →
      exec .preemptionComplete s = .next (s.savedObject p)))

/-! ## What the hosts do (R442 to R449, R464, R465) -/

/-- R447: a command that a port gives before the module is ready, or while another runs, is ignored: dberr is set; one on a job that
is not there, or is complete, is answered with status 1, and one on a job of the other port with status 3; nothing else changes.
What is answered about a job that is complete or of the other port is the model's reading (log 62), and so is what a command before
READY does (log 64). -/
def Obligations.CommandsRefused : Prop :=
  ∀ (s : State) (p n job : Nat) (mk : Nat → Nat → Nat → Instr),
    (mk = .closeJob ∨ (∃ q r, mk = fun p n j => .bindHostQueue p n j q r) ∨ (∃ d i r, mk = fun p n j => .bindDeviceQueue p n j d i r) ∨
      (∃ v b x y, mk = fun p n j => .mapRange p n j v b x y) ∨ (∃ v b, mk = fun p n j => .unmapRange p n j v b) ∨
      (∃ l o d, mk = fun p n j => .preEmpt p n j l o d) ∨ (∃ l o, mk = fun p n j => .resume p n j l o) ∨
      (∃ l o, mk = fun p n j => .cancelObject p n j l o) ∨ (∃ v b r, mk = fun p n j => .fabricExport p n j v b r) ∨
      (∃ k l, mk = fun p n j => .fabricGroup p n j k l) ∨ (∃ d r v b, mk = fun p n j => .fabricRing p n j d r v b)) →
    (p < 2 → (s.port p).d3 = false → (s.ready = false ∨ (s.port p).busy ≠ none) →
      ∃ t, exec (mk p n job) s = .next t ∧ (t.port p).dberr = true ∧ t.jobs = s.jobs ∧ t.slots = s.slots ∧ t.mem = s.mem) ∧
    (s.Commands p → Tab.get? s.jobs job = none → exec (mk p n job) s = .next (s.answered p n 1 0 0)) ∧
    (∀ j, s.Commands p → Tab.get? s.jobs job = some j → j.port ≠ p → exec (mk p n job) s = .next (s.answered p n 3 0 0)) ∧
    (∀ j, s.Commands p → Tab.get? s.jobs job = some j → j.port = p → j.status ≠ 0 → exec (mk p n job) s = .next (s.answered p n 1 0 0))

/-- R405, R408, R447, R448 and R451: a command that can be carried out is, and is answered with status 0: OPEN_JOB with the new
job's number and its ASID, the lowest not held; a bind enables the queue; a close closes the stream; a map, an unmap, a cancel,
a resume, an export and a fabric ring take effect; PRE_EMPT stops the units of its object and runs on. An unmap, a resume and a cancel
whose action has not completed keep the port busy and wait, and so does a group, whose IDs are read at the bus address of its word;
what waits is tried again, and answered when its action has completed. A doorbell through the register at 0x80 starts the command that
stands in the slot. The model's choice are the object words (log 84), what a command on a job finds (logs 62 and 65), which commands
wait (log 60), the pages of a map (log 36), the page of a doorbell (log 30), what an unmap withdraws and waits for (logs 35 and 39), the
steps of PRE_EMPT and of a resume (logs 56 to 58 and 61), the masks of a new job (log 108) and its number (log 81). -/
def Obligations.CommandsCarriedOut : Prop :=
  (∀ s p n a, s.Commands p → 1 ≤ a → a ≤ 4095 → s.asidHeld a = false → (∀ b, 1 ≤ b → b < a → s.asidHeld b = true) →
    exec (.openJob p n) s = .next ({ s.modAsid a (fun x => { x with maskTick := some s.tick }) with
      jobs := Tab.set s.jobs s.nextJob { asid := a, port := p }, nextJob := s.nextJob + 1 }.answered p n 0 s.nextJob a)) ∧
  (∀ s p n job j q r, s.OpenJob p job j → q < 64 → r < 8 → s.queueTaken (64 * p + q) job = false →
    ∃ t : State, exec (.bindHostQueue p n job q r) s = .next (t.answered p n 0 0 0) ∧ (t.subQ (64 * p + q)).enabled = true ∧
      (t.subQ (64 * p + q)).job = job ∧ (t.subQ (64 * p + q)).asid = j.asid ∧ (t.subQ (64 * p + q)).prio = r ∧ t.slots = s.slots) ∧
  (∀ s p n job j d i r, s.OpenJob p job j → d < 4 → i < 16 → r < 8 → s.queueTaken (128 + 16 * d + i) job = false →
    ∃ t : State, exec (.bindDeviceQueue p n job d i r) s = .next (t.answered p n 0 0 0) ∧ (t.subQ (128 + 16 * d + i)).enabled = true ∧
      (t.subQ (128 + 16 * d + i)).job = job ∧ (t.subQ (128 + 16 * d + i)).prio = r) ∧
  (∀ s p n job j, s.OpenJob p job j → j.count ≠ 0 → ∃ t : State, exec (.closeJob p n job) s = .next (t.answered p n 0 0 0) ∧
    Tab.get? t.jobs job = some { j with closed := true } ∧ t.slots = s.slots) ∧
  (∀ s p n job j va bytes w4 w5 t, s.OpenJob p job j → rangeOk va bytes = true → j.ranges.any (·.meets va bytes) = false →
    s.leafOk j.asid (partsOfWord w4) (bytes / 65536) = true →
    State.mapPages j.asid (partsOfWord w4) (w5.toNat % 8) ((s.stepctr + bits w5 39 3) % 2 ^ 64) (bytes / 65536) va s = some t →
    ∃ u : State, exec (.mapRange p n job va bytes w4 w5) s = .next (u.answered p n 0 0 0) ∧ u.mem = t.mem ∧
      (u.job job).ranges = (t.job job).ranges ++ [{ va := va, bytes := bytes, attrs := w4 }]) ∧
  (∀ s p n job j va bytes, s.OpenJob p job j → rangeOk va bytes = true → j.covers va bytes = true →
    (s.sendFrames (s.framesIn j.asid va bytes)).unmappable j.asid va bytes = true →
    ∃ u : State, exec (.unmapRange p n job va bytes) s = .next (u.answered p n 0 0 0) ∧ (u.job job).ranges = j.without va bytes ∧
      u.mem = ((s.sendFrames (s.framesIn j.asid va bytes)).unmapNow j.asid va bytes).mem) ∧
  (∀ s p n job j va bytes, s.OpenJob p job j → rangeOk va bytes = true → j.covers va bytes = true →
    (s.sendFrames (s.framesIn j.asid va bytes)).unmappable j.asid va bytes = false →
    ∃ u : State, exec (.unmapRange p n job va bytes) s = .next u ∧ (u.port p).busy = some n ∧
      (u.port p).waiting = some (.unmap job va bytes) ∧ u.jobs = s.jobs ∧ u.pages = s.pages) ∧
  (∀ s p n job j level object v k d, s.OpenJob p job j → s.objectNamed job level object = some (v, k) →
    (∃ t, exec (.preEmpt p n job level object d) s = .next t ∧ (t.port p).busy = some n ∧
      (∃ x ∈ t.preempts, x.level = v ∧ x.key = k ∧ x.deadline = d ∧ x.done = false) ∧
      ∀ g u, (s.slot g).unit = some u → u.launch ∈ s.launchesOf v k → u.how = 0 → (s.slot g).status = .running → (s.slot g).stopAsked = false →
        (t.slot g).status = .stopped ∧ (t.slot g).held = true ∧ (t.slot g).regs = (s.slot g).regs) ∧
    ((s.cancelObjectNow v k).objectOver v k = true →
      exec (.cancelObject p n job level object) s = .next ((s.cancelObjectNow v k).answered p n 0 0 0)) ∧
    ((s.cancelObjectNow v k).objectOver v k = false → ∃ t, exec (.cancelObject p n job level object) s = .next t ∧
      (t.port p).busy = some n ∧ (t.port p).waiting = some (.cancel v k) ∧ t.slots = (s.cancelObjectNow v k).slots ∧
      t.launches = (s.cancelObjectNow v k).launches) ∧
    (∀ x, s.preempts.find? (fun y => y.level == v && y.key == k && y.done) = some x → s.canResume (s.launchesOf v k) = false →
      ∃ t, exec (.resume p n job level object) s = .next t ∧ (t.port p).busy = some n ∧
        (t.port p).waiting = some (.resume job level object) ∧ t.slots = s.slots ∧ t.preempts = s.preempts) ∧
    (∀ x, s.preempts.find? (fun y => y.level == v && y.key == k && y.done) = some x → s.canResume (s.launchesOf v k) = true →
      (∀ i ∈ s.retrain, x.saveStacks / 2 ^ i % 2 = 0) →
      exec (.resume p n job level object) s = .next ({ (s.launchesOf v k).foldl State.resumeLaunch s with
        preempts := s.preempts.filter (· != x) }.answered p n 0 0 0))) ∧
  (∀ s p n job j va bytes r e, s.OpenJob p job j → bytes ≠ 0 → r < 4 →
    j.covers (va / 65536 * 65536) (ceilDiv (va + bytes) 65536 * 65536 - va / 65536 * 65536) = true → lowestFree s.exports 16 = some e →
    exec (.fabricExport p n job va bytes r) s = .next ({ s with exports := (Tab.set s.exports e
      { job := job, va := va, bytes := bytes, r := r % 2 == 1, w := r / 2 == 1 }) }.answered p n 0 e 0)) ∧
  (∀ s p n job j k bus, s.OpenJob p job j → 1 ≤ k → k ≤ 1024 → ∃ (t : State) (r : HostRead),
    exec (.fabricGroup p n job k bus) s = .next t ∧ (t.port p).busy = some n ∧ (t.port p).waiting = some (.group job k) ∧
      t.hostReads = s.hostReads ++ [r] ∧ r.bus = (List.range (2 * k)).map (bus.toNat + ·) ∧ t.slots = s.slots ∧ t.mem = s.mem) ∧
  (∀ (s : State) (p n job : Nat) (j : Job) (k : Nat) (cells : List Host.Cell) (e : Nat), Tab.get? s.jobs job = some j → j.port = p → j.status = 0 → (s.port p).busy = some n →
    (s.port p).waiting = some (.group job k) → Tab.get? s.hostData (groupKey p) = some (some cells) → lowestFree s.groups 256 = some e →
    let ids := (List.range k).map fun i => fieldLe (cells.map fun c : Host.Cell => c.2) (2 * i) 2
    ((∀ i ∈ ids, i < 1024) → s.tryCommand p =
      { s with groups := Tab.set s.groups e (job, ids), hostData := Tab.del s.hostData (groupKey p) }.answered p n 0 e 0) ∧
    ((∃ i ∈ ids, 1024 ≤ i) → s.tryCommand p = s.answered p n 1 0 0)) ∧
  (∀ (s : State) (p n : Nat) (v : Level) (k : Nat), (s.port p).busy = some n → (s.port p).waiting = some (.cancel v k) →
    s.tryCommand p = if s.objectOver v k then s.answered p n 0 0 0 else s) ∧
  (∀ (s : State) (p : Nat) (n : Word) (ws : List Word), s.Commands p → (s.port p).slotWords = ws → let w (i : Nat) : Nat := (ws.getD i 0).toNat
    (w 0 = 1 → exec (.bar0RegisterWrite p 0x80 8 n) s = exec (.openJob p n.toNat) s) ∧
    (w 0 = 4 → exec (.bar0RegisterWrite p 0x80 8 n) s =
      exec (.mapRange p n.toNat (w 1) (w 2) (w 3) (ws.getD 4 0) (ws.getD 5 0)) s) ∧
    (w 0 = 6 → exec (.bar0RegisterWrite p 0x80 8 n) s = exec (.closeJob p n.toNat (w 1)) s) ∧
    (w 0 = 7 → exec (.bar0RegisterWrite p 0x80 8 n) s = exec (.preEmpt p n.toNat (w 1) (w 2) (w 3) (w 4)) s) ∧
    (w 0 = 9 → exec (.bar0RegisterWrite p 0x80 8 n) s = exec (.cancelObject p n.toNat (w 1) (w 2) (w 3)) s) ∧
    (13 < w 0 → exec (.bar0RegisterWrite p 0x80 8 n) s = .next (s.answered p n.toNat 1 0 0))) ∧
  (∀ s p n job j d r va db t, s.OpenJob p job j → d < 4 → r < 4 → va % 16384 = 0 → j.normalAt va = true → rangeOk db 65536 = true →
    j.ranges.any (·.meets db 65536) = false → Tab.get? (s.die d).rings r = none →
    s.mapPage j.asid db { cls := 2, r := true, w := true, frame := doorbellPa d r / 65536 } 0 0 = some t →
    ∃ u : State, exec (.fabricRing p n job d r va db) s = .next (u.answered p n 0 0 0) ∧
      Tab.get? (u.die d).rings r = some { job := job, va := va } ∧ u.mem = t.mem) ∧
  (∀ s p n i, s.Commands p → i < 1024 → (s.accelId = none ∨ s.accelId = some i) →
    exec (.acceleratorId p n i) s = .next ({ s with accelId := some i }.answered p n 0 0 0))

/-- R442 to R446, R449, R458, R464 and R465: a tail write hands over the new records, 256 at most; a close bit closes the job's
stream; status bits are cleared by writing 1; a ring's head is written; registers of BAR0 take what is written, and the host reads
the counter of the port's die at offset 0x10; an access through the memory window that is not allowed sets werr, and one that is
reads or writes the page; a completion of a read of host memory answers the part that waits for it, a timeout answers it with the
fault of cause 0x14, which AER notes; the reset of a port cancels its jobs and leaves its registers at their reset values, with a rate
and a width that the port has; configuration writes are kept. The model's choice are the moment at which the records are copied (log 63),
what BAR0 takes before READY and what its other bytes read as (log 64), the places of the controls in the configuration space (log 66),
the accessor and the payload of the window (log 67), the tinfo of a failed read (log 68), the masks of vectors (log 79), the event of a
time-out (log 89), the rate and the width (log 99), and what closing and cancelling a job finds (log 62). -/
def Obligations.HostRegistersAndReads : Prop :=
  (∀ s p q tail, p < 2 → q < 64 → (s.port p).d3 = false → s.ready = true → (s.subQ (64 * p + q)).enabled = true →
    (s.job (s.subQ (64 * p + q)).job).closed = false → (tail + 2 ^ 32 - (s.subQ (64 * p + q)).head) % 2 ^ 32 ≤ 256 →
    ∃ t, exec (.submissionQueueTailWrite p q tail) s = .next t ∧ (t.subQ (64 * p + q)).tail = tail % 2 ^ 32 ∧ t.slots = s.slots ∧
      (t.subQ (64 * p + q)).records = (s.subQ (64 * p + q)).records ++
        (List.range ((tail + 2 ^ 32 - (s.subQ (64 * p + q)).tail) % 2 ^ 32)).map fun i =>
          (s.port p).recordAt q ((s.subQ (64 * p + q)).tail + i)) ∧
  (∀ s p q tail, p < 2 → q < 64 → (s.port p).d3 = false →
    (s.ready = false ∨ (s.subQ (64 * p + q)).enabled = false ∨ (s.job (s.subQ (64 * p + q)).job).closed = true ∨
      256 < (tail + 2 ^ 32 - (s.subQ (64 * p + q)).head) % 2 ^ 32) →
    ∃ t, exec (.submissionQueueTailWrite p q tail) s = .next t ∧ (t.port p).dberr = true ∧ t.subQs = s.subQs) ∧
  (∀ s p q v, p < 2 → q < 64 → (s.port p).d3 = false → s.queueOpen (64 * p + q) = true →
    (v % 2 = 1 → exec (.queueCtlClose p q v) s = .next (s.closeJob (s.subQ (64 * p + q)).job)) ∧
    (v % 2 = 0 → exec (.queueCtlClose p q v) s = .next s)) ∧
  (∀ s p v, p < 2 → (s.port p).d3 = false → s.ready = true → ∃ t, exec (.statusWrite p v) s = .next t ∧ t.slots = s.slots ∧
    (t.port p).werr = ((s.port p).werr && !v.getLsbD 2) ∧ (t.port p).dberr = ((s.port p).dberr && !v.getLsbD 1)) ∧
  (∀ s p r v, p < 2 → r < 3 → (s.port p).d3 = false → s.ready = true → (Tab.getD (s.port p).rings r {}).held = [] →
    ∃ t, exec (.hostRingHeadWrite p r v) s = .next t ∧ Tab.get? (t.port p).rings r =
      some { Tab.getD (s.port p).rings r {} with head := v % 2 ^ 32 } ∧ (t.port p).posted = (s.port p).posted) ∧
  (∀ s p v, p < 2 → (s.port p).d3 = false → s.ready = true →
    exec (.bar0RegisterWrite p 0x20 8 v) s = .next (s.modPort p fun hp => { hp with hwbase := v &&& ~~~ 0xFFF#64 })) ∧
  (∀ s p off size v, p < 2 → (s.port p).d3 = false → s.ready = true → (size = 4 ∨ size = 8) → off % size = 0 → 0x10 ≤ off →
    (∀ t, off ≠ 0x80 → exec (.bar0RegisterWrite p off size v) s = .next t →
      t.slots = s.slots ∧ t.mem = s.mem ∧ t.jobs = s.jobs ∧ t.subQs = s.subQs ∧ ∀ x, x ≠ p → t.port x = s.port x) ∧
    (0x40 ≤ off → off < 0x80 → ∃ t, exec (.bar0RegisterWrite p off size v) s = .next t ∧ ∀ i, Tab.getD (t.port p).cmdSlot i 0 =
      if off - 0x40 ≤ i ∧ i < off - 0x40 + size then byteOf (v.toNat / 256 ^ (i - (off - 0x40))) else Tab.getD (s.port p).cmdSlot i 0) ∧
    (0x100000 ≤ off → off < 0x200000 → ∃ t, exec (.bar0RegisterWrite p off size v) s = .next t ∧ ∀ i, Tab.getD (t.port p).area i 0 =
      if off - 0x100000 ≤ i ∧ i < off - 0x100000 + size then byteOf (v.toNat / 256 ^ (i - (off - 0x100000))) else
        Tab.getD (s.port p).area i 0) ∧
    (∀ i, i < 80 → 0x3000 ≤ off → off < 0x3050 → ∃ t, exec (.bar0RegisterWrite p off size v) s = .next t ∧ Tab.getD (t.port p).msixTable i 0 =
      if off - 0x3000 ≤ i ∧ i < off - 0x3000 + size then byteOf (v.toNat / 256 ^ (i - (off - 0x3000))) else
        Tab.getD (s.port p).msixTable i 0) ∧
    (∀ i, i < 64 → off = 0x2000 + 8 * i → size = 8 → ∃ t, exec (.bar0RegisterWrite p off size v) s = .next t ∧
      Tab.get? (t.port p).window i = some (s.windowValue p v)) ∧
    (∀ r, r < 3 → off = 0x100 + 32 * r → size = 8 → (Tab.getD (s.port p).rings r {}).held = [] →
      ∃ t, exec (.bar0RegisterWrite p off size v) s = .next t ∧ (Tab.getD (t.port p).rings r {}).base = v &&& ~~~ 0xFFF#64) ∧
    (∀ q, q < 64 → 0x1008 + 16 * q ≤ off → off < 0x1010 + 16 * q → (s.subQ (64 * p + q)).enabled = false →
      ∃ t, exec (.bar0RegisterWrite p off size v) s = .next t ∧ (t.port p).dberr = true)) ∧
  (∀ (s : State) p, s.ready = true → s.readBar0 p 0x10 8 = bytesLe 8 (s.timeOf (dieOfPort p)) ∧
    s.readBar0 p 0x20 8 = bytesLe 8 (s.port p).hwbase.toNat) ∧
  (∀ s p off n data, p < 2 → off < 2 ^ 36 → 0 < n → off % 4096 + n ≤ 4096 → (∀ bs, data = some bs → bs.length = n ∧ n ≤ 512) →
    (s.port p).d3 = false → s.ready = true →
    (Tab.getD (s.port p).window (off / 2 ^ 30) 0).getLsbD 63 = false →
    ∃ t, exec (.hostWindowAccess p off n data) s = .next t ∧ (t.port p).werr = true ∧ (t.port p).lastRead = none ∧ t.mem = s.mem) ∧
  (∀ s p off n bs, p < 2 → off < 2 ^ 36 → 0 < n → off % 4096 + n ≤ 4096 → (s.port p).d3 = false → s.ready = true →
    let w := s.windowValue p (Tab.getD (s.port p).window (off / 2 ^ 30) 0)
    let x := { pageAccessor (768 + 4 * dieOfPort p) (bits w 59 48) with source := some (13424 + p) }
    let va := bits w 18 0 * 2 ^ 30 + off % 2 ^ 30
    w.getLsbD 63 = true → s.classAt x va ≠ some .device →
    (∀ t, s.pull x (BitVec.ofNat 64 va) n (engineKey 0 (4 + p)) = .bytes bs t →
      exec (.hostWindowAccess p off n none) s = .next (t.modPort p fun hp => { hp with lastRead := some bs })) ∧
    (∀ t, w.getLsbD 62 = true → bs.length = n → n ≤ 512 → s.put x (BitVec.ofNat 64 va) bs (some (engineKey 0 (6 + p))) = .done t →
      exec (.hostWindowAccess p off n (some bs)) s = .next t)) ∧
  (∀ (s : State) i r g u q, s.hostReads[i]? = some r → s.hostReadLeft r = true → r.who = some (g, u) →
    (s.partsUnder g r.id).filter (fun p => !p.answered && r.pas.contains p.pa) = [q] → r.pas.head? = some q.pa →
    (∃ t : State, exec (.hostCompletionTimeout i) s = .next t ∧ t.hostReads = s.hostReads.eraseIdx i ∧ t.slots = s.slots ∧ t.mem = s.mem ∧
      t.replies = s.replies ++ [{ slot := g, uid := u, id := r.id, off := q.off, bytes := [], failed := some (0x14, 0, 4),
                                  poa := some (poaOfRegion (region q.pa)) }] ∧
      ∀ p < 2, (t.port p).aer = if r.through p = true then (s.port p).aer ||| 2 ^ 14 else (s.port p).aer) ∧
    ∀ bs : List Byte, bs.length = r.pas.length →
      exec (.hostReadCompletion i true bs) s = .next { s with
        hostReads := s.hostReads.eraseIdx i
        replies := s.replies ++ [{ slot := g, uid := u, id := r.id, off := q.off, bytes := bs.take q.n,
                                   poa := some (poaOfRegion (region q.pa)) }] }) ∧
  (∀ (s : State) i r, s.hostReads[i]? = some r → s.hostReadLeft r = true → r.who = none →
    (∃ t : State, exec (.hostCompletionTimeout i) s = .next t ∧ t.hostReads = s.hostReads.eraseIdx i ∧ t.slots = s.slots ∧ t.mem = s.mem ∧
      t.hostData = Tab.set s.hostData r.id none) ∧
    ∀ bs : List Byte, bs.length = r.pas.length → exec (.hostReadCompletion i true bs) s = .next { s with
      hostReads := s.hostReads.eraseIdx i, hostData := Tab.set s.hostData r.id (some (r.pas.zip bs)) }) ∧
  (∀ s p, p < 2 → ∃ t, exec (.hostPortReset p) s = .next t ∧ (∀ q, q / 64 = p → t.subQ q = {}) ∧
    (∀ r ∈ t.hostReads, r.through p = false) ∧
    (∀ k j, Tab.get? s.jobs k = some j → j.port = p → j.status = 0 → (t.job k).cancelled = true) ∧
    ∃ g w, 3 ≤ g ∧ g ≤ 6 ∧ w ≤ 3 ∧ t.port p = { ({} : HostPort) with gen := g, width := w }) ∧
  (∀ s p reg v, p < 2 → s.ready = true → ∃ t, exec (.configurationRequest p reg (some v)) s = .next t ∧
    Tab.get? (t.port p).config reg = some v ∧ (t.port p).lastConfig = some 0 ∧ t.slots = s.slots) ∧
  (∀ s p reg v, p < 2 → s.ready = false → ∃ t, exec (.configurationRequest p reg v) s = .next t ∧ (t.port p).lastConfig = none ∧
    (t.port p).config = (s.port p).config)

/-! ## The fabric and the module (R434, R438, R447 to R456, R464 to R472) -/

/-- R264, R447 and R450 to R455: a doorbell moves a command ring's tail; the engine takes the command at the head of a ring, and its
requests leave for the target's export, cut into at most 256 bytes, with the bytes of a write or a message; a descriptor that is wrong
ends at once with status 3, and one on a module without a number with status 1. The answer of the fabric ends one of the commands that
have started and that it fits: the bytes of a read or the old value of an atomic are written, a collective leaves its result and notes
its named buffer, and a command that gets no answer ends with status 2; its sequence number waits for its word. The completion word is
written at the address that the descriptor names, and before that of a collective the earlier writes of every core to the buffer are
accepted and its L1 sectors are invalid; an access of another module is carried out within an export that allows it, and refused
otherwise. The model's choice are the order in which an engine takes descriptors and the fabric answers (log 69), the checks of an
incoming access (log 70), the event of a time-out (log 89), the form of what leaves the module (log 90) and the reach of the order at a
completion (log 100). -/
def Obligations.FabricCommands : Prop :=
  (∀ s d r f tail, Tab.get? (s.die d).rings r = some f → ∃ t, exec (.fabricDoorbellWrite d r tail) s = .next t ∧ t.slots = s.slots ∧
    t.mem = s.mem ∧ Tab.get? (t.die d).rings r = some { f with tail := tail % 2 ^ 32 }) ∧
  (∀ (s : State) d r (f : FabRing) b t, f.head ≠ f.tail →
    s.pull (fabricAccessor d (s.job f.job).asid) (BitVec.ofNat 64 (f.va + 64 * (f.head % 256))) 64 (fabricKey d r f.head 0) = .bytes b t →
    (s.accelId = none → s.fabricHead d r f = .over 1 (descriptorOf b).done) ∧
    (s.accelId.isSome = true → s.validDescriptor f.job (descriptorOf b) = false → s.fabricHead d r f = .over 3 (descriptorOf b).done) ∧
    (s.accelId.isSome = true → s.validDescriptor f.job (descriptorOf b) = true → s.fabricHead d r f = .run b)) ∧
  (∀ (s : State) d r (f : FabRing), Tab.get? (s.die d).rings r = some f → ∃ g : State, g = s.takeCommand d r ∧
    (∀ status done, s.fabricHead d r f = .over status done → ∃ x : FabRing, Tab.get? (g.die d).rings r = some x ∧ g.mem = s.mem ∧ g.slots = s.slots ∧
      x.head = (f.head + 1) % 2 ^ 32 ∧ x.finished = f.finished ++ [(f.head, status, done)] ∧ g.sentOut = s.sentOut) ∧
    (∀ b, s.fabricHead d r f = .run b → (descriptorOf b).op ≠ 2 → (descriptorOf b).op ≠ 4 → ∃ x : FabRing,
      Tab.get? (g.die d).rings r = some x ∧ g.mem = s.mem ∧ g.slots = s.slots ∧ x.head = (f.head + 1) % 2 ^ 32 ∧ Tab.get? x.running f.head = some b ∧
      ∃ rs : List FabricRequest, g.sentOut = s.sentOut ++ rs ∧ (∀ q ∈ rs, q.port / 2 = d) ∧
        rs.map (fun q => { q with port := 0 }) = (if (descriptorOf b).op ≤ 4 then (descriptorOf b).requests [] else [])) ∧
    (∀ b bs t, s.fabricHead d r f = .run b → ((descriptorOf b).op = 2 ∨ (descriptorOf b).op = 4) →
      s.pull (fabricAccessor d (s.job f.job).asid) (BitVec.ofNat 64 (descriptorOf b).local_) (descriptorOf b).length
        (fabricKey d r f.head 1) = .bytes bs t → t.die d = s.die d → t.sentOut = s.sentOut → ∃ x : FabRing,
      Tab.get? (g.die d).rings r = some x ∧ x.head = (f.head + 1) % 2 ^ 32 ∧ Tab.get? x.running f.head = some b ∧
      ∃ rs : List FabricRequest, g.sentOut = s.sentOut ++ rs ∧ (∀ q ∈ rs, q.port / 2 = d) ∧
        rs.map (fun q => { q with port := 0 }) = (descriptorOf b).requests bs)) ∧
  (∀ (x : Descriptor) (bs : List Byte), (∀ q ∈ x.requests bs, q.op = x.op ∧ q.target = x.target ∧ q.export_ = x.export_ ∧ q.port = 0) ∧
    (x.op ≠ 3 → ∀ (i : Nat) q, (x.requests bs)[i]? = some q → q.length ≤ 256 ∧ q.offset = x.remote + 256 * i) ∧
    (x.op = 1 → ((x.requests bs).map (·.length)).sum = x.length ∧ ∀ q ∈ x.requests bs, q.bytes = []) ∧
    (x.op = 3 → let n := elementBytes x.element
      let words := BitVec.ofNat 8 x.operation :: (bytesLe n x.operand.toNat ++ bytesLe n x.compare.toNat)
      x.requests bs = [{ op := 3, target := x.target, export_ := x.export_, offset := x.remote, length := n, bytes := words }]) ∧
    (x.op = 2 ∨ x.op = 4 → (x.requests bs).flatMap (·.bytes) = bs ∧ ∀ q ∈ x.requests bs, q.bytes.length = q.length)) ∧
  (∀ (s : State) d r (f : FabRing) q status at_, Tab.get? (s.die d).rings r = some f → ∃ (t : State) (x : FabRing),
    t = s.finishCommand d r q status at_ ∧ Tab.get? (t.die d).rings r = some x ∧ x.running = Tab.del f.running q ∧
    x.finished = f.finished ++ [(q, status, at_)] ∧ t.slots = s.slots ∧ t.mem = s.mem) ∧
  (∀ (f : FabRing) p q x, f.pick p = some (q, x) → p x = true ∧ ∃ b, (q, b) ∈ f.running ∧ x = descriptorOf b) ∧
  (∀ (f : FabRing) p q b, (q, b) ∈ f.running → p (descriptorOf b) = true → (f.pick p).isSome = true) ∧
  (∀ (s : State) d r f q x, Tab.get? (s.die d).rings r = some f →
    let acc := fabricAccessor d (s.job f.job).asid
    let local_ (n at_ : Nat) (bs : List Byte) (t : State) : Prop :=
      s.pull acc (BitVec.ofNat 64 at_) n (fabricKey d r q 1) = .bytes bs t
    let stored (s : State) (at_ : Nat) (bs : List Byte) (t : State) : Prop :=
      s.put (fabricAccessor d (s.job f.job).asid) (BitVec.ofNat 64 at_) bs (some (fabricKey d r q 2)) = .done t
    let share := x.length * elementBytes x.element
    (∀ ok data, f.pick (fun y => y.op == 1 && (!ok || data.length == y.length)) = some (q, x) →
      (ok = false → exec (.fabricRead d r ok data) s = .next (s.finishCommand d r q 1 x.done)) ∧
      (ok = true → ∀ t, stored s x.local_ data t → exec (.fabricRead d r ok data) s = .next (t.finishCommand d r q 0 x.done)) ∧
      (ok = true → ∀ e, s.put acc (BitVec.ofNat 64 x.local_) data (some (fabricKey d r q 2)) = .fail e →
        exec (.fabricRead d r ok data) s = .next (s.finishCommand d r q 3 x.done))) ∧
    (f.pick (fun y => y.op == 2) = some (q, x) → ∀ ok,
      exec (.fabricWrite d r ok) s = .next (s.finishCommand d r q (if ok then 0 else 1) x.done)) ∧
    (f.pick (fun y => y.op == 3) = some (q, x) → ∀ old,
      exec (.fabricAtomic d r false old) s = .next (s.finishCommand d r q 1 x.done) ∧
      ∀ t, stored s x.local_ (bytesLe 8 (old.toNat % 2 ^ (8 * elementBytes x.element))) t →
        exec (.fabricAtomic d r true old) s = .next (t.finishCommand d r q 0 x.done)) ∧
    (f.pick (fun y => y.op == 4) = some (q, x) → ∀ ok,
      exec (.fabricMessage d r ok) s = .next (s.finishCommand d r q (if ok then 0 else 1) x.done)) ∧
    (∀ ids me ranks own t u, s.ranksOf f.job x.target = some (ids, me) → ranks.length = ids.length → u.again = false →
      (f.pick (fun y => y.op == 16) = some (q, x) → (∀ b ∈ ranks, b.length = share) → local_ share x.local_ own t →
        (t.job f.job).asid = (s.job f.job).asid → stored t x.local_ (reduceRanks x.element x.operation (ranks.set me own)) u →
        exec (.allReduce d r ranks) s = .next (((u.finishCommand d r q 0 x.done).send d (x.requests own)).noteBuffer d r q x.local_
          (Nat.max share (reduceRanks x.element x.operation (ranks.set me own)).length))) ∧
      (f.pick (fun y => y.op == 17) = some (q, x) → (∀ b ∈ ranks, b.length = share) → local_ share (x.local_ + me * share) own t →
        (t.job f.job).asid = (s.job f.job).asid → stored t x.local_ (ranks.set me own).flatten u →
        exec (.allGather d r ranks) s = .next (((u.finishCommand d r q 0 x.done).send d (x.requests own)).noteBuffer d r q x.local_
          (Nat.max share (ranks.set me own).flatten.length))) ∧
      (f.pick (fun y => y.op == 18) = some (q, x) → (∀ b ∈ ranks, b.length = ids.length * share) →
        local_ (ids.length * share) x.local_ own t → (t.job f.job).asid = (s.job f.job).asid →
        let out := reduceRanks x.element x.operation ((ranks.set me own).map fun b => (b.drop (me * share)).take share)
        stored t (x.local_ + me * share) out u →
        exec (.reduceScatter d r ranks) s = .next (((u.finishCommand d r q 0 x.done).send d (x.requests own)).noteBuffer d r q x.local_
          (Nat.max (ids.length * share) out.length))) ∧
      (f.pick (fun y => y.op == 19) = some (q, x) → me = x.root → ∀ data, local_ share x.local_ own t →
        exec (.broadcast d r data) s = .next (((t.send d (x.requests own)).finishCommand d r q 0 x.done).noteBuffer d r q x.local_ share)) ∧
      (f.pick (fun y => y.op == 19) = some (q, x) → me ≠ x.root → ∀ data, data.length = share → stored s x.local_ data u →
        exec (.broadcast d r data) s = .next ((u.finishCommand d r q 0 x.done).noteBuffer d r q x.local_ share)))) ∧
  (∀ (s : State) d r (f : FabRing) q b, Tab.get? (s.die d).rings r = some f → Tab.get? f.running q = some b →
    exec (.fabricCommandTimeout d r q) s = .next (s.finishCommand d r q 2 (descriptorOf b).done)) ∧
  (∀ s d r f seq status at_ u, Tab.get? (s.die d).rings r = some f → f.finished.find? (·.1 == seq) = some (seq, status, at_) →
    s.orderBuffer d seq f = (u, true) →
    (at_ = 0 → exec (.fabricCommandComplete d r seq) s = .next (u.fabricOver d r seq)) ∧
    (∀ t, at_ ≠ 0 → u.put (fabricAccessor d (u.job f.job).asid) (BitVec.ofNat 64 at_)
        (bytesLe 8 (BitVec.ofNat 64 (2 ^ 63 + status * 2 ^ 56 + seq % 2 ^ 32)).toNat) (some (fabricKey d r seq 3)) = .done t →
      exec (.fabricCommandComplete d r seq) s = .next (t.fabricOver d r seq))) ∧
  (∀ (s : State) d seq (f : FabRing) va n (u : State), Tab.get? f.buffers seq = some (va, n) → s.orderBuffer d seq f = (u, true) →
    ∀ c ∈ chunksAt (s.partsOf (fabricAccessor d (s.job f.job).asid) (BitVec.ofNat 64 va) n), ∀ a ∈ c.pas,
      (∀ m ∈ u.net, (∀ cs, m.body = .write cs → ∀ w ∈ cs, w.1 ≠ a) ∧
        ∀ o y pa v e, m.body = .atomic o y pa v e → m.body.covers a = false) ∧
      ∀ core l, Tab.get? (u.core core).l1 (a / 128) = some l → l.ownHome = false → l.sectors.getD (a / 32 % 4) none = none) ∧
  (∀ s src e off x, src < 1024 → accessSize x ≤ 256 → (∀ op w v c, x = .atomic op w v c → w = 4 ∨ w = 8) → s.accelId.isSome = true →
    (Tab.get? s.exports e = none ∨ ∃ y, Tab.get? s.exports e = some y ∧ y.allows off x = false) →
    exec (.incomingFabricAccess src e off x) s = .next (s.answerFabric src 1 [])) ∧
  (∀ s src e off y n bs t, src < 1024 → n ≤ 256 → s.accelId.isSome = true → Tab.get? s.exports e = some y → y.allows off (.read n) = true →
    s.pull (pageAccessor 768 (s.job y.job).asid) (BitVec.ofNat 64 (y.va + off)) n (engineKey 0 1) = .bytes bs t →
    exec (.incomingFabricAccess src e off (.read n)) s = .next (t.answerFabric src 0 bs)) ∧
  (∀ s src e off y bs t, src < 1024 → bs.length ≤ 256 → s.accelId.isSome = true → Tab.get? s.exports e = some y →
    y.allows off (.write bs) = true →
    s.put (pageAccessor 768 (s.job y.job).asid) (BitVec.ofNat 64 (y.va + off)) bs (some (engineKey 0 2)) = .done t →
    exec (.incomingFabricAccess src e off (.write bs)) s = .next (t.answerFabric src 0 [])) ∧
  (∀ s src e off y op w v c, src < 1024 → (w = 4 ∨ w = 8) → s.accelId.isSome = true → Tab.get? s.exports e = some y →
    y.allows off (.atomic op w v c) = true → (BitVec.ofNat 64 (y.va + off)).toNat % w ≠ 0 →
    exec (.incomingFabricAccess src e off (.atomic op w v c)) s = .next (s.answerFabric src 1 [])) ∧
  (∀ (s : State) src status bs, status < 256 → (s.answerFabric src status bs).sentOut = s.sentOut ++
    [{ op := 0, target := src, length := bs.length, bytes := BitVec.ofNat 8 status :: bs }]) ∧
  (∀ s src e y box core body, src < 1024 → body.length = 64 → s.accelId.isSome = true → Tab.get? s.exports e = some y → core < 768 → box < 16 →
    ∃ t m, exec (.incomingFabricMessage src e (BitVec.ofNat 64 (box * 65536 + core)) body) s = .next t ∧ m.core = core ∧ m.box = box ∧
      m.body = body ∧ m.launch = y.job ∧
      t = (s.deliverMail m).answerFabric src (if s.mailWelcome m then 0 else 1) [])

/-- R65, R66, R394, R434, R438, R456, R464 and R466 to R472: the module powers up step by step and is ready after the sixth, or goes out
of service when a step fails or takes too long, when no image can be booted, or when an eave port has fewer than 8 modules; the image
is the valid one of the highest version that the rollback counter allows; the sixth step derives the identity key from the seed and the
alias key from it and the measurements. An update writes the other firmware slot, whose image is valid if it is whole and its signature
verifies; attestation answers in the order of its negotiation, with the digests of what runs, signed with the alias key over the nonce.
A power sample enters the average, which throttles one step above the limit and releases one at 95 percent of it, and more than 115 °C
puts the module out of service; the limit is clamped and errors are cleared by writing 1; a link retrains after 16 failures and needs 8
modules; time alignment moves no die's counter back and keeps the dies within 2 ns; words that are no instruction trap, and a fetch
traps, drops the slot, or waits for a block that is not on its die. The model's choice are which steps fail and how many modules train
(log 112), how the limits are counted (log 76), the slot of an update (log 73), the functions and the digests (log 113), the codes of the
responses (log 74), the steps of throttling (log 75), the counting of failures and the events that bring them (logs 71 and 88), the clamp
(log 52), what a fatal module does (log 77), the alignment (log 72), the links of the host ports (log 99), memory at power-up (log 5), and
how words come from another die or a host (logs 95 and 118). -/
def Obligations.ModuleSteps : Prop :=
  (∀ s, exec .moduleReset s = .next s.afterReset ∧ s.afterReset.slots = [] ∧ s.afterReset.ready = false ∧ s.afterReset.fatal = false ∧
    s.afterReset.firmware.slots = s.firmware.slots ∧ s.afterReset.firmware.rollback = s.firmware.rollback) ∧
  (∀ (f : Firmware) i v, f.best = some (i, v) → (∃ x : Image, f.slots[i]? = some x ∧ x.valid = true ∧ x.version = v) ∧ f.rollback ≤ v ∧
    ∀ (k : Nat) (y : Image), f.slots[k]? = some y → y.valid = true → f.rollback ≤ y.version → y.version ≤ v) ∧
  (∀ s i v, s.ready = false → s.fatal = false → s.powerStep = 0 → s.cycle ≤ s.powerLimit → s.firmware.best = some (i, v) →
    ∃ t, exec .powerupStepComplete s = .next t ∧ (t = s.setFatal ∨ (t.powerStep = 1 ∧
      t.firmware = { s.firmware with running := some i, rollback := v } ∧
      t.slots = s.slots ∧ t.mem = s.mem ∧ ∀ p < 2, 3 ≤ (t.port p).gen ∧ (t.port p).gen ≤ 6 ∧ (t.port p).width ≤ 3))) ∧
  (∀ s, s.ready = false → s.fatal = false → s.powerStep = 0 → s.cycle ≤ s.powerLimit → s.firmware.best = none →
    exec .powerupStepComplete s = .next s.setFatal) ∧
  (∀ s, s.ready = false → s.fatal = false → 1 ≤ s.powerStep → s.powerStep ≤ 5 → s.cycle ≤ s.powerLimit →
    ∃ t, exec .powerupStepComplete s = .next t ∧ (t = s.setFatal ∨ (t.powerStep = s.powerStep + 1 ∧ t.ready = decide (s.powerStep = 5) ∧
      t.slots = s.slots ∧ (s.powerStep = 2 → ∀ k < 4, 8 ≤ Tab.getD t.linkWorking k 0 ∧ Tab.getD t.linkWorking k 0 ≤ 12) ∧
      (s.powerStep = 4 → ∀ a, t.mem.byte a = 0) ∧ (s.powerStep ≠ 4 → t.mem = s.mem) ∧
      (s.powerStep = 5 → t.firmware.identity = Config.hkdf384 (Config.seed 0) [] ∧
        t.firmware.aliasKey = Config.hkdf384 t.firmware.identity (Config.sha384 s.firmware.image.boot ++
          (Config.sha384 s.firmware.image.runtime ++ Config.sha384 s.firmware.image.config))) ∧
      (s.powerStep ≠ 5 → t.firmware = s.firmware)))) ∧
  (∀ s, s.powerLimit < s.cycle → exec .powerupStepComplete s = .fault .eventNotEnabled) ∧
  (∀ s, s.ready = false → s.fatal = false → s.powerStep < 6 → s.powerLimit < s.cycle →
    ∃ t, exec .powerupStepTimeout s = .next t ∧ t.fatal = true ∧ t.ready = false ∧ ∀ g, (t.slot g).status = .stopped ∨ (t.slot g).status = .empty) ∧
  (∀ s c v bo ru cf key sg i, s.firmware.running = some i → i < 2 → s.firmware.slots.length = 2 → ∃ (t : State) (x : Image),
    exec (.firmwareUpdate c v ⟨bo, ru, cf, key, sg⟩) s = .next t ∧ t.firmware.running = s.firmware.running ∧ t.firmware.slots[1 - i]? = some x ∧
      t.firmware.slots[i]? = s.firmware.slots[i]? ∧ x.version = v ∧ x.boot = bo ∧ x.runtime = ru ∧ x.config = cf ∧
      x.valid = (c && (Config.sha384 key == Config.fusedKeyHash &&
        Config.ecdsaVerifies key (Config.sha384 (bytesLe 4 v ++ bo ++ ru ++ cf)) sg))) ∧
  (∀ s, s.ready = true → let cert := s.firmware.certificates
    let x := s.firmware.image
    let signed (body nonce : List Byte) : List Byte := body ++ Config.ecdsaSign s.firmware.aliasKey (Config.sha384 (nonce ++ body))
    (∃ t, exec .getVersion s = .next t ∧ t.firmware.spdm = 1 ∧ t.firmware.answers = s.firmware.answers ++ [[0x04, 0x12]]) ∧
    (1 ≤ s.firmware.spdm → ∃ t b, exec .getCapabilities s = .next t ∧ t.firmware.spdm = 2 ∧ t.firmware.answers = s.firmware.answers ++ [0x61 :: b]) ∧
    (2 ≤ s.firmware.spdm → ∃ t, exec (.negotiateAlgorithms 0x80 0x02) s = .next t ∧ t.firmware.spdm = 3 ∧
      t.firmware.answers = s.firmware.answers ++ [[0x63, 0x80, 0x02]]) ∧
    (3 ≤ s.firmware.spdm →
      (∃ t, exec .getDigests s = .next t ∧ t.firmware.answers = s.firmware.answers ++ [0x01 :: Config.sha384 cert]) ∧
      (∀ o n, ∃ t, exec (.getCertificate o n) s = .next t ∧ t.firmware.answers = s.firmware.answers ++ [0x02 :: (cert.drop o).take n]) ∧
      (∀ n, ∃ t, exec (.challenge n) s = .next t ∧ t.firmware.answers = s.firmware.answers ++ [signed (0x03 :: Config.sha384 cert) n]) ∧
      (∀ n, ∃ t, exec (.getMeasurements n) s = .next t ∧ t.firmware.answers = s.firmware.answers ++
        [signed (0x60 :: (Config.sha384 x.boot ++ (Config.sha384 x.runtime ++ Config.sha384 x.config))) n])) ∧
    (s.firmware.spdm < 3 → exec .getDigests s = .next (s.reply spdmError))) ∧
  (∀ s a b c x y z w h, x ≤ 115 → y ≤ 115 → z ≤ 115 → w ≤ 115 → h ≤ 115 →
    ∃ t, exec (.powerSample a b c [x, y, z, w] h) s = .next t ∧ t.power.samples = ((a + b + c) :: s.power.samples).take 10 ∧
      t.power.dieTemps = [x, y, z, w] ∧ t.power.hbmTemp = h ∧ t.power.limit = s.power.limit ∧ t.fatal = s.fatal ∧ t.slots = s.slots ∧
      t.power.total = t.power.samples.sum / t.power.samples.length ∧
      let n := t.power.samples.length
      let above : Prop := s.power.limit * n < t.power.samples.sum ∨ 105 < x ∨ 105 < y ∨ 105 < z ∨ 105 < w
      let below : Prop := t.power.samples.sum * 100 ≤ s.power.limit * n * 95
      (above → s.power.tight < 3 → t.power.tight = s.power.tight + 1 ∧ t.power.duty = s.power.duty) ∧
      (above → 3 ≤ s.power.tight → t.power.tight = s.power.tight ∧ 125 ≤ t.power.duty ∧ (125 < s.power.duty → t.power.duty < s.power.duty)) ∧
      (¬ above → below → s.power.duty < 1000 → t.power.tight = s.power.tight ∧ s.power.duty < t.power.duty ∧ t.power.duty ≤ 1000) ∧
      (¬ above → below → 1000 ≤ s.power.duty → t.power.tight = s.power.tight - 1 ∧ t.power.duty = s.power.duty) ∧
      (¬ above → ¬ below → t.power.tight = s.power.tight ∧ t.power.duty = s.power.duty)) ∧
  (∀ s a b c x y z w h, 115 < x ∨ 115 < y ∨ 115 < z ∨ 115 < w ∨ 115 < h →
    ∃ t, exec (.powerSample a b c [x, y, z, w] h) s = .next t ∧ t.fatal = true) ∧
  (∀ s v, ∃ t, exec (.pwrlimWrite v) s = .next t ∧ t.power.limit = limitInRange (v.toNat % 65536) ∧ t.slots = s.slots) ∧
  (∀ s v, (∃ t, exec (.errorCountClear true v) s = .next t ∧ t.power.errunc = (BitVec.ofNat 64 s.power.errunc &&& ~~~v).toNat ∧
      t.power.errcor = s.power.errcor) ∧
    ∃ t, exec (.errorCountClear false v) s = .next t ∧ t.power.errcor = (BitVec.ofNat 64 s.power.errcor &&& ~~~v).toNat ∧
      t.power.errunc = s.power.errunc) ∧
  (∀ s l, l < 4 → Tab.getD s.links l 0 < 16 → ∃ n, (n = 1 ∨ n = Tab.getD s.links l 0 + 1) ∧
    exec (.flitCrcFailure l) s = .next { s with links := Tab.set s.links l n }) ∧
  (∀ s l n, l < 4 → Tab.getD s.links l 0 < 16 → Tab.getD s.linkWorking l 0 ≤ n → exec (.linkRetrain l n) s = .fault .eventNotEnabled) ∧
  (∀ s l n, l < 4 → n ≤ 12 → (16 ≤ Tab.getD s.links l 0 ∨ n < Tab.getD s.linkWorking l 0) →
    (8 ≤ n → exec (.linkRetrain l n) s = .next { s with links := Tab.set s.links l 0, linkWorking := Tab.set s.linkWorking l n }) ∧
    (n < 8 → exec (.linkRetrain l n) s = .next s.setFatal)) ∧
  (∀ s d, 1 ≤ d → d ≤ 3 → ∃ t, exec (.timeAlignment d) s = .next t ∧ s.timeOf d ≤ t.timeOf d ∧
    (∀ e, e ≠ d → t.timeOf e = s.timeOf e) ∧ ((∀ e < 4, ∀ f < 4, (s.die e).skew ≤ (s.die f).skew + 2) →
      ∀ e < 4, ∀ f < 4, (t.die e).skew ≤ (t.die f).skew + 2)) ∧
  (∀ s sub detail w, (sub = 1 ∨ sub = 2) → exec (.illegalInstruction sub detail w) s =
    .next (s.takeTrap s.cur { cause := sub, taddr := s.me.pc + BitVec.ofNat 64 (2 * w), tinfo := detail })) ∧
  (∀ s x, s.fetch s.cur s.me.pc = .fail (.trap x) → exec .fetchFault s = .next (s.takeTrap s.cur x)) ∧
  (∀ s a, s.fetch s.cur s.me.pc = .fail (.miss a) → exec .fetchFault s = .next (s.drop s.cur [a] true false)) ∧
  (∀ s va l, s.fetch s.cur s.me.pc = .fail (.away va l) → ∃ t p, exec .fetchFault s = .next t ∧ t.me.status = .parked .own ∧
    t.me.pending = some p ∧ p.finish = .fetch va ∧ t.me.pc = s.me.pc ∧ t.me.regs = s.me.regs)

/-! ## The machine as a whole (R29, R68, R131, R392, R394, R404, R438, R464) -/

/-- R29, R41, R131, R392, R394 and R404: a step runs the instruction whose words stand at the PC of the slot that issues, from the
fetch block that it holds or by a fetch; an item of a repeat body runs from the buffer; a rejected access is raised instead with
cause 0x14, and a store that a port has refused with cause 0x0B; words that are no instruction, and a failing fetch, take their events;
with no slot to issue the cycle ends; and what is due comes first. The model's choice are the order of the cores and of what is due
within a cycle (logs 6 and 7), when a refused store is raised (log 91), from where a fetch block comes (log 95), and how far the words
of an illegal chain are fetched (log 117). -/
def Obligations.StepRunsTheDecodedInstruction : Prop :=
  ∀ (s : State) (g : Nat), s.fatal = false →
    (s.agenda = [] → s.turn = .issue → s.nextIssuer (784 - s.turnCore) s.turnCore = some g → (s.slot g).reject = none →
      (s.slot g).late = none → (s.slot g).bodyItem = none →
      (∀ b i n, (s.slot g).blocks.find? (fun x => x.va == (s.slot g).pc.toNat / 64 * 64) = some b → b.bad = [] →
        (s.slot g).pc.toNat < 2 ^ 49 → (s.slot g).pc.toNat % 64 + 2 * n ≤ 64 →
        decode ((List.range n).map fun k => numLe ((b.bytes.drop ((s.slot g).pc.toNat % 64 + 2 * k)).take 2)) = .ok (i, n) →
        step s = exec i ((s.atTurn g).withFetched i (2 * n) b [])) ∧
      (∀ i len block fills, (s.atTurn g).fetch g (s.slot g).pc = .instr i len block fills →
        step s = exec i ((s.atTurn g).withFetched i len block fills)) ∧
      (∀ e fills, (s.atTurn g).fetch g (s.slot g).pc = .bad e fills →
        step s = exec (.illegalInstruction e.cause e.detail e.word) ((s.atTurn g).installAll (coreOf g) fills)) ∧
      (∀ f, (s.atTurn g).fetch g (s.slot g).pc = .fail f → step s = exec .fetchFault (s.atTurn g))) ∧
    (s.agenda = [] → s.turn = .issue → s.nextIssuer (784 - s.turnCore) s.turnCore = some g →
      (∀ b, (s.slot g).reject = none → (s.slot g).late = none → (s.slot g).bodyItem = some b →
        step s = exec b.instr { s.atTurn g with ilen := b.len }) ∧
      (∀ a ring, (s.slot g).reject = none → (s.slot g).late = some (a, ring) →
        step s = .next (((s.atTurn g).modMe fun x => { x with late := none }).takeTrap g { cause := 0x0B, taddr := a, tinfo := ring })) ∧
      (∀ why a f, (s.slot g).reject = some (why, a, f) → step s = .next (((s.atTurn g).modMe fun x => { x with reject := none }).takeTrap g
        { cause := 0x14, taddr := a, tinfo := (if f then 1 else 0) + 2 * why }))) ∧
    (s.agenda = [] → s.turn = .issue → s.nextIssuer (784 - s.turnCore) s.turnCore = none → step s = .next s.endCycle) ∧
    (∀ e rest t, s.agenda = e :: rest → exec e { s with agenda := rest, tick := s.tick + 1 } = .next t → step s = .next t)

/-- R438: a module that is out of service serves nothing until it is reset: its inputs are lost one by one, nothing else changes,
and only a module reset brings it back. The second clause is an invariant of every step: no slot of such a module ever runs
again. That its slots are stopped, and that a step with no input stops, is the model's choice (log 77), and so is the order in which
inputs are lost (log 78). -/
def Obligations.OutOfServiceUntilModuleReset : Prop :=
  (∀ s : State, s.fatal = true →
    (s.inputs = [] → step s = .fault .outOfService) ∧
    (∀ i r, s.inputs = i :: r → i ≠ .moduleReset → step s = .next { s with inputs := r }) ∧
    (∀ r, s.inputs = .moduleReset :: r → step s = .next { s with inputs := r }.afterReset)) ∧
  (∀ s t : State, s.fatal = true → .moduleReset ∉ s.inputs → (∀ g, (s.slot g).status = .stopped ∨ (s.slot g).status = .empty) →
    step s = .next t → t.fatal = true ∧ .moduleReset ∉ t.inputs ∧ ∀ g, (t.slot g).status = .stopped ∨ (t.slot g).status = .empty) ∧
  (∀ s : State, s.setFatal.fatal = true ∧ s.setFatal.ready = false ∧ s.setFatal.mem = s.mem ∧
    ∀ g, (s.setFatal.slot g).status = .stopped ∨ (s.setFatal.slot g).status = .empty)

/-- R464, with the values that the model names for what the manual leaves open (notes/assumptions/3.md): right after release of
module reset the module is not ready and not out of service, no slot holds a unit, every register of every slot is 0, no launch,
queue, message or job is there, memory reads as zero everywhere in its canonical form, and the first power-up step is under way. -/
def Obligations.StateAtReset : Prop :=
  State.reset.ready = false ∧ State.reset.fatal = false ∧ State.reset.powerStep = 0 ∧ State.reset.rising = true ∧
  (∀ g, (State.reset.slot g).status = .empty ∧ (State.reset.slot g).unit = none ∧ ∀ n, (State.reset.slot g).x n = 0) ∧
  (∀ g, (State.reset.slot g).pc = 0 ∧ (State.reset.slot g).thand = 0 ∧ (State.reset.slot g).tcause = 0) ∧
  State.reset.mem.wf = true ∧ (∀ a, State.reset.mem.byte a = 0) ∧
  State.reset.launches = [] ∧ State.reset.queues = [] ∧ State.reset.mails = [] ∧ State.reset.jobs = [] ∧ core.reset = State.reset

/-- An invariant of every step: memory keeps its canonical form (rising addresses, and no byte listed that reads so unlisted),
whatever the step is: an instruction, a trap, a page fault, an event or an input. The form itself is the model's own (notes/assumptions/5.md). -/
def Obligations.EveryStepKeepsMemoryCanonical : Prop :=
  ∀ s t : State, s.mem.wf = true → step s = .next t → t.mem.wf = true
end

