-- ==== Sys2Proof/Laws/Tab.lean ====
section
/-! SUPPORT. Laws of tables: reading after writing and removing, for every list of pairs, and the rising order of keys. -/

namespace Sys2Proof.Machine

variable {α : Type}

@[simp] theorem Tab.get?_set_self (t : Tab α) (k : Nat) (v : α) : Tab.get? (Tab.set t k v) k = some v := by
  induction t with
  | nil => simp [Tab.set, Tab.get?]
  | cons e r ih =>
    simp only [Tab.set]
    split
    · simp [Tab.get?]
    · split
      · simp [Tab.get?]
      · rename_i h
        simp [Tab.get?, h, ih]

theorem Tab.get?_set_ne (t : Tab α) {k j : Nat} (v : α) (h : j ≠ k) : Tab.get? (Tab.set t k v) j = Tab.get? t j := by
  induction t with
  | nil => simp [Tab.set, Tab.get?, h]
  | cons e r ih =>
    simp only [Tab.set]
    split
    · simp [Tab.get?, h]
    · split
      · rename_i h1 h2
        subst h2
        simp [Tab.get?, h]
      · simp [Tab.get?, ih]

@[simp] theorem Tab.getD_set_self (t : Tab α) (k : Nat) (v d : α) : Tab.getD (Tab.set t k v) k d = v := by simp [Tab.getD]

theorem Tab.getD_set_ne (t : Tab α) {k j : Nat} (v d : α) (h : j ≠ k) : Tab.getD (Tab.set t k v) j d = Tab.getD t j d := by
  simp [Tab.getD, Tab.get?_set_ne t v h]

@[simp] theorem Tab.get?_del_self (t : Tab α) (k : Nat) : Tab.get? (Tab.del t k) k = none := by
  induction t with
  | nil => rfl
  | cons e r ih =>
    simp only [Tab.del]
    split
    · exact ih
    · rename_i h
      simp [Tab.get?, h, ih]

theorem Tab.get?_del_ne (t : Tab α) {k j : Nat} (h : j ≠ k) : Tab.get? (Tab.del t k) j = Tab.get? t j := by
  induction t with
  | nil => rfl
  | cons e r ih =>
    simp only [Tab.del]
    split
    · rename_i h1
      subst h1
      simp [Tab.get?, h, ih]
    · simp [Tab.get?, ih]

theorem Tab.get?_each (t : Tab α) (f : Nat → α → α) (k : Nat) : Tab.get? (Tab.each t f) k = (Tab.get? t k).map (f k) := by
  induction t with
  | nil => rfl
  | cons e r ih =>
    obtain ⟨k', v'⟩ := e
    by_cases h : k = k'
    · subst h; simp [Tab.each, Tab.get?]
    · have : Tab.get? (Tab.each r f) k = (Tab.get? r k).map (f k) := ih
      simp only [Tab.each] at this
      simp [Tab.each, Tab.get?, h, this]

/-! ## Rising keys -/

theorem Tab.risesAbove_mono {lo lo' : Nat} (h : lo' ≤ lo) : ∀ {t : Tab α}, Tab.risesAbove lo t = true → Tab.risesAbove lo' t = true
  | [], _ => rfl
  | (k, _) :: r, hr => by
    simp only [Tab.risesAbove, Bool.and_eq_true, decide_eq_true_eq] at hr ⊢
    exact ⟨by omega, hr.2⟩

theorem Tab.risesAbove_set {lo k : Nat} (v : α) (hk : lo < k) :
    ∀ {t : Tab α}, Tab.risesAbove lo t = true → Tab.risesAbove lo (Tab.set t k v) = true
  | [], _ => by simp [Tab.set, Tab.risesAbove, hk]
  | (k', v') :: r, h => by
    simp only [Tab.risesAbove, Bool.and_eq_true, decide_eq_true_eq] at h
    simp only [Tab.set]
    split
    · rename_i hlt
      simp [Tab.risesAbove, hk, hlt, h.2]
    · split
      · rename_i h1 h2
        subst h2
        simp [Tab.risesAbove, hk, h.2]
      · simp only [Tab.risesAbove, Bool.and_eq_true, decide_eq_true_eq]
        exact ⟨h.1, Tab.risesAbove_set v (by omega) h.2⟩

theorem Tab.risesAbove_del {lo k : Nat} : ∀ {t : Tab α}, Tab.risesAbove lo t = true → Tab.risesAbove lo (Tab.del t k) = true
  | [], _ => rfl
  | (k', v') :: r, h => by
    simp only [Tab.risesAbove, Bool.and_eq_true, decide_eq_true_eq] at h
    simp only [Tab.del]
    split
    · exact Tab.risesAbove_del (Tab.risesAbove_mono (by omega) h.2)
    · simp only [Tab.risesAbove, Bool.and_eq_true, decide_eq_true_eq]
      exact ⟨h.1, Tab.risesAbove_del h.2⟩

theorem Tab.risesAbove_filter {lo : Nat} (p : Nat × α → Bool) :
    ∀ {t : Tab α}, Tab.risesAbove lo t = true → Tab.risesAbove lo (t.filter p) = true
  | [], _ => rfl
  | (k', v') :: r, h => by
    simp only [Tab.risesAbove, Bool.and_eq_true, decide_eq_true_eq] at h
    simp only [List.filter]
    split
    · simp only [Tab.risesAbove, Bool.and_eq_true, decide_eq_true_eq]
      exact ⟨h.1, Tab.risesAbove_filter p h.2⟩
    · exact Tab.risesAbove_filter p (Tab.risesAbove_mono (by omega) h.2)

theorem Tab.rises_of_risesAbove {lo : Nat} : ∀ {t : Tab α}, Tab.risesAbove lo t = true → Tab.rises t = true
  | [], _ => rfl
  | (_, _) :: _, h => by
    simp only [Tab.risesAbove, Bool.and_eq_true] at h
    exact h.2

theorem Tab.rises_set (k : Nat) (v : α) : ∀ {t : Tab α}, Tab.rises t = true → Tab.rises (Tab.set t k v) = true
  | [], _ => rfl
  | (k', v') :: r, h => by
    simp only [Tab.rises] at h
    simp only [Tab.set]
    split
    · rename_i hlt
      simp [Tab.rises, Tab.risesAbove, hlt, h]
    · split
      · rename_i h1 h2
        subst h2
        exact h
      · exact Tab.risesAbove_set v (by omega) h

theorem Tab.rises_del (k : Nat) : ∀ {t : Tab α}, Tab.rises t = true → Tab.rises (Tab.del t k) = true
  | [], _ => rfl
  | (k', v') :: r, h => by
    simp only [Tab.rises] at h
    simp only [Tab.del]
    split
    · exact Tab.rises_of_risesAbove (Tab.risesAbove_del h)
    · exact Tab.risesAbove_del h

theorem Tab.rises_filter (p : Nat × α → Bool) : ∀ {t : Tab α}, Tab.rises t = true → Tab.rises (t.filter p) = true
  | [], _ => rfl
  | (k', v') :: r, h => by
    simp only [Tab.rises] at h
    simp only [List.filter]
    split
    · exact Tab.risesAbove_filter p h
    · exact Tab.rises_of_risesAbove (Tab.risesAbove_filter p h)

/-- Membership after a write, where the keys may be in any order. -/
theorem Tab.mem_set {k : Nat} {v : α} : ∀ {t : Tab α} {e : Nat × α}, e ∈ Tab.set t k v → e = (k, v) ∨ e ∈ t
  | [], e, h => by simpa [Tab.set] using h
  | (k', v') :: r, e, h => by
    simp only [Tab.set] at h
    split at h
    · simpa using h
    · split at h
      · rcases List.mem_cons.1 h with h | h
        · exact .inl h
        · exact .inr (List.mem_cons_of_mem _ h)
      · rcases List.mem_cons.1 h with h | h
        · exact .inr (h ▸ List.mem_cons_self)
        · exact (Tab.mem_set h).imp_right (List.mem_cons_of_mem _)

theorem Tab.mem_del {k : Nat} : ∀ {t : Tab α} {e : Nat × α}, e ∈ Tab.del t k → e ∈ t
  | [], _, h => h
  | (k', v') :: r, e, h => by
    simp only [Tab.del] at h
    split at h
    · exact List.mem_cons_of_mem _ (Tab.mem_del h)
    · rcases List.mem_cons.1 h with h | h
      · exact h ▸ List.mem_cons_self
      · exact List.mem_cons_of_mem _ (Tab.mem_del h)

end Sys2Proof.Machine
end

