-- ==== Sys2Proof/Laws/Memory.lean ====
section
/-! SUPPORT. Every operation on memory keeps its canonical form, and memory at reset has it. -/

namespace Sys2Proof.Machine

theorem Memory.wf_iff (m : Memory) : m.wf = true ↔ Tab.rises m.cells = true ∧ ∀ c ∈ m.cells, c.2 ≠ blank := by
  simp [Memory.wf]

theorem Memory.setByte_wf {m : Memory} (h : m.wf = true) (a : Nat) (b : Byte) : (m.setByte a b).wf = true := by
  rw [Memory.wf_iff] at h ⊢
  unfold Memory.setByte
  split
  · exact ⟨Tab.rises_del a h.1, fun c hc => h.2 c (Tab.mem_del hc)⟩
  · rename_i hb
    refine ⟨Tab.rises_set a b h.1, fun c hc => ?_⟩
    rcases Tab.mem_set hc with rfl | hc
    · exact hb
    · exact h.2 c hc

theorem Memory.write_wf {m : Memory} (h : m.wf = true) (a : Nat) (bs : List Byte) : (m.write a bs).wf = true := by
  induction bs generalizing m a with
  | nil => exact h
  | cons b r ih => exact ih (Memory.setByte_wf h a b) (a + 1)

theorem Memory.writeCells_wf {m : Memory} (h : m.wf = true) (cs : List Host.Cell) : (m.writeCells cs).wf = true := by
  induction cs generalizing m with
  | nil => exact h
  | cons c r ih => exact ih (Memory.setByte_wf h c.1 c.2)

theorem Memory.zero_wf {m : Memory} (h : m.wf = true) (lo hi : Nat) : (m.zero lo hi).wf = true := by
  rw [Memory.wf_iff] at h ⊢
  exact ⟨Tab.rises_filter _ h.1, fun c hc => h.2 c (List.mem_filter.1 hc).1⟩

theorem Memory.empty_wf : ({} : Memory).wf = true := rfl

theorem State.reset_mem_wf : State.reset.mem.wf = true := rfl

/-- The bytes of a state's memory that nothing has written read as zero after reset. -/
theorem State.reset_mem_byte (a : Nat) : State.reset.mem.byte a = 0 := rfl

end Sys2Proof.Machine
end

