-- ==== Sys2Proof/Laws/Operands.lean ====
section
/-! SUPPORT. What the shared operations of Machine/Operands.lean do when the operands are there. -/

namespace Sys2Proof.Machine

open Host

theorem State.scan_of_values {s : State} : ∀ {reads seen vs}, s.valuesFrom reads seen = some vs → s.scan reads seen = .ok vs
  | [], _, vs, h => by simp only [State.valuesFrom, Option.some.injEq] at h; simp [State.scan, h]
  | r :: rs, seen, vs, h => by
    simp only [State.valuesFrom] at h
    split at h
    · rename_i v ws hv hw
      cases h
      unfold State.scan
      by_cases hp : isPort r = true
      · simp only [hp, if_true] at hw ⊢
        have ih := State.scan_of_values hw
        simp only [State.peek, hp, if_true] at hv
        split at hv
        · rename_i e he
          split at hv
          · rename_i ht
            cases hv
            simp [he, ht, ih, Except.map]
          · cases hv
        · cases hv
      · simp only [hp] at hw ⊢
        have ih := State.scan_of_values hw
        simp only [State.peek, hp] at hv
        cases hv
        simp only [Bool.false_eq_true, if_false] at ih
        simp [ih, Except.map]
    · cases h

theorem any_reserved_false {l : List Nat} (h : ∀ n ∈ l, ¬(51 ≤ n ∧ n ≤ 55)) :
    (l.any fun n => decide (51 ≤ n) && decide (n ≤ 55)) = false := by
  rw [List.any_eq_false]
  intro n hn
  have := h n hn
  simp; omega

/-- Operands that are there are read and popped. -/
theorem State.operands_ready {s : State} {reads : List Nat} {write : Option Nat} {vs : List Word} {extra : List Nat}
    (h : s.Ready reads write vs extra) : s.operands reads write extra = .ok (vs, s.popAll reads) := by
  have h1 := any_reserved_false h.exist
  have h2 : (reads.all s.me.mayRead && write.toList.all s.me.mayWrite) = true := by
    simp only [Bool.and_eq_true, List.all_eq_true]
    exact ⟨h.readable, fun d hd => (h.writable d (by simpa using hd)).1⟩
  have h3 : (reads ++ write.toList ++ extra).all s.me.declared = true := List.all_eq_true.2 h.declared
  simp only [State.operands, h1, h2, h3, State.scan_of_values h.values]
  cases write with
  | none => rfl
  | some d =>
    have := (h.writable d rfl).2
    by_cases hp : isPort d = true
    · simp [hp, this hp, bind, Except.bind]
    · simp [hp, bind, Except.bind]

/-- As `operands_ready`, for an instruction that reads its destination. -/
theorem State.operandsD_ready {s : State} {d : Nat} {reads : List Nat} {vs : List Word}
    (h : s.Ready (d :: reads) (some d) vs) (hp : isPort d = false) :
    s.operandsD d reads = .ok (vs, s.popAll (d :: reads)) := by
  have h1 := any_reserved_false (l := d :: reads) fun n hn => h.exist n (List.mem_append_left _ hn)
  rw [State.operandsD, h1, hp]
  simpa using State.operands_ready h

/-- As `operands_ready`, for an instruction whose fields may name no port. -/
theorem State.operandsNP_ready {s : State} {reads : List Nat} {write : Option Nat} {vs : List Word} {extra : List Nat}
    (h : s.Ready reads write vs extra) (hp : NoPorts (reads ++ write.toList)) :
    s.operandsNP reads write extra = .ok (vs, s.popAll reads) := by
  have h1 := any_reserved_false h.exist
  have h2 : (reads ++ write.toList).any isPort = false := List.any_eq_false.2 fun n hn => by simp [hp n hn]
  rw [State.operandsNP, h1, h2]
  simpa using State.operands_ready h

/-- Registers that are no ports are not popped. -/
theorem State.popAll_noPorts {s : State} : ∀ {reads : List Nat}, NoPorts reads → s.popAll reads = s
  | [], _ => rfl
  | r :: rs, h => by
    have hr : isPort r = false := h r (by simp)
    simp only [State.popAll, hr]
    exact State.popAll_noPorts fun n hn => h n (by simp [hn])

/-! ## Shapes of computing instructions -/

theorem nullary_ready {s : State} {d : Nat} {v : Word} (h : s.Ready [] (some d) []) : nullary s d v = .next (s.after [] d v) := by
  simp [nullary, State.operands_ready h, bind, Except.bind, conclude, State.after]

theorem unary_ready {s : State} {d a : Nat} {x : Word} {f : Word → Word} (h : s.Ready [a] (some d) [x]) :
    unary s d a f = .next (s.after [a] d (f x)) := by
  simp [unary, State.operands_ready h, bind, Except.bind, conclude, State.after]

theorem binary_ready {s : State} {d a b : Nat} {x y : Word} {f : Word → Word → Word} (h : s.Ready [a, b] (some d) [x, y]) :
    binary s d a b f = .next (s.after [a, b] d (f x y)) := by
  simp [binary, State.operands_ready h, bind, Except.bind, conclude, State.after]

theorem ternary_ready {s : State} {d a b : Nat} {c x y : Word} {f : Word → Word → Word → Word}
    (h : s.Ready [d, a, b] (some d) [c, x, y]) (hp : isPort d = false) :
    ternary s d a b f = .next (s.after [d, a, b] d (f c x y)) := by
  simp [ternary, State.operandsD_ready h hp, bind, Except.bind, conclude, State.after]

theorem unaryF_ready {s : State} {d a : Nat} {x : Word} {f : Word → Word × Nat} (h : s.Ready [a] (some d) [x]) :
    unaryF s d a f = .next (s.afterFlags [a] d (f x).1 (f x).2) := by
  simp [unaryF, State.operands_ready h, bind, Except.bind, conclude, State.afterFlags]

theorem binaryF_ready {s : State} {d a b : Nat} {x y : Word} {f : Word → Word → Word × Nat} (h : s.Ready [a, b] (some d) [x, y]) :
    binaryF s d a b f = .next (s.afterFlags [a, b] d (f x y).1 (f x y).2) := by
  simp [binaryF, State.operands_ready h, bind, Except.bind, conclude, State.afterFlags]

theorem ternaryF_ready {s : State} {d a b : Nat} {c x y : Word} {f : Word → Word → Word → Word × Nat}
    (h : s.Ready [d, a, b] (some d) [c, x, y]) (hp : isPort d = false) :
    ternaryF s d a b f = .next (s.afterFlags [d, a, b] d (f c x y).1 (f c x y).2) := by
  simp [ternaryF, State.operandsD_ready h hp, bind, Except.bind, conclude, State.afterFlags]

end Sys2Proof.Machine
end

