-- ==== Sys2Proof/Laws/State.lean ====
section
/-! SUPPORT. What each update of the state leaves as it was, field by field, and what it writes. -/

namespace Sys2Proof.Machine

/-! ## setSlot -/

@[simp] theorem State.setSlot_cores (s : State) (g : Nat) (x : Slot) : (s.setSlot g x).cores = s.cores := rfl
@[simp] theorem State.setSlot_clusters (s : State) (g : Nat) (x : Slot) : (s.setSlot g x).clusters = s.clusters := rfl
@[simp] theorem State.setSlot_dies (s : State) (g : Nat) (x : Slot) : (s.setSlot g x).dies = s.dies := rfl
@[simp] theorem State.setSlot_mem (s : State) (g : Nat) (x : Slot) : (s.setSlot g x).mem = s.mem := rfl
@[simp] theorem State.setSlot_lost (s : State) (g : Nat) (x : Slot) : (s.setSlot g x).lost = s.lost := rfl
@[simp] theorem State.setSlot_found (s : State) (g : Nat) (x : Slot) : (s.setSlot g x).found = s.found := rfl
@[simp] theorem State.setSlot_cur (s : State) (g : Nat) (x : Slot) : (s.setSlot g x).cur = s.cur := rfl
@[simp] theorem State.setSlot_ilen (s : State) (g : Nat) (x : Slot) : (s.setSlot g x).ilen = s.ilen := rfl
@[simp] theorem State.setSlot_net (s : State) (g : Nat) (x : Slot) : (s.setSlot g x).net = s.net := rfl
@[simp] theorem State.setSlot_acks (s : State) (g : Nat) (x : Slot) : (s.setSlot g x).acks = s.acks := rfl
@[simp] theorem State.setSlot_replies (s : State) (g : Nat) (x : Slot) : (s.setSlot g x).replies = s.replies := rfl
@[simp] theorem State.setSlot_prefetches (s : State) (g : Nat) (x : Slot) : (s.setSlot g x).prefetches = s.prefetches := rfl
@[simp] theorem State.setSlot_walks (s : State) (g : Nat) (x : Slot) : (s.setSlot g x).walks = s.walks := rfl
@[simp] theorem State.setSlot_sendings (s : State) (g : Nat) (x : Slot) : (s.setSlot g x).sendings = s.sendings := rfl
@[simp] theorem State.setSlot_arrivals (s : State) (g : Nat) (x : Slot) : (s.setSlot g x).arrivals = s.arrivals := rfl
@[simp] theorem State.setSlot_accepted (s : State) (g : Nat) (x : Slot) : (s.setSlot g x).accepted = s.accepted := rfl
@[simp] theorem State.setSlot_promReqs (s : State) (g : Nat) (x : Slot) : (s.setSlot g x).promReqs = s.promReqs := rfl
@[simp] theorem State.setSlot_promReps (s : State) (g : Nat) (x : Slot) : (s.setSlot g x).promReps = s.promReps := rfl
@[simp] theorem State.setSlot_tlbOps (s : State) (g : Nat) (x : Slot) : (s.setSlot g x).tlbOps = s.tlbOps := rfl
@[simp] theorem State.setSlot_reports (s : State) (g : Nat) (x : Slot) : (s.setSlot g x).reports = s.reports := rfl
@[simp] theorem State.setSlot_reportSeq (s : State) (g : Nat) (x : Slot) : (s.setSlot g x).reportSeq = s.reportSeq := rfl
@[simp] theorem State.setSlot_wakes (s : State) (g : Nat) (x : Slot) : (s.setSlot g x).wakes = s.wakes := rfl
@[simp] theorem State.setSlot_csrWrites (s : State) (g : Nat) (x : Slot) : (s.setSlot g x).csrWrites = s.csrWrites := rfl
@[simp] theorem State.setSlot_moves (s : State) (g : Nat) (x : Slot) : (s.setSlot g x).moves = s.moves := rfl
@[simp] theorem State.setSlot_shadowFills (s : State) (g : Nat) (x : Slot) : (s.setSlot g x).shadowFills = s.shadowFills := rfl
@[simp] theorem State.setSlot_filling (s : State) (g : Nat) (x : Slot) : (s.setSlot g x).filling = s.filling := rfl
@[simp] theorem State.setSlot_pushWrites (s : State) (g : Nat) (x : Slot) : (s.setSlot g x).pushWrites = s.pushWrites := rfl
@[simp] theorem State.setSlot_asids (s : State) (g : Nat) (x : Slot) : (s.setSlot g x).asids = s.asids := rfl
@[simp] theorem State.setSlot_pages (s : State) (g : Nat) (x : Slot) : (s.setSlot g x).pages = s.pages := rfl
@[simp] theorem State.setSlot_seals (s : State) (g : Nat) (x : Slot) : (s.setSlot g x).seals = s.seals := rfl
@[simp] theorem State.setSlot_withdrawn (s : State) (g : Nat) (x : Slot) : (s.setSlot g x).withdrawn = s.withdrawn := rfl
@[simp] theorem State.setSlot_windows (s : State) (g : Nat) (x : Slot) : (s.setSlot g x).windows = s.windows := rfl
@[simp] theorem State.setSlot_keys (s : State) (g : Nat) (x : Slot) : (s.setSlot g x).keys = s.keys := rfl
@[simp] theorem State.setSlot_keyed (s : State) (g : Nat) (x : Slot) : (s.setSlot g x).keyed = s.keyed := rfl
@[simp] theorem State.setSlot_under (s : State) (g : Nat) (x : Slot) : (s.setSlot g x).under = s.under := rfl
@[simp] theorem State.setSlot_frames (s : State) (g : Nat) (x : Slot) : (s.setSlot g x).frames = s.frames := rfl
@[simp] theorem State.setSlot_regulator (s : State) (g : Nat) (x : Slot) : (s.setSlot g x).regulator = s.regulator := rfl
@[simp] theorem State.setSlot_activates (s : State) (g : Nat) (x : Slot) : (s.setSlot g x).activates = s.activates := rfl
@[simp] theorem State.setSlot_lowmark (s : State) (g : Nat) (x : Slot) : (s.setSlot g x).lowmark = s.lowmark := rfl
@[simp] theorem State.setSlot_retrain (s : State) (g : Nat) (x : Slot) : (s.setSlot g x).retrain = s.retrain := rfl
@[simp] theorem State.setSlot_stepctr (s : State) (g : Nat) (x : Slot) : (s.setSlot g x).stepctr = s.stepctr := rfl
@[simp] theorem State.setSlot_steers (s : State) (g : Nat) (x : Slot) : (s.setSlot g x).steers = s.steers := rfl
@[simp] theorem State.setSlot_launches (s : State) (g : Nat) (x : Slot) : (s.setSlot g x).launches = s.launches := rfl
@[simp] theorem State.setSlot_graphs (s : State) (g : Nat) (x : Slot) : (s.setSlot g x).graphs = s.graphs := rfl
@[simp] theorem State.setSlot_phases (s : State) (g : Nat) (x : Slot) : (s.setSlot g x).phases = s.phases := rfl
@[simp] theorem State.setSlot_jobs (s : State) (g : Nat) (x : Slot) : (s.setSlot g x).jobs = s.jobs := rfl
@[simp] theorem State.setSlot_nextJob (s : State) (g : Nat) (x : Slot) : (s.setSlot g x).nextJob = s.nextJob := rfl
@[simp] theorem State.setSlot_leaving (s : State) (g : Nat) (x : Slot) : (s.setSlot g x).leaving = s.leaving := rfl
@[simp] theorem State.setSlot_levelCopies (s : State) (g : Nat) (x : Slot) : (s.setSlot g x).levelCopies = s.levelCopies := rfl
@[simp] theorem State.setSlot_subQs (s : State) (g : Nat) (x : Slot) : (s.setSlot g x).subQs = s.subQs := rfl
@[simp] theorem State.setSlot_pointers (s : State) (g : Nat) (x : Slot) : (s.setSlot g x).pointers = s.pointers := rfl
@[simp] theorem State.setSlot_queues (s : State) (g : Nat) (x : Slot) : (s.setSlot g x).queues = s.queues := rfl
@[simp] theorem State.setSlot_nextQueue (s : State) (g : Nat) (x : Slot) : (s.setSlot g x).nextQueue = s.nextQueue := rfl
@[simp] theorem State.setSlot_mails (s : State) (g : Nat) (x : Slot) : (s.setSlot g x).mails = s.mails := rfl
@[simp] theorem State.setSlot_barReqs (s : State) (g : Nat) (x : Slot) : (s.setSlot g x).barReqs = s.barReqs := rfl
@[simp] theorem State.setSlot_barAns (s : State) (g : Nat) (x : Slot) : (s.setSlot g x).barAns = s.barAns := rfl
@[simp] theorem State.setSlot_spawns (s : State) (g : Nat) (x : Slot) : (s.setSlot g x).spawns = s.spawns := rfl
@[simp] theorem State.setSlot_probes (s : State) (g : Nat) (x : Slot) : (s.setSlot g x).probes = s.probes := rfl
@[simp] theorem State.setSlot_migrations (s : State) (g : Nat) (x : Slot) : (s.setSlot g x).migrations = s.migrations := rfl
@[simp] theorem State.setSlot_cancels (s : State) (g : Nat) (x : Slot) : (s.setSlot g x).cancels = s.cancels := rfl
@[simp] theorem State.setSlot_preempts (s : State) (g : Nat) (x : Slot) : (s.setSlot g x).preempts = s.preempts := rfl
@[simp] theorem State.setSlot_ports (s : State) (g : Nat) (x : Slot) : (s.setSlot g x).ports = s.ports := rfl
@[simp] theorem State.setSlot_hostReads (s : State) (g : Nat) (x : Slot) : (s.setSlot g x).hostReads = s.hostReads := rfl
@[simp] theorem State.setSlot_hostData (s : State) (g : Nat) (x : Slot) : (s.setSlot g x).hostData = s.hostData := rfl
@[simp] theorem State.setSlot_remote (s : State) (g : Nat) (x : Slot) : (s.setSlot g x).remote = s.remote := rfl
@[simp] theorem State.setSlot_accelId (s : State) (g : Nat) (x : Slot) : (s.setSlot g x).accelId = s.accelId := rfl
@[simp] theorem State.setSlot_exports (s : State) (g : Nat) (x : Slot) : (s.setSlot g x).exports = s.exports := rfl
@[simp] theorem State.setSlot_groups (s : State) (g : Nat) (x : Slot) : (s.setSlot g x).groups = s.groups := rfl
@[simp] theorem State.setSlot_sentOut (s : State) (g : Nat) (x : Slot) : (s.setSlot g x).sentOut = s.sentOut := rfl
@[simp] theorem State.setSlot_ready (s : State) (g : Nat) (x : Slot) : (s.setSlot g x).ready = s.ready := rfl
@[simp] theorem State.setSlot_fatal (s : State) (g : Nat) (x : Slot) : (s.setSlot g x).fatal = s.fatal := rfl
@[simp] theorem State.setSlot_powerStep (s : State) (g : Nat) (x : Slot) : (s.setSlot g x).powerStep = s.powerStep := rfl
@[simp] theorem State.setSlot_firmware (s : State) (g : Nat) (x : Slot) : (s.setSlot g x).firmware = s.firmware := rfl
@[simp] theorem State.setSlot_power (s : State) (g : Nat) (x : Slot) : (s.setSlot g x).power = s.power := rfl
@[simp] theorem State.setSlot_links (s : State) (g : Nat) (x : Slot) : (s.setSlot g x).links = s.links := rfl
@[simp] theorem State.setSlot_linkWorking (s : State) (g : Nat) (x : Slot) : (s.setSlot g x).linkWorking = s.linkWorking := rfl
@[simp] theorem State.setSlot_cycle (s : State) (g : Nat) (x : Slot) : (s.setSlot g x).cycle = s.cycle := rfl
@[simp] theorem State.setSlot_timeBase (s : State) (g : Nat) (x : Slot) : (s.setSlot g x).timeBase = s.timeBase := rfl
@[simp] theorem State.setSlot_turnCore (s : State) (g : Nat) (x : Slot) : (s.setSlot g x).turnCore = s.turnCore := rfl
@[simp] theorem State.setSlot_turn (s : State) (g : Nat) (x : Slot) : (s.setSlot g x).turn = s.turn := rfl
@[simp] theorem State.setSlot_tick (s : State) (g : Nat) (x : Slot) : (s.setSlot g x).tick = s.tick := rfl
@[simp] theorem State.setSlot_nextId (s : State) (g : Nat) (x : Slot) : (s.setSlot g x).nextId = s.nextId := rfl
@[simp] theorem State.setSlot_agenda (s : State) (g : Nat) (x : Slot) : (s.setSlot g x).agenda = s.agenda := rfl
@[simp] theorem State.setSlot_inputs (s : State) (g : Nat) (x : Slot) : (s.setSlot g x).inputs = s.inputs := rfl
@[simp] theorem State.setSlot_again (s : State) (g : Nat) (x : Slot) : (s.setSlot g x).again = s.again := rfl

/-! ## modSlot -/

@[simp] theorem State.modSlot_cores (s : State) (g : Nat) (f : Slot → Slot) : (s.modSlot g f).cores = s.cores := rfl
@[simp] theorem State.modSlot_clusters (s : State) (g : Nat) (f : Slot → Slot) : (s.modSlot g f).clusters = s.clusters := rfl
@[simp] theorem State.modSlot_dies (s : State) (g : Nat) (f : Slot → Slot) : (s.modSlot g f).dies = s.dies := rfl
@[simp] theorem State.modSlot_mem (s : State) (g : Nat) (f : Slot → Slot) : (s.modSlot g f).mem = s.mem := rfl
@[simp] theorem State.modSlot_lost (s : State) (g : Nat) (f : Slot → Slot) : (s.modSlot g f).lost = s.lost := rfl
@[simp] theorem State.modSlot_found (s : State) (g : Nat) (f : Slot → Slot) : (s.modSlot g f).found = s.found := rfl
@[simp] theorem State.modSlot_cur (s : State) (g : Nat) (f : Slot → Slot) : (s.modSlot g f).cur = s.cur := rfl
@[simp] theorem State.modSlot_ilen (s : State) (g : Nat) (f : Slot → Slot) : (s.modSlot g f).ilen = s.ilen := rfl
@[simp] theorem State.modSlot_net (s : State) (g : Nat) (f : Slot → Slot) : (s.modSlot g f).net = s.net := rfl
@[simp] theorem State.modSlot_acks (s : State) (g : Nat) (f : Slot → Slot) : (s.modSlot g f).acks = s.acks := rfl
@[simp] theorem State.modSlot_replies (s : State) (g : Nat) (f : Slot → Slot) : (s.modSlot g f).replies = s.replies := rfl
@[simp] theorem State.modSlot_prefetches (s : State) (g : Nat) (f : Slot → Slot) : (s.modSlot g f).prefetches = s.prefetches := rfl
@[simp] theorem State.modSlot_walks (s : State) (g : Nat) (f : Slot → Slot) : (s.modSlot g f).walks = s.walks := rfl
@[simp] theorem State.modSlot_sendings (s : State) (g : Nat) (f : Slot → Slot) : (s.modSlot g f).sendings = s.sendings := rfl
@[simp] theorem State.modSlot_arrivals (s : State) (g : Nat) (f : Slot → Slot) : (s.modSlot g f).arrivals = s.arrivals := rfl
@[simp] theorem State.modSlot_accepted (s : State) (g : Nat) (f : Slot → Slot) : (s.modSlot g f).accepted = s.accepted := rfl
@[simp] theorem State.modSlot_promReqs (s : State) (g : Nat) (f : Slot → Slot) : (s.modSlot g f).promReqs = s.promReqs := rfl
@[simp] theorem State.modSlot_promReps (s : State) (g : Nat) (f : Slot → Slot) : (s.modSlot g f).promReps = s.promReps := rfl
@[simp] theorem State.modSlot_tlbOps (s : State) (g : Nat) (f : Slot → Slot) : (s.modSlot g f).tlbOps = s.tlbOps := rfl
@[simp] theorem State.modSlot_reports (s : State) (g : Nat) (f : Slot → Slot) : (s.modSlot g f).reports = s.reports := rfl
@[simp] theorem State.modSlot_reportSeq (s : State) (g : Nat) (f : Slot → Slot) : (s.modSlot g f).reportSeq = s.reportSeq := rfl
@[simp] theorem State.modSlot_wakes (s : State) (g : Nat) (f : Slot → Slot) : (s.modSlot g f).wakes = s.wakes := rfl
@[simp] theorem State.modSlot_csrWrites (s : State) (g : Nat) (f : Slot → Slot) : (s.modSlot g f).csrWrites = s.csrWrites := rfl
@[simp] theorem State.modSlot_moves (s : State) (g : Nat) (f : Slot → Slot) : (s.modSlot g f).moves = s.moves := rfl
@[simp] theorem State.modSlot_shadowFills (s : State) (g : Nat) (f : Slot → Slot) : (s.modSlot g f).shadowFills = s.shadowFills := rfl
@[simp] theorem State.modSlot_filling (s : State) (g : Nat) (f : Slot → Slot) : (s.modSlot g f).filling = s.filling := rfl
@[simp] theorem State.modSlot_pushWrites (s : State) (g : Nat) (f : Slot → Slot) : (s.modSlot g f).pushWrites = s.pushWrites := rfl
@[simp] theorem State.modSlot_asids (s : State) (g : Nat) (f : Slot → Slot) : (s.modSlot g f).asids = s.asids := rfl
@[simp] theorem State.modSlot_pages (s : State) (g : Nat) (f : Slot → Slot) : (s.modSlot g f).pages = s.pages := rfl
@[simp] theorem State.modSlot_seals (s : State) (g : Nat) (f : Slot → Slot) : (s.modSlot g f).seals = s.seals := rfl
@[simp] theorem State.modSlot_withdrawn (s : State) (g : Nat) (f : Slot → Slot) : (s.modSlot g f).withdrawn = s.withdrawn := rfl
@[simp] theorem State.modSlot_windows (s : State) (g : Nat) (f : Slot → Slot) : (s.modSlot g f).windows = s.windows := rfl
@[simp] theorem State.modSlot_keys (s : State) (g : Nat) (f : Slot → Slot) : (s.modSlot g f).keys = s.keys := rfl
@[simp] theorem State.modSlot_keyed (s : State) (g : Nat) (f : Slot → Slot) : (s.modSlot g f).keyed = s.keyed := rfl
@[simp] theorem State.modSlot_under (s : State) (g : Nat) (f : Slot → Slot) : (s.modSlot g f).under = s.under := rfl
@[simp] theorem State.modSlot_frames (s : State) (g : Nat) (f : Slot → Slot) : (s.modSlot g f).frames = s.frames := rfl
@[simp] theorem State.modSlot_regulator (s : State) (g : Nat) (f : Slot → Slot) : (s.modSlot g f).regulator = s.regulator := rfl
@[simp] theorem State.modSlot_activates (s : State) (g : Nat) (f : Slot → Slot) : (s.modSlot g f).activates = s.activates := rfl
@[simp] theorem State.modSlot_lowmark (s : State) (g : Nat) (f : Slot → Slot) : (s.modSlot g f).lowmark = s.lowmark := rfl
@[simp] theorem State.modSlot_retrain (s : State) (g : Nat) (f : Slot → Slot) : (s.modSlot g f).retrain = s.retrain := rfl
@[simp] theorem State.modSlot_stepctr (s : State) (g : Nat) (f : Slot → Slot) : (s.modSlot g f).stepctr = s.stepctr := rfl
@[simp] theorem State.modSlot_steers (s : State) (g : Nat) (f : Slot → Slot) : (s.modSlot g f).steers = s.steers := rfl
@[simp] theorem State.modSlot_launches (s : State) (g : Nat) (f : Slot → Slot) : (s.modSlot g f).launches = s.launches := rfl
@[simp] theorem State.modSlot_graphs (s : State) (g : Nat) (f : Slot → Slot) : (s.modSlot g f).graphs = s.graphs := rfl
@[simp] theorem State.modSlot_phases (s : State) (g : Nat) (f : Slot → Slot) : (s.modSlot g f).phases = s.phases := rfl
@[simp] theorem State.modSlot_jobs (s : State) (g : Nat) (f : Slot → Slot) : (s.modSlot g f).jobs = s.jobs := rfl
@[simp] theorem State.modSlot_nextJob (s : State) (g : Nat) (f : Slot → Slot) : (s.modSlot g f).nextJob = s.nextJob := rfl
@[simp] theorem State.modSlot_leaving (s : State) (g : Nat) (f : Slot → Slot) : (s.modSlot g f).leaving = s.leaving := rfl
@[simp] theorem State.modSlot_levelCopies (s : State) (g : Nat) (f : Slot → Slot) : (s.modSlot g f).levelCopies = s.levelCopies := rfl
@[simp] theorem State.modSlot_subQs (s : State) (g : Nat) (f : Slot → Slot) : (s.modSlot g f).subQs = s.subQs := rfl
@[simp] theorem State.modSlot_pointers (s : State) (g : Nat) (f : Slot → Slot) : (s.modSlot g f).pointers = s.pointers := rfl
@[simp] theorem State.modSlot_queues (s : State) (g : Nat) (f : Slot → Slot) : (s.modSlot g f).queues = s.queues := rfl
@[simp] theorem State.modSlot_nextQueue (s : State) (g : Nat) (f : Slot → Slot) : (s.modSlot g f).nextQueue = s.nextQueue := rfl
@[simp] theorem State.modSlot_mails (s : State) (g : Nat) (f : Slot → Slot) : (s.modSlot g f).mails = s.mails := rfl
@[simp] theorem State.modSlot_barReqs (s : State) (g : Nat) (f : Slot → Slot) : (s.modSlot g f).barReqs = s.barReqs := rfl
@[simp] theorem State.modSlot_barAns (s : State) (g : Nat) (f : Slot → Slot) : (s.modSlot g f).barAns = s.barAns := rfl
@[simp] theorem State.modSlot_spawns (s : State) (g : Nat) (f : Slot → Slot) : (s.modSlot g f).spawns = s.spawns := rfl
@[simp] theorem State.modSlot_probes (s : State) (g : Nat) (f : Slot → Slot) : (s.modSlot g f).probes = s.probes := rfl
@[simp] theorem State.modSlot_migrations (s : State) (g : Nat) (f : Slot → Slot) : (s.modSlot g f).migrations = s.migrations := rfl
@[simp] theorem State.modSlot_cancels (s : State) (g : Nat) (f : Slot → Slot) : (s.modSlot g f).cancels = s.cancels := rfl
@[simp] theorem State.modSlot_preempts (s : State) (g : Nat) (f : Slot → Slot) : (s.modSlot g f).preempts = s.preempts := rfl
@[simp] theorem State.modSlot_ports (s : State) (g : Nat) (f : Slot → Slot) : (s.modSlot g f).ports = s.ports := rfl
@[simp] theorem State.modSlot_hostReads (s : State) (g : Nat) (f : Slot → Slot) : (s.modSlot g f).hostReads = s.hostReads := rfl
@[simp] theorem State.modSlot_hostData (s : State) (g : Nat) (f : Slot → Slot) : (s.modSlot g f).hostData = s.hostData := rfl
@[simp] theorem State.modSlot_remote (s : State) (g : Nat) (f : Slot → Slot) : (s.modSlot g f).remote = s.remote := rfl
@[simp] theorem State.modSlot_accelId (s : State) (g : Nat) (f : Slot → Slot) : (s.modSlot g f).accelId = s.accelId := rfl
@[simp] theorem State.modSlot_exports (s : State) (g : Nat) (f : Slot → Slot) : (s.modSlot g f).exports = s.exports := rfl
@[simp] theorem State.modSlot_groups (s : State) (g : Nat) (f : Slot → Slot) : (s.modSlot g f).groups = s.groups := rfl
@[simp] theorem State.modSlot_sentOut (s : State) (g : Nat) (f : Slot → Slot) : (s.modSlot g f).sentOut = s.sentOut := rfl
@[simp] theorem State.modSlot_ready (s : State) (g : Nat) (f : Slot → Slot) : (s.modSlot g f).ready = s.ready := rfl
@[simp] theorem State.modSlot_fatal (s : State) (g : Nat) (f : Slot → Slot) : (s.modSlot g f).fatal = s.fatal := rfl
@[simp] theorem State.modSlot_powerStep (s : State) (g : Nat) (f : Slot → Slot) : (s.modSlot g f).powerStep = s.powerStep := rfl
@[simp] theorem State.modSlot_firmware (s : State) (g : Nat) (f : Slot → Slot) : (s.modSlot g f).firmware = s.firmware := rfl
@[simp] theorem State.modSlot_power (s : State) (g : Nat) (f : Slot → Slot) : (s.modSlot g f).power = s.power := rfl
@[simp] theorem State.modSlot_links (s : State) (g : Nat) (f : Slot → Slot) : (s.modSlot g f).links = s.links := rfl
@[simp] theorem State.modSlot_linkWorking (s : State) (g : Nat) (f : Slot → Slot) : (s.modSlot g f).linkWorking = s.linkWorking := rfl
@[simp] theorem State.modSlot_cycle (s : State) (g : Nat) (f : Slot → Slot) : (s.modSlot g f).cycle = s.cycle := rfl
@[simp] theorem State.modSlot_timeBase (s : State) (g : Nat) (f : Slot → Slot) : (s.modSlot g f).timeBase = s.timeBase := rfl
@[simp] theorem State.modSlot_turnCore (s : State) (g : Nat) (f : Slot → Slot) : (s.modSlot g f).turnCore = s.turnCore := rfl
@[simp] theorem State.modSlot_turn (s : State) (g : Nat) (f : Slot → Slot) : (s.modSlot g f).turn = s.turn := rfl
@[simp] theorem State.modSlot_tick (s : State) (g : Nat) (f : Slot → Slot) : (s.modSlot g f).tick = s.tick := rfl
@[simp] theorem State.modSlot_nextId (s : State) (g : Nat) (f : Slot → Slot) : (s.modSlot g f).nextId = s.nextId := rfl
@[simp] theorem State.modSlot_agenda (s : State) (g : Nat) (f : Slot → Slot) : (s.modSlot g f).agenda = s.agenda := rfl
@[simp] theorem State.modSlot_inputs (s : State) (g : Nat) (f : Slot → Slot) : (s.modSlot g f).inputs = s.inputs := rfl
@[simp] theorem State.modSlot_again (s : State) (g : Nat) (f : Slot → Slot) : (s.modSlot g f).again = s.again := rfl

/-! ## modMe -/

@[simp] theorem State.modMe_cores (s : State) (f : Slot → Slot) : (s.modMe f).cores = s.cores := rfl
@[simp] theorem State.modMe_clusters (s : State) (f : Slot → Slot) : (s.modMe f).clusters = s.clusters := rfl
@[simp] theorem State.modMe_dies (s : State) (f : Slot → Slot) : (s.modMe f).dies = s.dies := rfl
@[simp] theorem State.modMe_mem (s : State) (f : Slot → Slot) : (s.modMe f).mem = s.mem := rfl
@[simp] theorem State.modMe_lost (s : State) (f : Slot → Slot) : (s.modMe f).lost = s.lost := rfl
@[simp] theorem State.modMe_found (s : State) (f : Slot → Slot) : (s.modMe f).found = s.found := rfl
@[simp] theorem State.modMe_cur (s : State) (f : Slot → Slot) : (s.modMe f).cur = s.cur := rfl
@[simp] theorem State.modMe_ilen (s : State) (f : Slot → Slot) : (s.modMe f).ilen = s.ilen := rfl
@[simp] theorem State.modMe_net (s : State) (f : Slot → Slot) : (s.modMe f).net = s.net := rfl
@[simp] theorem State.modMe_acks (s : State) (f : Slot → Slot) : (s.modMe f).acks = s.acks := rfl
@[simp] theorem State.modMe_replies (s : State) (f : Slot → Slot) : (s.modMe f).replies = s.replies := rfl
@[simp] theorem State.modMe_prefetches (s : State) (f : Slot → Slot) : (s.modMe f).prefetches = s.prefetches := rfl
@[simp] theorem State.modMe_walks (s : State) (f : Slot → Slot) : (s.modMe f).walks = s.walks := rfl
@[simp] theorem State.modMe_sendings (s : State) (f : Slot → Slot) : (s.modMe f).sendings = s.sendings := rfl
@[simp] theorem State.modMe_arrivals (s : State) (f : Slot → Slot) : (s.modMe f).arrivals = s.arrivals := rfl
@[simp] theorem State.modMe_accepted (s : State) (f : Slot → Slot) : (s.modMe f).accepted = s.accepted := rfl
@[simp] theorem State.modMe_promReqs (s : State) (f : Slot → Slot) : (s.modMe f).promReqs = s.promReqs := rfl
@[simp] theorem State.modMe_promReps (s : State) (f : Slot → Slot) : (s.modMe f).promReps = s.promReps := rfl
@[simp] theorem State.modMe_tlbOps (s : State) (f : Slot → Slot) : (s.modMe f).tlbOps = s.tlbOps := rfl
@[simp] theorem State.modMe_reports (s : State) (f : Slot → Slot) : (s.modMe f).reports = s.reports := rfl
@[simp] theorem State.modMe_reportSeq (s : State) (f : Slot → Slot) : (s.modMe f).reportSeq = s.reportSeq := rfl
@[simp] theorem State.modMe_wakes (s : State) (f : Slot → Slot) : (s.modMe f).wakes = s.wakes := rfl
@[simp] theorem State.modMe_csrWrites (s : State) (f : Slot → Slot) : (s.modMe f).csrWrites = s.csrWrites := rfl
@[simp] theorem State.modMe_moves (s : State) (f : Slot → Slot) : (s.modMe f).moves = s.moves := rfl
@[simp] theorem State.modMe_shadowFills (s : State) (f : Slot → Slot) : (s.modMe f).shadowFills = s.shadowFills := rfl
@[simp] theorem State.modMe_filling (s : State) (f : Slot → Slot) : (s.modMe f).filling = s.filling := rfl
@[simp] theorem State.modMe_pushWrites (s : State) (f : Slot → Slot) : (s.modMe f).pushWrites = s.pushWrites := rfl
@[simp] theorem State.modMe_asids (s : State) (f : Slot → Slot) : (s.modMe f).asids = s.asids := rfl
@[simp] theorem State.modMe_pages (s : State) (f : Slot → Slot) : (s.modMe f).pages = s.pages := rfl
@[simp] theorem State.modMe_seals (s : State) (f : Slot → Slot) : (s.modMe f).seals = s.seals := rfl
@[simp] theorem State.modMe_withdrawn (s : State) (f : Slot → Slot) : (s.modMe f).withdrawn = s.withdrawn := rfl
@[simp] theorem State.modMe_windows (s : State) (f : Slot → Slot) : (s.modMe f).windows = s.windows := rfl
@[simp] theorem State.modMe_keys (s : State) (f : Slot → Slot) : (s.modMe f).keys = s.keys := rfl
@[simp] theorem State.modMe_keyed (s : State) (f : Slot → Slot) : (s.modMe f).keyed = s.keyed := rfl
@[simp] theorem State.modMe_under (s : State) (f : Slot → Slot) : (s.modMe f).under = s.under := rfl
@[simp] theorem State.modMe_frames (s : State) (f : Slot → Slot) : (s.modMe f).frames = s.frames := rfl
@[simp] theorem State.modMe_regulator (s : State) (f : Slot → Slot) : (s.modMe f).regulator = s.regulator := rfl
@[simp] theorem State.modMe_activates (s : State) (f : Slot → Slot) : (s.modMe f).activates = s.activates := rfl
@[simp] theorem State.modMe_lowmark (s : State) (f : Slot → Slot) : (s.modMe f).lowmark = s.lowmark := rfl
@[simp] theorem State.modMe_retrain (s : State) (f : Slot → Slot) : (s.modMe f).retrain = s.retrain := rfl
@[simp] theorem State.modMe_stepctr (s : State) (f : Slot → Slot) : (s.modMe f).stepctr = s.stepctr := rfl
@[simp] theorem State.modMe_steers (s : State) (f : Slot → Slot) : (s.modMe f).steers = s.steers := rfl
@[simp] theorem State.modMe_launches (s : State) (f : Slot → Slot) : (s.modMe f).launches = s.launches := rfl
@[simp] theorem State.modMe_graphs (s : State) (f : Slot → Slot) : (s.modMe f).graphs = s.graphs := rfl
@[simp] theorem State.modMe_phases (s : State) (f : Slot → Slot) : (s.modMe f).phases = s.phases := rfl
@[simp] theorem State.modMe_jobs (s : State) (f : Slot → Slot) : (s.modMe f).jobs = s.jobs := rfl
@[simp] theorem State.modMe_nextJob (s : State) (f : Slot → Slot) : (s.modMe f).nextJob = s.nextJob := rfl
@[simp] theorem State.modMe_leaving (s : State) (f : Slot → Slot) : (s.modMe f).leaving = s.leaving := rfl
@[simp] theorem State.modMe_levelCopies (s : State) (f : Slot → Slot) : (s.modMe f).levelCopies = s.levelCopies := rfl
@[simp] theorem State.modMe_subQs (s : State) (f : Slot → Slot) : (s.modMe f).subQs = s.subQs := rfl
@[simp] theorem State.modMe_pointers (s : State) (f : Slot → Slot) : (s.modMe f).pointers = s.pointers := rfl
@[simp] theorem State.modMe_queues (s : State) (f : Slot → Slot) : (s.modMe f).queues = s.queues := rfl
@[simp] theorem State.modMe_nextQueue (s : State) (f : Slot → Slot) : (s.modMe f).nextQueue = s.nextQueue := rfl
@[simp] theorem State.modMe_mails (s : State) (f : Slot → Slot) : (s.modMe f).mails = s.mails := rfl
@[simp] theorem State.modMe_barReqs (s : State) (f : Slot → Slot) : (s.modMe f).barReqs = s.barReqs := rfl
@[simp] theorem State.modMe_barAns (s : State) (f : Slot → Slot) : (s.modMe f).barAns = s.barAns := rfl
@[simp] theorem State.modMe_spawns (s : State) (f : Slot → Slot) : (s.modMe f).spawns = s.spawns := rfl
@[simp] theorem State.modMe_probes (s : State) (f : Slot → Slot) : (s.modMe f).probes = s.probes := rfl
@[simp] theorem State.modMe_migrations (s : State) (f : Slot → Slot) : (s.modMe f).migrations = s.migrations := rfl
@[simp] theorem State.modMe_cancels (s : State) (f : Slot → Slot) : (s.modMe f).cancels = s.cancels := rfl
@[simp] theorem State.modMe_preempts (s : State) (f : Slot → Slot) : (s.modMe f).preempts = s.preempts := rfl
@[simp] theorem State.modMe_ports (s : State) (f : Slot → Slot) : (s.modMe f).ports = s.ports := rfl
@[simp] theorem State.modMe_hostReads (s : State) (f : Slot → Slot) : (s.modMe f).hostReads = s.hostReads := rfl
@[simp] theorem State.modMe_hostData (s : State) (f : Slot → Slot) : (s.modMe f).hostData = s.hostData := rfl
@[simp] theorem State.modMe_remote (s : State) (f : Slot → Slot) : (s.modMe f).remote = s.remote := rfl
@[simp] theorem State.modMe_accelId (s : State) (f : Slot → Slot) : (s.modMe f).accelId = s.accelId := rfl
@[simp] theorem State.modMe_exports (s : State) (f : Slot → Slot) : (s.modMe f).exports = s.exports := rfl
@[simp] theorem State.modMe_groups (s : State) (f : Slot → Slot) : (s.modMe f).groups = s.groups := rfl
@[simp] theorem State.modMe_sentOut (s : State) (f : Slot → Slot) : (s.modMe f).sentOut = s.sentOut := rfl
@[simp] theorem State.modMe_ready (s : State) (f : Slot → Slot) : (s.modMe f).ready = s.ready := rfl
@[simp] theorem State.modMe_fatal (s : State) (f : Slot → Slot) : (s.modMe f).fatal = s.fatal := rfl
@[simp] theorem State.modMe_powerStep (s : State) (f : Slot → Slot) : (s.modMe f).powerStep = s.powerStep := rfl
@[simp] theorem State.modMe_firmware (s : State) (f : Slot → Slot) : (s.modMe f).firmware = s.firmware := rfl
@[simp] theorem State.modMe_power (s : State) (f : Slot → Slot) : (s.modMe f).power = s.power := rfl
@[simp] theorem State.modMe_links (s : State) (f : Slot → Slot) : (s.modMe f).links = s.links := rfl
@[simp] theorem State.modMe_linkWorking (s : State) (f : Slot → Slot) : (s.modMe f).linkWorking = s.linkWorking := rfl
@[simp] theorem State.modMe_cycle (s : State) (f : Slot → Slot) : (s.modMe f).cycle = s.cycle := rfl
@[simp] theorem State.modMe_timeBase (s : State) (f : Slot → Slot) : (s.modMe f).timeBase = s.timeBase := rfl
@[simp] theorem State.modMe_turnCore (s : State) (f : Slot → Slot) : (s.modMe f).turnCore = s.turnCore := rfl
@[simp] theorem State.modMe_turn (s : State) (f : Slot → Slot) : (s.modMe f).turn = s.turn := rfl
@[simp] theorem State.modMe_tick (s : State) (f : Slot → Slot) : (s.modMe f).tick = s.tick := rfl
@[simp] theorem State.modMe_nextId (s : State) (f : Slot → Slot) : (s.modMe f).nextId = s.nextId := rfl
@[simp] theorem State.modMe_agenda (s : State) (f : Slot → Slot) : (s.modMe f).agenda = s.agenda := rfl
@[simp] theorem State.modMe_inputs (s : State) (f : Slot → Slot) : (s.modMe f).inputs = s.inputs := rfl
@[simp] theorem State.modMe_again (s : State) (f : Slot → Slot) : (s.modMe f).again = s.again := rfl

/-! ## modCore -/

@[simp] theorem State.modCore_slots (s : State) (c : Nat) (f : Core → Core) : (s.modCore c f).slots = s.slots := rfl
@[simp] theorem State.modCore_clusters (s : State) (c : Nat) (f : Core → Core) : (s.modCore c f).clusters = s.clusters := rfl
@[simp] theorem State.modCore_dies (s : State) (c : Nat) (f : Core → Core) : (s.modCore c f).dies = s.dies := rfl
@[simp] theorem State.modCore_mem (s : State) (c : Nat) (f : Core → Core) : (s.modCore c f).mem = s.mem := rfl
@[simp] theorem State.modCore_lost (s : State) (c : Nat) (f : Core → Core) : (s.modCore c f).lost = s.lost := rfl
@[simp] theorem State.modCore_found (s : State) (c : Nat) (f : Core → Core) : (s.modCore c f).found = s.found := rfl
@[simp] theorem State.modCore_cur (s : State) (c : Nat) (f : Core → Core) : (s.modCore c f).cur = s.cur := rfl
@[simp] theorem State.modCore_ilen (s : State) (c : Nat) (f : Core → Core) : (s.modCore c f).ilen = s.ilen := rfl
@[simp] theorem State.modCore_net (s : State) (c : Nat) (f : Core → Core) : (s.modCore c f).net = s.net := rfl
@[simp] theorem State.modCore_acks (s : State) (c : Nat) (f : Core → Core) : (s.modCore c f).acks = s.acks := rfl
@[simp] theorem State.modCore_replies (s : State) (c : Nat) (f : Core → Core) : (s.modCore c f).replies = s.replies := rfl
@[simp] theorem State.modCore_prefetches (s : State) (c : Nat) (f : Core → Core) : (s.modCore c f).prefetches = s.prefetches := rfl
@[simp] theorem State.modCore_walks (s : State) (c : Nat) (f : Core → Core) : (s.modCore c f).walks = s.walks := rfl
@[simp] theorem State.modCore_sendings (s : State) (c : Nat) (f : Core → Core) : (s.modCore c f).sendings = s.sendings := rfl
@[simp] theorem State.modCore_arrivals (s : State) (c : Nat) (f : Core → Core) : (s.modCore c f).arrivals = s.arrivals := rfl
@[simp] theorem State.modCore_accepted (s : State) (c : Nat) (f : Core → Core) : (s.modCore c f).accepted = s.accepted := rfl
@[simp] theorem State.modCore_promReqs (s : State) (c : Nat) (f : Core → Core) : (s.modCore c f).promReqs = s.promReqs := rfl
@[simp] theorem State.modCore_promReps (s : State) (c : Nat) (f : Core → Core) : (s.modCore c f).promReps = s.promReps := rfl
@[simp] theorem State.modCore_tlbOps (s : State) (c : Nat) (f : Core → Core) : (s.modCore c f).tlbOps = s.tlbOps := rfl
@[simp] theorem State.modCore_reports (s : State) (c : Nat) (f : Core → Core) : (s.modCore c f).reports = s.reports := rfl
@[simp] theorem State.modCore_reportSeq (s : State) (c : Nat) (f : Core → Core) : (s.modCore c f).reportSeq = s.reportSeq := rfl
@[simp] theorem State.modCore_wakes (s : State) (c : Nat) (f : Core → Core) : (s.modCore c f).wakes = s.wakes := rfl
@[simp] theorem State.modCore_csrWrites (s : State) (c : Nat) (f : Core → Core) : (s.modCore c f).csrWrites = s.csrWrites := rfl
@[simp] theorem State.modCore_moves (s : State) (c : Nat) (f : Core → Core) : (s.modCore c f).moves = s.moves := rfl
@[simp] theorem State.modCore_shadowFills (s : State) (c : Nat) (f : Core → Core) : (s.modCore c f).shadowFills = s.shadowFills := rfl
@[simp] theorem State.modCore_filling (s : State) (c : Nat) (f : Core → Core) : (s.modCore c f).filling = s.filling := rfl
@[simp] theorem State.modCore_pushWrites (s : State) (c : Nat) (f : Core → Core) : (s.modCore c f).pushWrites = s.pushWrites := rfl
@[simp] theorem State.modCore_asids (s : State) (c : Nat) (f : Core → Core) : (s.modCore c f).asids = s.asids := rfl
@[simp] theorem State.modCore_pages (s : State) (c : Nat) (f : Core → Core) : (s.modCore c f).pages = s.pages := rfl
@[simp] theorem State.modCore_seals (s : State) (c : Nat) (f : Core → Core) : (s.modCore c f).seals = s.seals := rfl
@[simp] theorem State.modCore_withdrawn (s : State) (c : Nat) (f : Core → Core) : (s.modCore c f).withdrawn = s.withdrawn := rfl
@[simp] theorem State.modCore_windows (s : State) (c : Nat) (f : Core → Core) : (s.modCore c f).windows = s.windows := rfl
@[simp] theorem State.modCore_keys (s : State) (c : Nat) (f : Core → Core) : (s.modCore c f).keys = s.keys := rfl
@[simp] theorem State.modCore_keyed (s : State) (c : Nat) (f : Core → Core) : (s.modCore c f).keyed = s.keyed := rfl
@[simp] theorem State.modCore_under (s : State) (c : Nat) (f : Core → Core) : (s.modCore c f).under = s.under := rfl
@[simp] theorem State.modCore_frames (s : State) (c : Nat) (f : Core → Core) : (s.modCore c f).frames = s.frames := rfl
@[simp] theorem State.modCore_regulator (s : State) (c : Nat) (f : Core → Core) : (s.modCore c f).regulator = s.regulator := rfl
@[simp] theorem State.modCore_activates (s : State) (c : Nat) (f : Core → Core) : (s.modCore c f).activates = s.activates := rfl
@[simp] theorem State.modCore_lowmark (s : State) (c : Nat) (f : Core → Core) : (s.modCore c f).lowmark = s.lowmark := rfl
@[simp] theorem State.modCore_retrain (s : State) (c : Nat) (f : Core → Core) : (s.modCore c f).retrain = s.retrain := rfl
@[simp] theorem State.modCore_stepctr (s : State) (c : Nat) (f : Core → Core) : (s.modCore c f).stepctr = s.stepctr := rfl
@[simp] theorem State.modCore_steers (s : State) (c : Nat) (f : Core → Core) : (s.modCore c f).steers = s.steers := rfl
@[simp] theorem State.modCore_launches (s : State) (c : Nat) (f : Core → Core) : (s.modCore c f).launches = s.launches := rfl
@[simp] theorem State.modCore_graphs (s : State) (c : Nat) (f : Core → Core) : (s.modCore c f).graphs = s.graphs := rfl
@[simp] theorem State.modCore_phases (s : State) (c : Nat) (f : Core → Core) : (s.modCore c f).phases = s.phases := rfl
@[simp] theorem State.modCore_jobs (s : State) (c : Nat) (f : Core → Core) : (s.modCore c f).jobs = s.jobs := rfl
@[simp] theorem State.modCore_nextJob (s : State) (c : Nat) (f : Core → Core) : (s.modCore c f).nextJob = s.nextJob := rfl
@[simp] theorem State.modCore_leaving (s : State) (c : Nat) (f : Core → Core) : (s.modCore c f).leaving = s.leaving := rfl
@[simp] theorem State.modCore_levelCopies (s : State) (c : Nat) (f : Core → Core) : (s.modCore c f).levelCopies = s.levelCopies := rfl
@[simp] theorem State.modCore_subQs (s : State) (c : Nat) (f : Core → Core) : (s.modCore c f).subQs = s.subQs := rfl
@[simp] theorem State.modCore_pointers (s : State) (c : Nat) (f : Core → Core) : (s.modCore c f).pointers = s.pointers := rfl
@[simp] theorem State.modCore_queues (s : State) (c : Nat) (f : Core → Core) : (s.modCore c f).queues = s.queues := rfl
@[simp] theorem State.modCore_nextQueue (s : State) (c : Nat) (f : Core → Core) : (s.modCore c f).nextQueue = s.nextQueue := rfl
@[simp] theorem State.modCore_mails (s : State) (c : Nat) (f : Core → Core) : (s.modCore c f).mails = s.mails := rfl
@[simp] theorem State.modCore_barReqs (s : State) (c : Nat) (f : Core → Core) : (s.modCore c f).barReqs = s.barReqs := rfl
@[simp] theorem State.modCore_barAns (s : State) (c : Nat) (f : Core → Core) : (s.modCore c f).barAns = s.barAns := rfl
@[simp] theorem State.modCore_spawns (s : State) (c : Nat) (f : Core → Core) : (s.modCore c f).spawns = s.spawns := rfl
@[simp] theorem State.modCore_probes (s : State) (c : Nat) (f : Core → Core) : (s.modCore c f).probes = s.probes := rfl
@[simp] theorem State.modCore_migrations (s : State) (c : Nat) (f : Core → Core) : (s.modCore c f).migrations = s.migrations := rfl
@[simp] theorem State.modCore_cancels (s : State) (c : Nat) (f : Core → Core) : (s.modCore c f).cancels = s.cancels := rfl
@[simp] theorem State.modCore_preempts (s : State) (c : Nat) (f : Core → Core) : (s.modCore c f).preempts = s.preempts := rfl
@[simp] theorem State.modCore_ports (s : State) (c : Nat) (f : Core → Core) : (s.modCore c f).ports = s.ports := rfl
@[simp] theorem State.modCore_hostReads (s : State) (c : Nat) (f : Core → Core) : (s.modCore c f).hostReads = s.hostReads := rfl
@[simp] theorem State.modCore_hostData (s : State) (c : Nat) (f : Core → Core) : (s.modCore c f).hostData = s.hostData := rfl
@[simp] theorem State.modCore_remote (s : State) (c : Nat) (f : Core → Core) : (s.modCore c f).remote = s.remote := rfl
@[simp] theorem State.modCore_accelId (s : State) (c : Nat) (f : Core → Core) : (s.modCore c f).accelId = s.accelId := rfl
@[simp] theorem State.modCore_exports (s : State) (c : Nat) (f : Core → Core) : (s.modCore c f).exports = s.exports := rfl
@[simp] theorem State.modCore_groups (s : State) (c : Nat) (f : Core → Core) : (s.modCore c f).groups = s.groups := rfl
@[simp] theorem State.modCore_sentOut (s : State) (c : Nat) (f : Core → Core) : (s.modCore c f).sentOut = s.sentOut := rfl
@[simp] theorem State.modCore_ready (s : State) (c : Nat) (f : Core → Core) : (s.modCore c f).ready = s.ready := rfl
@[simp] theorem State.modCore_fatal (s : State) (c : Nat) (f : Core → Core) : (s.modCore c f).fatal = s.fatal := rfl
@[simp] theorem State.modCore_powerStep (s : State) (c : Nat) (f : Core → Core) : (s.modCore c f).powerStep = s.powerStep := rfl
@[simp] theorem State.modCore_firmware (s : State) (c : Nat) (f : Core → Core) : (s.modCore c f).firmware = s.firmware := rfl
@[simp] theorem State.modCore_power (s : State) (c : Nat) (f : Core → Core) : (s.modCore c f).power = s.power := rfl
@[simp] theorem State.modCore_links (s : State) (c : Nat) (f : Core → Core) : (s.modCore c f).links = s.links := rfl
@[simp] theorem State.modCore_linkWorking (s : State) (c : Nat) (f : Core → Core) : (s.modCore c f).linkWorking = s.linkWorking := rfl
@[simp] theorem State.modCore_cycle (s : State) (c : Nat) (f : Core → Core) : (s.modCore c f).cycle = s.cycle := rfl
@[simp] theorem State.modCore_timeBase (s : State) (c : Nat) (f : Core → Core) : (s.modCore c f).timeBase = s.timeBase := rfl
@[simp] theorem State.modCore_turnCore (s : State) (c : Nat) (f : Core → Core) : (s.modCore c f).turnCore = s.turnCore := rfl
@[simp] theorem State.modCore_turn (s : State) (c : Nat) (f : Core → Core) : (s.modCore c f).turn = s.turn := rfl
@[simp] theorem State.modCore_tick (s : State) (c : Nat) (f : Core → Core) : (s.modCore c f).tick = s.tick := rfl
@[simp] theorem State.modCore_nextId (s : State) (c : Nat) (f : Core → Core) : (s.modCore c f).nextId = s.nextId := rfl
@[simp] theorem State.modCore_agenda (s : State) (c : Nat) (f : Core → Core) : (s.modCore c f).agenda = s.agenda := rfl
@[simp] theorem State.modCore_inputs (s : State) (c : Nat) (f : Core → Core) : (s.modCore c f).inputs = s.inputs := rfl
@[simp] theorem State.modCore_again (s : State) (c : Nat) (f : Core → Core) : (s.modCore c f).again = s.again := rfl

/-! ## modCluster -/

@[simp] theorem State.modCluster_slots (s : State) (c : Nat) (f : Cluster → Cluster) : (s.modCluster c f).slots = s.slots := rfl
@[simp] theorem State.modCluster_cores (s : State) (c : Nat) (f : Cluster → Cluster) : (s.modCluster c f).cores = s.cores := rfl
@[simp] theorem State.modCluster_dies (s : State) (c : Nat) (f : Cluster → Cluster) : (s.modCluster c f).dies = s.dies := rfl
@[simp] theorem State.modCluster_mem (s : State) (c : Nat) (f : Cluster → Cluster) : (s.modCluster c f).mem = s.mem := rfl
@[simp] theorem State.modCluster_lost (s : State) (c : Nat) (f : Cluster → Cluster) : (s.modCluster c f).lost = s.lost := rfl
@[simp] theorem State.modCluster_found (s : State) (c : Nat) (f : Cluster → Cluster) : (s.modCluster c f).found = s.found := rfl
@[simp] theorem State.modCluster_cur (s : State) (c : Nat) (f : Cluster → Cluster) : (s.modCluster c f).cur = s.cur := rfl
@[simp] theorem State.modCluster_ilen (s : State) (c : Nat) (f : Cluster → Cluster) : (s.modCluster c f).ilen = s.ilen := rfl
@[simp] theorem State.modCluster_net (s : State) (c : Nat) (f : Cluster → Cluster) : (s.modCluster c f).net = s.net := rfl
@[simp] theorem State.modCluster_acks (s : State) (c : Nat) (f : Cluster → Cluster) : (s.modCluster c f).acks = s.acks := rfl
@[simp] theorem State.modCluster_replies (s : State) (c : Nat) (f : Cluster → Cluster) : (s.modCluster c f).replies = s.replies := rfl
@[simp] theorem State.modCluster_prefetches (s : State) (c : Nat) (f : Cluster → Cluster) : (s.modCluster c f).prefetches = s.prefetches := rfl
@[simp] theorem State.modCluster_walks (s : State) (c : Nat) (f : Cluster → Cluster) : (s.modCluster c f).walks = s.walks := rfl
@[simp] theorem State.modCluster_sendings (s : State) (c : Nat) (f : Cluster → Cluster) : (s.modCluster c f).sendings = s.sendings := rfl
@[simp] theorem State.modCluster_arrivals (s : State) (c : Nat) (f : Cluster → Cluster) : (s.modCluster c f).arrivals = s.arrivals := rfl
@[simp] theorem State.modCluster_accepted (s : State) (c : Nat) (f : Cluster → Cluster) : (s.modCluster c f).accepted = s.accepted := rfl
@[simp] theorem State.modCluster_promReqs (s : State) (c : Nat) (f : Cluster → Cluster) : (s.modCluster c f).promReqs = s.promReqs := rfl
@[simp] theorem State.modCluster_promReps (s : State) (c : Nat) (f : Cluster → Cluster) : (s.modCluster c f).promReps = s.promReps := rfl
@[simp] theorem State.modCluster_tlbOps (s : State) (c : Nat) (f : Cluster → Cluster) : (s.modCluster c f).tlbOps = s.tlbOps := rfl
@[simp] theorem State.modCluster_reports (s : State) (c : Nat) (f : Cluster → Cluster) : (s.modCluster c f).reports = s.reports := rfl
@[simp] theorem State.modCluster_reportSeq (s : State) (c : Nat) (f : Cluster → Cluster) : (s.modCluster c f).reportSeq = s.reportSeq := rfl
@[simp] theorem State.modCluster_wakes (s : State) (c : Nat) (f : Cluster → Cluster) : (s.modCluster c f).wakes = s.wakes := rfl
@[simp] theorem State.modCluster_csrWrites (s : State) (c : Nat) (f : Cluster → Cluster) : (s.modCluster c f).csrWrites = s.csrWrites := rfl
@[simp] theorem State.modCluster_moves (s : State) (c : Nat) (f : Cluster → Cluster) : (s.modCluster c f).moves = s.moves := rfl
@[simp] theorem State.modCluster_shadowFills (s : State) (c : Nat) (f : Cluster → Cluster) : (s.modCluster c f).shadowFills = s.shadowFills := rfl
@[simp] theorem State.modCluster_filling (s : State) (c : Nat) (f : Cluster → Cluster) : (s.modCluster c f).filling = s.filling := rfl
@[simp] theorem State.modCluster_pushWrites (s : State) (c : Nat) (f : Cluster → Cluster) : (s.modCluster c f).pushWrites = s.pushWrites := rfl
@[simp] theorem State.modCluster_asids (s : State) (c : Nat) (f : Cluster → Cluster) : (s.modCluster c f).asids = s.asids := rfl
@[simp] theorem State.modCluster_pages (s : State) (c : Nat) (f : Cluster → Cluster) : (s.modCluster c f).pages = s.pages := rfl
@[simp] theorem State.modCluster_seals (s : State) (c : Nat) (f : Cluster → Cluster) : (s.modCluster c f).seals = s.seals := rfl
@[simp] theorem State.modCluster_withdrawn (s : State) (c : Nat) (f : Cluster → Cluster) : (s.modCluster c f).withdrawn = s.withdrawn := rfl
@[simp] theorem State.modCluster_windows (s : State) (c : Nat) (f : Cluster → Cluster) : (s.modCluster c f).windows = s.windows := rfl
@[simp] theorem State.modCluster_keys (s : State) (c : Nat) (f : Cluster → Cluster) : (s.modCluster c f).keys = s.keys := rfl
@[simp] theorem State.modCluster_keyed (s : State) (c : Nat) (f : Cluster → Cluster) : (s.modCluster c f).keyed = s.keyed := rfl
@[simp] theorem State.modCluster_under (s : State) (c : Nat) (f : Cluster → Cluster) : (s.modCluster c f).under = s.under := rfl
@[simp] theorem State.modCluster_frames (s : State) (c : Nat) (f : Cluster → Cluster) : (s.modCluster c f).frames = s.frames := rfl
@[simp] theorem State.modCluster_regulator (s : State) (c : Nat) (f : Cluster → Cluster) : (s.modCluster c f).regulator = s.regulator := rfl
@[simp] theorem State.modCluster_activates (s : State) (c : Nat) (f : Cluster → Cluster) : (s.modCluster c f).activates = s.activates := rfl
@[simp] theorem State.modCluster_lowmark (s : State) (c : Nat) (f : Cluster → Cluster) : (s.modCluster c f).lowmark = s.lowmark := rfl
@[simp] theorem State.modCluster_retrain (s : State) (c : Nat) (f : Cluster → Cluster) : (s.modCluster c f).retrain = s.retrain := rfl
@[simp] theorem State.modCluster_stepctr (s : State) (c : Nat) (f : Cluster → Cluster) : (s.modCluster c f).stepctr = s.stepctr := rfl
@[simp] theorem State.modCluster_steers (s : State) (c : Nat) (f : Cluster → Cluster) : (s.modCluster c f).steers = s.steers := rfl
@[simp] theorem State.modCluster_launches (s : State) (c : Nat) (f : Cluster → Cluster) : (s.modCluster c f).launches = s.launches := rfl
@[simp] theorem State.modCluster_graphs (s : State) (c : Nat) (f : Cluster → Cluster) : (s.modCluster c f).graphs = s.graphs := rfl
@[simp] theorem State.modCluster_phases (s : State) (c : Nat) (f : Cluster → Cluster) : (s.modCluster c f).phases = s.phases := rfl
@[simp] theorem State.modCluster_jobs (s : State) (c : Nat) (f : Cluster → Cluster) : (s.modCluster c f).jobs = s.jobs := rfl
@[simp] theorem State.modCluster_nextJob (s : State) (c : Nat) (f : Cluster → Cluster) : (s.modCluster c f).nextJob = s.nextJob := rfl
@[simp] theorem State.modCluster_leaving (s : State) (c : Nat) (f : Cluster → Cluster) : (s.modCluster c f).leaving = s.leaving := rfl
@[simp] theorem State.modCluster_levelCopies (s : State) (c : Nat) (f : Cluster → Cluster) : (s.modCluster c f).levelCopies = s.levelCopies := rfl
@[simp] theorem State.modCluster_subQs (s : State) (c : Nat) (f : Cluster → Cluster) : (s.modCluster c f).subQs = s.subQs := rfl
@[simp] theorem State.modCluster_pointers (s : State) (c : Nat) (f : Cluster → Cluster) : (s.modCluster c f).pointers = s.pointers := rfl
@[simp] theorem State.modCluster_queues (s : State) (c : Nat) (f : Cluster → Cluster) : (s.modCluster c f).queues = s.queues := rfl
@[simp] theorem State.modCluster_nextQueue (s : State) (c : Nat) (f : Cluster → Cluster) : (s.modCluster c f).nextQueue = s.nextQueue := rfl
@[simp] theorem State.modCluster_mails (s : State) (c : Nat) (f : Cluster → Cluster) : (s.modCluster c f).mails = s.mails := rfl
@[simp] theorem State.modCluster_barReqs (s : State) (c : Nat) (f : Cluster → Cluster) : (s.modCluster c f).barReqs = s.barReqs := rfl
@[simp] theorem State.modCluster_barAns (s : State) (c : Nat) (f : Cluster → Cluster) : (s.modCluster c f).barAns = s.barAns := rfl
@[simp] theorem State.modCluster_spawns (s : State) (c : Nat) (f : Cluster → Cluster) : (s.modCluster c f).spawns = s.spawns := rfl
@[simp] theorem State.modCluster_probes (s : State) (c : Nat) (f : Cluster → Cluster) : (s.modCluster c f).probes = s.probes := rfl
@[simp] theorem State.modCluster_migrations (s : State) (c : Nat) (f : Cluster → Cluster) : (s.modCluster c f).migrations = s.migrations := rfl
@[simp] theorem State.modCluster_cancels (s : State) (c : Nat) (f : Cluster → Cluster) : (s.modCluster c f).cancels = s.cancels := rfl
@[simp] theorem State.modCluster_preempts (s : State) (c : Nat) (f : Cluster → Cluster) : (s.modCluster c f).preempts = s.preempts := rfl
@[simp] theorem State.modCluster_ports (s : State) (c : Nat) (f : Cluster → Cluster) : (s.modCluster c f).ports = s.ports := rfl
@[simp] theorem State.modCluster_hostReads (s : State) (c : Nat) (f : Cluster → Cluster) : (s.modCluster c f).hostReads = s.hostReads := rfl
@[simp] theorem State.modCluster_hostData (s : State) (c : Nat) (f : Cluster → Cluster) : (s.modCluster c f).hostData = s.hostData := rfl
@[simp] theorem State.modCluster_remote (s : State) (c : Nat) (f : Cluster → Cluster) : (s.modCluster c f).remote = s.remote := rfl
@[simp] theorem State.modCluster_accelId (s : State) (c : Nat) (f : Cluster → Cluster) : (s.modCluster c f).accelId = s.accelId := rfl
@[simp] theorem State.modCluster_exports (s : State) (c : Nat) (f : Cluster → Cluster) : (s.modCluster c f).exports = s.exports := rfl
@[simp] theorem State.modCluster_groups (s : State) (c : Nat) (f : Cluster → Cluster) : (s.modCluster c f).groups = s.groups := rfl
@[simp] theorem State.modCluster_sentOut (s : State) (c : Nat) (f : Cluster → Cluster) : (s.modCluster c f).sentOut = s.sentOut := rfl
@[simp] theorem State.modCluster_ready (s : State) (c : Nat) (f : Cluster → Cluster) : (s.modCluster c f).ready = s.ready := rfl
@[simp] theorem State.modCluster_fatal (s : State) (c : Nat) (f : Cluster → Cluster) : (s.modCluster c f).fatal = s.fatal := rfl
@[simp] theorem State.modCluster_powerStep (s : State) (c : Nat) (f : Cluster → Cluster) : (s.modCluster c f).powerStep = s.powerStep := rfl
@[simp] theorem State.modCluster_firmware (s : State) (c : Nat) (f : Cluster → Cluster) : (s.modCluster c f).firmware = s.firmware := rfl
@[simp] theorem State.modCluster_power (s : State) (c : Nat) (f : Cluster → Cluster) : (s.modCluster c f).power = s.power := rfl
@[simp] theorem State.modCluster_links (s : State) (c : Nat) (f : Cluster → Cluster) : (s.modCluster c f).links = s.links := rfl
@[simp] theorem State.modCluster_linkWorking (s : State) (c : Nat) (f : Cluster → Cluster) : (s.modCluster c f).linkWorking = s.linkWorking := rfl
@[simp] theorem State.modCluster_cycle (s : State) (c : Nat) (f : Cluster → Cluster) : (s.modCluster c f).cycle = s.cycle := rfl
@[simp] theorem State.modCluster_timeBase (s : State) (c : Nat) (f : Cluster → Cluster) : (s.modCluster c f).timeBase = s.timeBase := rfl
@[simp] theorem State.modCluster_turnCore (s : State) (c : Nat) (f : Cluster → Cluster) : (s.modCluster c f).turnCore = s.turnCore := rfl
@[simp] theorem State.modCluster_turn (s : State) (c : Nat) (f : Cluster → Cluster) : (s.modCluster c f).turn = s.turn := rfl
@[simp] theorem State.modCluster_tick (s : State) (c : Nat) (f : Cluster → Cluster) : (s.modCluster c f).tick = s.tick := rfl
@[simp] theorem State.modCluster_nextId (s : State) (c : Nat) (f : Cluster → Cluster) : (s.modCluster c f).nextId = s.nextId := rfl
@[simp] theorem State.modCluster_agenda (s : State) (c : Nat) (f : Cluster → Cluster) : (s.modCluster c f).agenda = s.agenda := rfl
@[simp] theorem State.modCluster_inputs (s : State) (c : Nat) (f : Cluster → Cluster) : (s.modCluster c f).inputs = s.inputs := rfl
@[simp] theorem State.modCluster_again (s : State) (c : Nat) (f : Cluster → Cluster) : (s.modCluster c f).again = s.again := rfl

/-! ## modBank -/

@[simp] theorem State.modBank_slots (s : State) (c b : Nat) (f : Bank → Bank) : (s.modBank c b f).slots = s.slots := rfl
@[simp] theorem State.modBank_cores (s : State) (c b : Nat) (f : Bank → Bank) : (s.modBank c b f).cores = s.cores := rfl
@[simp] theorem State.modBank_dies (s : State) (c b : Nat) (f : Bank → Bank) : (s.modBank c b f).dies = s.dies := rfl
@[simp] theorem State.modBank_mem (s : State) (c b : Nat) (f : Bank → Bank) : (s.modBank c b f).mem = s.mem := rfl
@[simp] theorem State.modBank_lost (s : State) (c b : Nat) (f : Bank → Bank) : (s.modBank c b f).lost = s.lost := rfl
@[simp] theorem State.modBank_found (s : State) (c b : Nat) (f : Bank → Bank) : (s.modBank c b f).found = s.found := rfl
@[simp] theorem State.modBank_cur (s : State) (c b : Nat) (f : Bank → Bank) : (s.modBank c b f).cur = s.cur := rfl
@[simp] theorem State.modBank_ilen (s : State) (c b : Nat) (f : Bank → Bank) : (s.modBank c b f).ilen = s.ilen := rfl
@[simp] theorem State.modBank_net (s : State) (c b : Nat) (f : Bank → Bank) : (s.modBank c b f).net = s.net := rfl
@[simp] theorem State.modBank_acks (s : State) (c b : Nat) (f : Bank → Bank) : (s.modBank c b f).acks = s.acks := rfl
@[simp] theorem State.modBank_replies (s : State) (c b : Nat) (f : Bank → Bank) : (s.modBank c b f).replies = s.replies := rfl
@[simp] theorem State.modBank_prefetches (s : State) (c b : Nat) (f : Bank → Bank) : (s.modBank c b f).prefetches = s.prefetches := rfl
@[simp] theorem State.modBank_walks (s : State) (c b : Nat) (f : Bank → Bank) : (s.modBank c b f).walks = s.walks := rfl
@[simp] theorem State.modBank_sendings (s : State) (c b : Nat) (f : Bank → Bank) : (s.modBank c b f).sendings = s.sendings := rfl
@[simp] theorem State.modBank_arrivals (s : State) (c b : Nat) (f : Bank → Bank) : (s.modBank c b f).arrivals = s.arrivals := rfl
@[simp] theorem State.modBank_accepted (s : State) (c b : Nat) (f : Bank → Bank) : (s.modBank c b f).accepted = s.accepted := rfl
@[simp] theorem State.modBank_promReqs (s : State) (c b : Nat) (f : Bank → Bank) : (s.modBank c b f).promReqs = s.promReqs := rfl
@[simp] theorem State.modBank_promReps (s : State) (c b : Nat) (f : Bank → Bank) : (s.modBank c b f).promReps = s.promReps := rfl
@[simp] theorem State.modBank_tlbOps (s : State) (c b : Nat) (f : Bank → Bank) : (s.modBank c b f).tlbOps = s.tlbOps := rfl
@[simp] theorem State.modBank_reports (s : State) (c b : Nat) (f : Bank → Bank) : (s.modBank c b f).reports = s.reports := rfl
@[simp] theorem State.modBank_reportSeq (s : State) (c b : Nat) (f : Bank → Bank) : (s.modBank c b f).reportSeq = s.reportSeq := rfl
@[simp] theorem State.modBank_wakes (s : State) (c b : Nat) (f : Bank → Bank) : (s.modBank c b f).wakes = s.wakes := rfl
@[simp] theorem State.modBank_csrWrites (s : State) (c b : Nat) (f : Bank → Bank) : (s.modBank c b f).csrWrites = s.csrWrites := rfl
@[simp] theorem State.modBank_moves (s : State) (c b : Nat) (f : Bank → Bank) : (s.modBank c b f).moves = s.moves := rfl
@[simp] theorem State.modBank_shadowFills (s : State) (c b : Nat) (f : Bank → Bank) : (s.modBank c b f).shadowFills = s.shadowFills := rfl
@[simp] theorem State.modBank_filling (s : State) (c b : Nat) (f : Bank → Bank) : (s.modBank c b f).filling = s.filling := rfl
@[simp] theorem State.modBank_pushWrites (s : State) (c b : Nat) (f : Bank → Bank) : (s.modBank c b f).pushWrites = s.pushWrites := rfl
@[simp] theorem State.modBank_asids (s : State) (c b : Nat) (f : Bank → Bank) : (s.modBank c b f).asids = s.asids := rfl
@[simp] theorem State.modBank_pages (s : State) (c b : Nat) (f : Bank → Bank) : (s.modBank c b f).pages = s.pages := rfl
@[simp] theorem State.modBank_seals (s : State) (c b : Nat) (f : Bank → Bank) : (s.modBank c b f).seals = s.seals := rfl
@[simp] theorem State.modBank_withdrawn (s : State) (c b : Nat) (f : Bank → Bank) : (s.modBank c b f).withdrawn = s.withdrawn := rfl
@[simp] theorem State.modBank_windows (s : State) (c b : Nat) (f : Bank → Bank) : (s.modBank c b f).windows = s.windows := rfl
@[simp] theorem State.modBank_keys (s : State) (c b : Nat) (f : Bank → Bank) : (s.modBank c b f).keys = s.keys := rfl
@[simp] theorem State.modBank_keyed (s : State) (c b : Nat) (f : Bank → Bank) : (s.modBank c b f).keyed = s.keyed := rfl
@[simp] theorem State.modBank_under (s : State) (c b : Nat) (f : Bank → Bank) : (s.modBank c b f).under = s.under := rfl
@[simp] theorem State.modBank_frames (s : State) (c b : Nat) (f : Bank → Bank) : (s.modBank c b f).frames = s.frames := rfl
@[simp] theorem State.modBank_regulator (s : State) (c b : Nat) (f : Bank → Bank) : (s.modBank c b f).regulator = s.regulator := rfl
@[simp] theorem State.modBank_activates (s : State) (c b : Nat) (f : Bank → Bank) : (s.modBank c b f).activates = s.activates := rfl
@[simp] theorem State.modBank_lowmark (s : State) (c b : Nat) (f : Bank → Bank) : (s.modBank c b f).lowmark = s.lowmark := rfl
@[simp] theorem State.modBank_retrain (s : State) (c b : Nat) (f : Bank → Bank) : (s.modBank c b f).retrain = s.retrain := rfl
@[simp] theorem State.modBank_stepctr (s : State) (c b : Nat) (f : Bank → Bank) : (s.modBank c b f).stepctr = s.stepctr := rfl
@[simp] theorem State.modBank_steers (s : State) (c b : Nat) (f : Bank → Bank) : (s.modBank c b f).steers = s.steers := rfl
@[simp] theorem State.modBank_launches (s : State) (c b : Nat) (f : Bank → Bank) : (s.modBank c b f).launches = s.launches := rfl
@[simp] theorem State.modBank_graphs (s : State) (c b : Nat) (f : Bank → Bank) : (s.modBank c b f).graphs = s.graphs := rfl
@[simp] theorem State.modBank_phases (s : State) (c b : Nat) (f : Bank → Bank) : (s.modBank c b f).phases = s.phases := rfl
@[simp] theorem State.modBank_jobs (s : State) (c b : Nat) (f : Bank → Bank) : (s.modBank c b f).jobs = s.jobs := rfl
@[simp] theorem State.modBank_nextJob (s : State) (c b : Nat) (f : Bank → Bank) : (s.modBank c b f).nextJob = s.nextJob := rfl
@[simp] theorem State.modBank_leaving (s : State) (c b : Nat) (f : Bank → Bank) : (s.modBank c b f).leaving = s.leaving := rfl
@[simp] theorem State.modBank_levelCopies (s : State) (c b : Nat) (f : Bank → Bank) : (s.modBank c b f).levelCopies = s.levelCopies := rfl
@[simp] theorem State.modBank_subQs (s : State) (c b : Nat) (f : Bank → Bank) : (s.modBank c b f).subQs = s.subQs := rfl
@[simp] theorem State.modBank_pointers (s : State) (c b : Nat) (f : Bank → Bank) : (s.modBank c b f).pointers = s.pointers := rfl
@[simp] theorem State.modBank_queues (s : State) (c b : Nat) (f : Bank → Bank) : (s.modBank c b f).queues = s.queues := rfl
@[simp] theorem State.modBank_nextQueue (s : State) (c b : Nat) (f : Bank → Bank) : (s.modBank c b f).nextQueue = s.nextQueue := rfl
@[simp] theorem State.modBank_mails (s : State) (c b : Nat) (f : Bank → Bank) : (s.modBank c b f).mails = s.mails := rfl
@[simp] theorem State.modBank_barReqs (s : State) (c b : Nat) (f : Bank → Bank) : (s.modBank c b f).barReqs = s.barReqs := rfl
@[simp] theorem State.modBank_barAns (s : State) (c b : Nat) (f : Bank → Bank) : (s.modBank c b f).barAns = s.barAns := rfl
@[simp] theorem State.modBank_spawns (s : State) (c b : Nat) (f : Bank → Bank) : (s.modBank c b f).spawns = s.spawns := rfl
@[simp] theorem State.modBank_probes (s : State) (c b : Nat) (f : Bank → Bank) : (s.modBank c b f).probes = s.probes := rfl
@[simp] theorem State.modBank_migrations (s : State) (c b : Nat) (f : Bank → Bank) : (s.modBank c b f).migrations = s.migrations := rfl
@[simp] theorem State.modBank_cancels (s : State) (c b : Nat) (f : Bank → Bank) : (s.modBank c b f).cancels = s.cancels := rfl
@[simp] theorem State.modBank_preempts (s : State) (c b : Nat) (f : Bank → Bank) : (s.modBank c b f).preempts = s.preempts := rfl
@[simp] theorem State.modBank_ports (s : State) (c b : Nat) (f : Bank → Bank) : (s.modBank c b f).ports = s.ports := rfl
@[simp] theorem State.modBank_hostReads (s : State) (c b : Nat) (f : Bank → Bank) : (s.modBank c b f).hostReads = s.hostReads := rfl
@[simp] theorem State.modBank_hostData (s : State) (c b : Nat) (f : Bank → Bank) : (s.modBank c b f).hostData = s.hostData := rfl
@[simp] theorem State.modBank_remote (s : State) (c b : Nat) (f : Bank → Bank) : (s.modBank c b f).remote = s.remote := rfl
@[simp] theorem State.modBank_accelId (s : State) (c b : Nat) (f : Bank → Bank) : (s.modBank c b f).accelId = s.accelId := rfl
@[simp] theorem State.modBank_exports (s : State) (c b : Nat) (f : Bank → Bank) : (s.modBank c b f).exports = s.exports := rfl
@[simp] theorem State.modBank_groups (s : State) (c b : Nat) (f : Bank → Bank) : (s.modBank c b f).groups = s.groups := rfl
@[simp] theorem State.modBank_sentOut (s : State) (c b : Nat) (f : Bank → Bank) : (s.modBank c b f).sentOut = s.sentOut := rfl
@[simp] theorem State.modBank_ready (s : State) (c b : Nat) (f : Bank → Bank) : (s.modBank c b f).ready = s.ready := rfl
@[simp] theorem State.modBank_fatal (s : State) (c b : Nat) (f : Bank → Bank) : (s.modBank c b f).fatal = s.fatal := rfl
@[simp] theorem State.modBank_powerStep (s : State) (c b : Nat) (f : Bank → Bank) : (s.modBank c b f).powerStep = s.powerStep := rfl
@[simp] theorem State.modBank_firmware (s : State) (c b : Nat) (f : Bank → Bank) : (s.modBank c b f).firmware = s.firmware := rfl
@[simp] theorem State.modBank_power (s : State) (c b : Nat) (f : Bank → Bank) : (s.modBank c b f).power = s.power := rfl
@[simp] theorem State.modBank_links (s : State) (c b : Nat) (f : Bank → Bank) : (s.modBank c b f).links = s.links := rfl
@[simp] theorem State.modBank_linkWorking (s : State) (c b : Nat) (f : Bank → Bank) : (s.modBank c b f).linkWorking = s.linkWorking := rfl
@[simp] theorem State.modBank_cycle (s : State) (c b : Nat) (f : Bank → Bank) : (s.modBank c b f).cycle = s.cycle := rfl
@[simp] theorem State.modBank_timeBase (s : State) (c b : Nat) (f : Bank → Bank) : (s.modBank c b f).timeBase = s.timeBase := rfl
@[simp] theorem State.modBank_turnCore (s : State) (c b : Nat) (f : Bank → Bank) : (s.modBank c b f).turnCore = s.turnCore := rfl
@[simp] theorem State.modBank_turn (s : State) (c b : Nat) (f : Bank → Bank) : (s.modBank c b f).turn = s.turn := rfl
@[simp] theorem State.modBank_tick (s : State) (c b : Nat) (f : Bank → Bank) : (s.modBank c b f).tick = s.tick := rfl
@[simp] theorem State.modBank_nextId (s : State) (c b : Nat) (f : Bank → Bank) : (s.modBank c b f).nextId = s.nextId := rfl
@[simp] theorem State.modBank_agenda (s : State) (c b : Nat) (f : Bank → Bank) : (s.modBank c b f).agenda = s.agenda := rfl
@[simp] theorem State.modBank_inputs (s : State) (c b : Nat) (f : Bank → Bank) : (s.modBank c b f).inputs = s.inputs := rfl
@[simp] theorem State.modBank_again (s : State) (c b : Nat) (f : Bank → Bank) : (s.modBank c b f).again = s.again := rfl

/-! ## modDie -/

@[simp] theorem State.modDie_slots (s : State) (d : Nat) (f : Die → Die) : (s.modDie d f).slots = s.slots := rfl
@[simp] theorem State.modDie_cores (s : State) (d : Nat) (f : Die → Die) : (s.modDie d f).cores = s.cores := rfl
@[simp] theorem State.modDie_clusters (s : State) (d : Nat) (f : Die → Die) : (s.modDie d f).clusters = s.clusters := rfl
@[simp] theorem State.modDie_mem (s : State) (d : Nat) (f : Die → Die) : (s.modDie d f).mem = s.mem := rfl
@[simp] theorem State.modDie_lost (s : State) (d : Nat) (f : Die → Die) : (s.modDie d f).lost = s.lost := rfl
@[simp] theorem State.modDie_found (s : State) (d : Nat) (f : Die → Die) : (s.modDie d f).found = s.found := rfl
@[simp] theorem State.modDie_cur (s : State) (d : Nat) (f : Die → Die) : (s.modDie d f).cur = s.cur := rfl
@[simp] theorem State.modDie_ilen (s : State) (d : Nat) (f : Die → Die) : (s.modDie d f).ilen = s.ilen := rfl
@[simp] theorem State.modDie_net (s : State) (d : Nat) (f : Die → Die) : (s.modDie d f).net = s.net := rfl
@[simp] theorem State.modDie_acks (s : State) (d : Nat) (f : Die → Die) : (s.modDie d f).acks = s.acks := rfl
@[simp] theorem State.modDie_replies (s : State) (d : Nat) (f : Die → Die) : (s.modDie d f).replies = s.replies := rfl
@[simp] theorem State.modDie_prefetches (s : State) (d : Nat) (f : Die → Die) : (s.modDie d f).prefetches = s.prefetches := rfl
@[simp] theorem State.modDie_walks (s : State) (d : Nat) (f : Die → Die) : (s.modDie d f).walks = s.walks := rfl
@[simp] theorem State.modDie_sendings (s : State) (d : Nat) (f : Die → Die) : (s.modDie d f).sendings = s.sendings := rfl
@[simp] theorem State.modDie_arrivals (s : State) (d : Nat) (f : Die → Die) : (s.modDie d f).arrivals = s.arrivals := rfl
@[simp] theorem State.modDie_accepted (s : State) (d : Nat) (f : Die → Die) : (s.modDie d f).accepted = s.accepted := rfl
@[simp] theorem State.modDie_promReqs (s : State) (d : Nat) (f : Die → Die) : (s.modDie d f).promReqs = s.promReqs := rfl
@[simp] theorem State.modDie_promReps (s : State) (d : Nat) (f : Die → Die) : (s.modDie d f).promReps = s.promReps := rfl
@[simp] theorem State.modDie_tlbOps (s : State) (d : Nat) (f : Die → Die) : (s.modDie d f).tlbOps = s.tlbOps := rfl
@[simp] theorem State.modDie_reports (s : State) (d : Nat) (f : Die → Die) : (s.modDie d f).reports = s.reports := rfl
@[simp] theorem State.modDie_reportSeq (s : State) (d : Nat) (f : Die → Die) : (s.modDie d f).reportSeq = s.reportSeq := rfl
@[simp] theorem State.modDie_wakes (s : State) (d : Nat) (f : Die → Die) : (s.modDie d f).wakes = s.wakes := rfl
@[simp] theorem State.modDie_csrWrites (s : State) (d : Nat) (f : Die → Die) : (s.modDie d f).csrWrites = s.csrWrites := rfl
@[simp] theorem State.modDie_moves (s : State) (d : Nat) (f : Die → Die) : (s.modDie d f).moves = s.moves := rfl
@[simp] theorem State.modDie_shadowFills (s : State) (d : Nat) (f : Die → Die) : (s.modDie d f).shadowFills = s.shadowFills := rfl
@[simp] theorem State.modDie_filling (s : State) (d : Nat) (f : Die → Die) : (s.modDie d f).filling = s.filling := rfl
@[simp] theorem State.modDie_pushWrites (s : State) (d : Nat) (f : Die → Die) : (s.modDie d f).pushWrites = s.pushWrites := rfl
@[simp] theorem State.modDie_asids (s : State) (d : Nat) (f : Die → Die) : (s.modDie d f).asids = s.asids := rfl
@[simp] theorem State.modDie_pages (s : State) (d : Nat) (f : Die → Die) : (s.modDie d f).pages = s.pages := rfl
@[simp] theorem State.modDie_seals (s : State) (d : Nat) (f : Die → Die) : (s.modDie d f).seals = s.seals := rfl
@[simp] theorem State.modDie_withdrawn (s : State) (d : Nat) (f : Die → Die) : (s.modDie d f).withdrawn = s.withdrawn := rfl
@[simp] theorem State.modDie_windows (s : State) (d : Nat) (f : Die → Die) : (s.modDie d f).windows = s.windows := rfl
@[simp] theorem State.modDie_keys (s : State) (d : Nat) (f : Die → Die) : (s.modDie d f).keys = s.keys := rfl
@[simp] theorem State.modDie_keyed (s : State) (d : Nat) (f : Die → Die) : (s.modDie d f).keyed = s.keyed := rfl
@[simp] theorem State.modDie_under (s : State) (d : Nat) (f : Die → Die) : (s.modDie d f).under = s.under := rfl
@[simp] theorem State.modDie_frames (s : State) (d : Nat) (f : Die → Die) : (s.modDie d f).frames = s.frames := rfl
@[simp] theorem State.modDie_regulator (s : State) (d : Nat) (f : Die → Die) : (s.modDie d f).regulator = s.regulator := rfl
@[simp] theorem State.modDie_activates (s : State) (d : Nat) (f : Die → Die) : (s.modDie d f).activates = s.activates := rfl
@[simp] theorem State.modDie_lowmark (s : State) (d : Nat) (f : Die → Die) : (s.modDie d f).lowmark = s.lowmark := rfl
@[simp] theorem State.modDie_retrain (s : State) (d : Nat) (f : Die → Die) : (s.modDie d f).retrain = s.retrain := rfl
@[simp] theorem State.modDie_stepctr (s : State) (d : Nat) (f : Die → Die) : (s.modDie d f).stepctr = s.stepctr := rfl
@[simp] theorem State.modDie_steers (s : State) (d : Nat) (f : Die → Die) : (s.modDie d f).steers = s.steers := rfl
@[simp] theorem State.modDie_launches (s : State) (d : Nat) (f : Die → Die) : (s.modDie d f).launches = s.launches := rfl
@[simp] theorem State.modDie_graphs (s : State) (d : Nat) (f : Die → Die) : (s.modDie d f).graphs = s.graphs := rfl
@[simp] theorem State.modDie_phases (s : State) (d : Nat) (f : Die → Die) : (s.modDie d f).phases = s.phases := rfl
@[simp] theorem State.modDie_jobs (s : State) (d : Nat) (f : Die → Die) : (s.modDie d f).jobs = s.jobs := rfl
@[simp] theorem State.modDie_nextJob (s : State) (d : Nat) (f : Die → Die) : (s.modDie d f).nextJob = s.nextJob := rfl
@[simp] theorem State.modDie_leaving (s : State) (d : Nat) (f : Die → Die) : (s.modDie d f).leaving = s.leaving := rfl
@[simp] theorem State.modDie_levelCopies (s : State) (d : Nat) (f : Die → Die) : (s.modDie d f).levelCopies = s.levelCopies := rfl
@[simp] theorem State.modDie_subQs (s : State) (d : Nat) (f : Die → Die) : (s.modDie d f).subQs = s.subQs := rfl
@[simp] theorem State.modDie_pointers (s : State) (d : Nat) (f : Die → Die) : (s.modDie d f).pointers = s.pointers := rfl
@[simp] theorem State.modDie_queues (s : State) (d : Nat) (f : Die → Die) : (s.modDie d f).queues = s.queues := rfl
@[simp] theorem State.modDie_nextQueue (s : State) (d : Nat) (f : Die → Die) : (s.modDie d f).nextQueue = s.nextQueue := rfl
@[simp] theorem State.modDie_mails (s : State) (d : Nat) (f : Die → Die) : (s.modDie d f).mails = s.mails := rfl
@[simp] theorem State.modDie_barReqs (s : State) (d : Nat) (f : Die → Die) : (s.modDie d f).barReqs = s.barReqs := rfl
@[simp] theorem State.modDie_barAns (s : State) (d : Nat) (f : Die → Die) : (s.modDie d f).barAns = s.barAns := rfl
@[simp] theorem State.modDie_spawns (s : State) (d : Nat) (f : Die → Die) : (s.modDie d f).spawns = s.spawns := rfl
@[simp] theorem State.modDie_probes (s : State) (d : Nat) (f : Die → Die) : (s.modDie d f).probes = s.probes := rfl
@[simp] theorem State.modDie_migrations (s : State) (d : Nat) (f : Die → Die) : (s.modDie d f).migrations = s.migrations := rfl
@[simp] theorem State.modDie_cancels (s : State) (d : Nat) (f : Die → Die) : (s.modDie d f).cancels = s.cancels := rfl
@[simp] theorem State.modDie_preempts (s : State) (d : Nat) (f : Die → Die) : (s.modDie d f).preempts = s.preempts := rfl
@[simp] theorem State.modDie_ports (s : State) (d : Nat) (f : Die → Die) : (s.modDie d f).ports = s.ports := rfl
@[simp] theorem State.modDie_hostReads (s : State) (d : Nat) (f : Die → Die) : (s.modDie d f).hostReads = s.hostReads := rfl
@[simp] theorem State.modDie_hostData (s : State) (d : Nat) (f : Die → Die) : (s.modDie d f).hostData = s.hostData := rfl
@[simp] theorem State.modDie_remote (s : State) (d : Nat) (f : Die → Die) : (s.modDie d f).remote = s.remote := rfl
@[simp] theorem State.modDie_accelId (s : State) (d : Nat) (f : Die → Die) : (s.modDie d f).accelId = s.accelId := rfl
@[simp] theorem State.modDie_exports (s : State) (d : Nat) (f : Die → Die) : (s.modDie d f).exports = s.exports := rfl
@[simp] theorem State.modDie_groups (s : State) (d : Nat) (f : Die → Die) : (s.modDie d f).groups = s.groups := rfl
@[simp] theorem State.modDie_sentOut (s : State) (d : Nat) (f : Die → Die) : (s.modDie d f).sentOut = s.sentOut := rfl
@[simp] theorem State.modDie_ready (s : State) (d : Nat) (f : Die → Die) : (s.modDie d f).ready = s.ready := rfl
@[simp] theorem State.modDie_fatal (s : State) (d : Nat) (f : Die → Die) : (s.modDie d f).fatal = s.fatal := rfl
@[simp] theorem State.modDie_powerStep (s : State) (d : Nat) (f : Die → Die) : (s.modDie d f).powerStep = s.powerStep := rfl
@[simp] theorem State.modDie_firmware (s : State) (d : Nat) (f : Die → Die) : (s.modDie d f).firmware = s.firmware := rfl
@[simp] theorem State.modDie_power (s : State) (d : Nat) (f : Die → Die) : (s.modDie d f).power = s.power := rfl
@[simp] theorem State.modDie_links (s : State) (d : Nat) (f : Die → Die) : (s.modDie d f).links = s.links := rfl
@[simp] theorem State.modDie_linkWorking (s : State) (d : Nat) (f : Die → Die) : (s.modDie d f).linkWorking = s.linkWorking := rfl
@[simp] theorem State.modDie_cycle (s : State) (d : Nat) (f : Die → Die) : (s.modDie d f).cycle = s.cycle := rfl
@[simp] theorem State.modDie_timeBase (s : State) (d : Nat) (f : Die → Die) : (s.modDie d f).timeBase = s.timeBase := rfl
@[simp] theorem State.modDie_turnCore (s : State) (d : Nat) (f : Die → Die) : (s.modDie d f).turnCore = s.turnCore := rfl
@[simp] theorem State.modDie_turn (s : State) (d : Nat) (f : Die → Die) : (s.modDie d f).turn = s.turn := rfl
@[simp] theorem State.modDie_tick (s : State) (d : Nat) (f : Die → Die) : (s.modDie d f).tick = s.tick := rfl
@[simp] theorem State.modDie_nextId (s : State) (d : Nat) (f : Die → Die) : (s.modDie d f).nextId = s.nextId := rfl
@[simp] theorem State.modDie_agenda (s : State) (d : Nat) (f : Die → Die) : (s.modDie d f).agenda = s.agenda := rfl
@[simp] theorem State.modDie_inputs (s : State) (d : Nat) (f : Die → Die) : (s.modDie d f).inputs = s.inputs := rfl
@[simp] theorem State.modDie_again (s : State) (d : Nat) (f : Die → Die) : (s.modDie d f).again = s.again := rfl

/-! ## modLaunch -/

@[simp] theorem State.modLaunch_slots (s : State) (l : Nat) (f : Launch → Launch) : (s.modLaunch l f).slots = s.slots := rfl
@[simp] theorem State.modLaunch_cores (s : State) (l : Nat) (f : Launch → Launch) : (s.modLaunch l f).cores = s.cores := rfl
@[simp] theorem State.modLaunch_clusters (s : State) (l : Nat) (f : Launch → Launch) : (s.modLaunch l f).clusters = s.clusters := rfl
@[simp] theorem State.modLaunch_dies (s : State) (l : Nat) (f : Launch → Launch) : (s.modLaunch l f).dies = s.dies := rfl
@[simp] theorem State.modLaunch_mem (s : State) (l : Nat) (f : Launch → Launch) : (s.modLaunch l f).mem = s.mem := rfl
@[simp] theorem State.modLaunch_lost (s : State) (l : Nat) (f : Launch → Launch) : (s.modLaunch l f).lost = s.lost := rfl
@[simp] theorem State.modLaunch_found (s : State) (l : Nat) (f : Launch → Launch) : (s.modLaunch l f).found = s.found := rfl
@[simp] theorem State.modLaunch_cur (s : State) (l : Nat) (f : Launch → Launch) : (s.modLaunch l f).cur = s.cur := rfl
@[simp] theorem State.modLaunch_ilen (s : State) (l : Nat) (f : Launch → Launch) : (s.modLaunch l f).ilen = s.ilen := rfl
@[simp] theorem State.modLaunch_net (s : State) (l : Nat) (f : Launch → Launch) : (s.modLaunch l f).net = s.net := rfl
@[simp] theorem State.modLaunch_acks (s : State) (l : Nat) (f : Launch → Launch) : (s.modLaunch l f).acks = s.acks := rfl
@[simp] theorem State.modLaunch_replies (s : State) (l : Nat) (f : Launch → Launch) : (s.modLaunch l f).replies = s.replies := rfl
@[simp] theorem State.modLaunch_prefetches (s : State) (l : Nat) (f : Launch → Launch) : (s.modLaunch l f).prefetches = s.prefetches := rfl
@[simp] theorem State.modLaunch_walks (s : State) (l : Nat) (f : Launch → Launch) : (s.modLaunch l f).walks = s.walks := rfl
@[simp] theorem State.modLaunch_sendings (s : State) (l : Nat) (f : Launch → Launch) : (s.modLaunch l f).sendings = s.sendings := rfl
@[simp] theorem State.modLaunch_arrivals (s : State) (l : Nat) (f : Launch → Launch) : (s.modLaunch l f).arrivals = s.arrivals := rfl
@[simp] theorem State.modLaunch_accepted (s : State) (l : Nat) (f : Launch → Launch) : (s.modLaunch l f).accepted = s.accepted := rfl
@[simp] theorem State.modLaunch_promReqs (s : State) (l : Nat) (f : Launch → Launch) : (s.modLaunch l f).promReqs = s.promReqs := rfl
@[simp] theorem State.modLaunch_promReps (s : State) (l : Nat) (f : Launch → Launch) : (s.modLaunch l f).promReps = s.promReps := rfl
@[simp] theorem State.modLaunch_tlbOps (s : State) (l : Nat) (f : Launch → Launch) : (s.modLaunch l f).tlbOps = s.tlbOps := rfl
@[simp] theorem State.modLaunch_reports (s : State) (l : Nat) (f : Launch → Launch) : (s.modLaunch l f).reports = s.reports := rfl
@[simp] theorem State.modLaunch_reportSeq (s : State) (l : Nat) (f : Launch → Launch) : (s.modLaunch l f).reportSeq = s.reportSeq := rfl
@[simp] theorem State.modLaunch_wakes (s : State) (l : Nat) (f : Launch → Launch) : (s.modLaunch l f).wakes = s.wakes := rfl
@[simp] theorem State.modLaunch_csrWrites (s : State) (l : Nat) (f : Launch → Launch) : (s.modLaunch l f).csrWrites = s.csrWrites := rfl
@[simp] theorem State.modLaunch_moves (s : State) (l : Nat) (f : Launch → Launch) : (s.modLaunch l f).moves = s.moves := rfl
@[simp] theorem State.modLaunch_shadowFills (s : State) (l : Nat) (f : Launch → Launch) : (s.modLaunch l f).shadowFills = s.shadowFills := rfl
@[simp] theorem State.modLaunch_filling (s : State) (l : Nat) (f : Launch → Launch) : (s.modLaunch l f).filling = s.filling := rfl
@[simp] theorem State.modLaunch_pushWrites (s : State) (l : Nat) (f : Launch → Launch) : (s.modLaunch l f).pushWrites = s.pushWrites := rfl
@[simp] theorem State.modLaunch_asids (s : State) (l : Nat) (f : Launch → Launch) : (s.modLaunch l f).asids = s.asids := rfl
@[simp] theorem State.modLaunch_pages (s : State) (l : Nat) (f : Launch → Launch) : (s.modLaunch l f).pages = s.pages := rfl
@[simp] theorem State.modLaunch_seals (s : State) (l : Nat) (f : Launch → Launch) : (s.modLaunch l f).seals = s.seals := rfl
@[simp] theorem State.modLaunch_withdrawn (s : State) (l : Nat) (f : Launch → Launch) : (s.modLaunch l f).withdrawn = s.withdrawn := rfl
@[simp] theorem State.modLaunch_windows (s : State) (l : Nat) (f : Launch → Launch) : (s.modLaunch l f).windows = s.windows := rfl
@[simp] theorem State.modLaunch_keys (s : State) (l : Nat) (f : Launch → Launch) : (s.modLaunch l f).keys = s.keys := rfl
@[simp] theorem State.modLaunch_keyed (s : State) (l : Nat) (f : Launch → Launch) : (s.modLaunch l f).keyed = s.keyed := rfl
@[simp] theorem State.modLaunch_under (s : State) (l : Nat) (f : Launch → Launch) : (s.modLaunch l f).under = s.under := rfl
@[simp] theorem State.modLaunch_frames (s : State) (l : Nat) (f : Launch → Launch) : (s.modLaunch l f).frames = s.frames := rfl
@[simp] theorem State.modLaunch_regulator (s : State) (l : Nat) (f : Launch → Launch) : (s.modLaunch l f).regulator = s.regulator := rfl
@[simp] theorem State.modLaunch_activates (s : State) (l : Nat) (f : Launch → Launch) : (s.modLaunch l f).activates = s.activates := rfl
@[simp] theorem State.modLaunch_lowmark (s : State) (l : Nat) (f : Launch → Launch) : (s.modLaunch l f).lowmark = s.lowmark := rfl
@[simp] theorem State.modLaunch_retrain (s : State) (l : Nat) (f : Launch → Launch) : (s.modLaunch l f).retrain = s.retrain := rfl
@[simp] theorem State.modLaunch_stepctr (s : State) (l : Nat) (f : Launch → Launch) : (s.modLaunch l f).stepctr = s.stepctr := rfl
@[simp] theorem State.modLaunch_steers (s : State) (l : Nat) (f : Launch → Launch) : (s.modLaunch l f).steers = s.steers := rfl
@[simp] theorem State.modLaunch_graphs (s : State) (l : Nat) (f : Launch → Launch) : (s.modLaunch l f).graphs = s.graphs := rfl
@[simp] theorem State.modLaunch_phases (s : State) (l : Nat) (f : Launch → Launch) : (s.modLaunch l f).phases = s.phases := rfl
@[simp] theorem State.modLaunch_jobs (s : State) (l : Nat) (f : Launch → Launch) : (s.modLaunch l f).jobs = s.jobs := rfl
@[simp] theorem State.modLaunch_nextJob (s : State) (l : Nat) (f : Launch → Launch) : (s.modLaunch l f).nextJob = s.nextJob := rfl
@[simp] theorem State.modLaunch_leaving (s : State) (l : Nat) (f : Launch → Launch) : (s.modLaunch l f).leaving = s.leaving := rfl
@[simp] theorem State.modLaunch_levelCopies (s : State) (l : Nat) (f : Launch → Launch) : (s.modLaunch l f).levelCopies = s.levelCopies := rfl
@[simp] theorem State.modLaunch_subQs (s : State) (l : Nat) (f : Launch → Launch) : (s.modLaunch l f).subQs = s.subQs := rfl
@[simp] theorem State.modLaunch_pointers (s : State) (l : Nat) (f : Launch → Launch) : (s.modLaunch l f).pointers = s.pointers := rfl
@[simp] theorem State.modLaunch_queues (s : State) (l : Nat) (f : Launch → Launch) : (s.modLaunch l f).queues = s.queues := rfl
@[simp] theorem State.modLaunch_nextQueue (s : State) (l : Nat) (f : Launch → Launch) : (s.modLaunch l f).nextQueue = s.nextQueue := rfl
@[simp] theorem State.modLaunch_mails (s : State) (l : Nat) (f : Launch → Launch) : (s.modLaunch l f).mails = s.mails := rfl
@[simp] theorem State.modLaunch_barReqs (s : State) (l : Nat) (f : Launch → Launch) : (s.modLaunch l f).barReqs = s.barReqs := rfl
@[simp] theorem State.modLaunch_barAns (s : State) (l : Nat) (f : Launch → Launch) : (s.modLaunch l f).barAns = s.barAns := rfl
@[simp] theorem State.modLaunch_spawns (s : State) (l : Nat) (f : Launch → Launch) : (s.modLaunch l f).spawns = s.spawns := rfl
@[simp] theorem State.modLaunch_probes (s : State) (l : Nat) (f : Launch → Launch) : (s.modLaunch l f).probes = s.probes := rfl
@[simp] theorem State.modLaunch_migrations (s : State) (l : Nat) (f : Launch → Launch) : (s.modLaunch l f).migrations = s.migrations := rfl
@[simp] theorem State.modLaunch_cancels (s : State) (l : Nat) (f : Launch → Launch) : (s.modLaunch l f).cancels = s.cancels := rfl
@[simp] theorem State.modLaunch_preempts (s : State) (l : Nat) (f : Launch → Launch) : (s.modLaunch l f).preempts = s.preempts := rfl
@[simp] theorem State.modLaunch_ports (s : State) (l : Nat) (f : Launch → Launch) : (s.modLaunch l f).ports = s.ports := rfl
@[simp] theorem State.modLaunch_hostReads (s : State) (l : Nat) (f : Launch → Launch) : (s.modLaunch l f).hostReads = s.hostReads := rfl
@[simp] theorem State.modLaunch_hostData (s : State) (l : Nat) (f : Launch → Launch) : (s.modLaunch l f).hostData = s.hostData := rfl
@[simp] theorem State.modLaunch_remote (s : State) (l : Nat) (f : Launch → Launch) : (s.modLaunch l f).remote = s.remote := rfl
@[simp] theorem State.modLaunch_accelId (s : State) (l : Nat) (f : Launch → Launch) : (s.modLaunch l f).accelId = s.accelId := rfl
@[simp] theorem State.modLaunch_exports (s : State) (l : Nat) (f : Launch → Launch) : (s.modLaunch l f).exports = s.exports := rfl
@[simp] theorem State.modLaunch_groups (s : State) (l : Nat) (f : Launch → Launch) : (s.modLaunch l f).groups = s.groups := rfl
@[simp] theorem State.modLaunch_sentOut (s : State) (l : Nat) (f : Launch → Launch) : (s.modLaunch l f).sentOut = s.sentOut := rfl
@[simp] theorem State.modLaunch_ready (s : State) (l : Nat) (f : Launch → Launch) : (s.modLaunch l f).ready = s.ready := rfl
@[simp] theorem State.modLaunch_fatal (s : State) (l : Nat) (f : Launch → Launch) : (s.modLaunch l f).fatal = s.fatal := rfl
@[simp] theorem State.modLaunch_powerStep (s : State) (l : Nat) (f : Launch → Launch) : (s.modLaunch l f).powerStep = s.powerStep := rfl
@[simp] theorem State.modLaunch_firmware (s : State) (l : Nat) (f : Launch → Launch) : (s.modLaunch l f).firmware = s.firmware := rfl
@[simp] theorem State.modLaunch_power (s : State) (l : Nat) (f : Launch → Launch) : (s.modLaunch l f).power = s.power := rfl
@[simp] theorem State.modLaunch_links (s : State) (l : Nat) (f : Launch → Launch) : (s.modLaunch l f).links = s.links := rfl
@[simp] theorem State.modLaunch_linkWorking (s : State) (l : Nat) (f : Launch → Launch) : (s.modLaunch l f).linkWorking = s.linkWorking := rfl
@[simp] theorem State.modLaunch_cycle (s : State) (l : Nat) (f : Launch → Launch) : (s.modLaunch l f).cycle = s.cycle := rfl
@[simp] theorem State.modLaunch_timeBase (s : State) (l : Nat) (f : Launch → Launch) : (s.modLaunch l f).timeBase = s.timeBase := rfl
@[simp] theorem State.modLaunch_turnCore (s : State) (l : Nat) (f : Launch → Launch) : (s.modLaunch l f).turnCore = s.turnCore := rfl
@[simp] theorem State.modLaunch_turn (s : State) (l : Nat) (f : Launch → Launch) : (s.modLaunch l f).turn = s.turn := rfl
@[simp] theorem State.modLaunch_tick (s : State) (l : Nat) (f : Launch → Launch) : (s.modLaunch l f).tick = s.tick := rfl
@[simp] theorem State.modLaunch_nextId (s : State) (l : Nat) (f : Launch → Launch) : (s.modLaunch l f).nextId = s.nextId := rfl
@[simp] theorem State.modLaunch_agenda (s : State) (l : Nat) (f : Launch → Launch) : (s.modLaunch l f).agenda = s.agenda := rfl
@[simp] theorem State.modLaunch_inputs (s : State) (l : Nat) (f : Launch → Launch) : (s.modLaunch l f).inputs = s.inputs := rfl
@[simp] theorem State.modLaunch_again (s : State) (l : Nat) (f : Launch → Launch) : (s.modLaunch l f).again = s.again := rfl

/-! ## modJob -/

@[simp] theorem State.modJob_slots (s : State) (j : Nat) (f : Job → Job) : (s.modJob j f).slots = s.slots := rfl
@[simp] theorem State.modJob_cores (s : State) (j : Nat) (f : Job → Job) : (s.modJob j f).cores = s.cores := rfl
@[simp] theorem State.modJob_clusters (s : State) (j : Nat) (f : Job → Job) : (s.modJob j f).clusters = s.clusters := rfl
@[simp] theorem State.modJob_dies (s : State) (j : Nat) (f : Job → Job) : (s.modJob j f).dies = s.dies := rfl
@[simp] theorem State.modJob_mem (s : State) (j : Nat) (f : Job → Job) : (s.modJob j f).mem = s.mem := rfl
@[simp] theorem State.modJob_lost (s : State) (j : Nat) (f : Job → Job) : (s.modJob j f).lost = s.lost := rfl
@[simp] theorem State.modJob_found (s : State) (j : Nat) (f : Job → Job) : (s.modJob j f).found = s.found := rfl
@[simp] theorem State.modJob_cur (s : State) (j : Nat) (f : Job → Job) : (s.modJob j f).cur = s.cur := rfl
@[simp] theorem State.modJob_ilen (s : State) (j : Nat) (f : Job → Job) : (s.modJob j f).ilen = s.ilen := rfl
@[simp] theorem State.modJob_net (s : State) (j : Nat) (f : Job → Job) : (s.modJob j f).net = s.net := rfl
@[simp] theorem State.modJob_acks (s : State) (j : Nat) (f : Job → Job) : (s.modJob j f).acks = s.acks := rfl
@[simp] theorem State.modJob_replies (s : State) (j : Nat) (f : Job → Job) : (s.modJob j f).replies = s.replies := rfl
@[simp] theorem State.modJob_prefetches (s : State) (j : Nat) (f : Job → Job) : (s.modJob j f).prefetches = s.prefetches := rfl
@[simp] theorem State.modJob_walks (s : State) (j : Nat) (f : Job → Job) : (s.modJob j f).walks = s.walks := rfl
@[simp] theorem State.modJob_sendings (s : State) (j : Nat) (f : Job → Job) : (s.modJob j f).sendings = s.sendings := rfl
@[simp] theorem State.modJob_arrivals (s : State) (j : Nat) (f : Job → Job) : (s.modJob j f).arrivals = s.arrivals := rfl
@[simp] theorem State.modJob_accepted (s : State) (j : Nat) (f : Job → Job) : (s.modJob j f).accepted = s.accepted := rfl
@[simp] theorem State.modJob_promReqs (s : State) (j : Nat) (f : Job → Job) : (s.modJob j f).promReqs = s.promReqs := rfl
@[simp] theorem State.modJob_promReps (s : State) (j : Nat) (f : Job → Job) : (s.modJob j f).promReps = s.promReps := rfl
@[simp] theorem State.modJob_tlbOps (s : State) (j : Nat) (f : Job → Job) : (s.modJob j f).tlbOps = s.tlbOps := rfl
@[simp] theorem State.modJob_reports (s : State) (j : Nat) (f : Job → Job) : (s.modJob j f).reports = s.reports := rfl
@[simp] theorem State.modJob_reportSeq (s : State) (j : Nat) (f : Job → Job) : (s.modJob j f).reportSeq = s.reportSeq := rfl
@[simp] theorem State.modJob_wakes (s : State) (j : Nat) (f : Job → Job) : (s.modJob j f).wakes = s.wakes := rfl
@[simp] theorem State.modJob_csrWrites (s : State) (j : Nat) (f : Job → Job) : (s.modJob j f).csrWrites = s.csrWrites := rfl
@[simp] theorem State.modJob_moves (s : State) (j : Nat) (f : Job → Job) : (s.modJob j f).moves = s.moves := rfl
@[simp] theorem State.modJob_shadowFills (s : State) (j : Nat) (f : Job → Job) : (s.modJob j f).shadowFills = s.shadowFills := rfl
@[simp] theorem State.modJob_filling (s : State) (j : Nat) (f : Job → Job) : (s.modJob j f).filling = s.filling := rfl
@[simp] theorem State.modJob_pushWrites (s : State) (j : Nat) (f : Job → Job) : (s.modJob j f).pushWrites = s.pushWrites := rfl
@[simp] theorem State.modJob_asids (s : State) (j : Nat) (f : Job → Job) : (s.modJob j f).asids = s.asids := rfl
@[simp] theorem State.modJob_pages (s : State) (j : Nat) (f : Job → Job) : (s.modJob j f).pages = s.pages := rfl
@[simp] theorem State.modJob_seals (s : State) (j : Nat) (f : Job → Job) : (s.modJob j f).seals = s.seals := rfl
@[simp] theorem State.modJob_withdrawn (s : State) (j : Nat) (f : Job → Job) : (s.modJob j f).withdrawn = s.withdrawn := rfl
@[simp] theorem State.modJob_windows (s : State) (j : Nat) (f : Job → Job) : (s.modJob j f).windows = s.windows := rfl
@[simp] theorem State.modJob_keys (s : State) (j : Nat) (f : Job → Job) : (s.modJob j f).keys = s.keys := rfl
@[simp] theorem State.modJob_keyed (s : State) (j : Nat) (f : Job → Job) : (s.modJob j f).keyed = s.keyed := rfl
@[simp] theorem State.modJob_under (s : State) (j : Nat) (f : Job → Job) : (s.modJob j f).under = s.under := rfl
@[simp] theorem State.modJob_frames (s : State) (j : Nat) (f : Job → Job) : (s.modJob j f).frames = s.frames := rfl
@[simp] theorem State.modJob_regulator (s : State) (j : Nat) (f : Job → Job) : (s.modJob j f).regulator = s.regulator := rfl
@[simp] theorem State.modJob_activates (s : State) (j : Nat) (f : Job → Job) : (s.modJob j f).activates = s.activates := rfl
@[simp] theorem State.modJob_lowmark (s : State) (j : Nat) (f : Job → Job) : (s.modJob j f).lowmark = s.lowmark := rfl
@[simp] theorem State.modJob_retrain (s : State) (j : Nat) (f : Job → Job) : (s.modJob j f).retrain = s.retrain := rfl
@[simp] theorem State.modJob_stepctr (s : State) (j : Nat) (f : Job → Job) : (s.modJob j f).stepctr = s.stepctr := rfl
@[simp] theorem State.modJob_steers (s : State) (j : Nat) (f : Job → Job) : (s.modJob j f).steers = s.steers := rfl
@[simp] theorem State.modJob_launches (s : State) (j : Nat) (f : Job → Job) : (s.modJob j f).launches = s.launches := rfl
@[simp] theorem State.modJob_graphs (s : State) (j : Nat) (f : Job → Job) : (s.modJob j f).graphs = s.graphs := rfl
@[simp] theorem State.modJob_phases (s : State) (j : Nat) (f : Job → Job) : (s.modJob j f).phases = s.phases := rfl
@[simp] theorem State.modJob_nextJob (s : State) (j : Nat) (f : Job → Job) : (s.modJob j f).nextJob = s.nextJob := rfl
@[simp] theorem State.modJob_leaving (s : State) (j : Nat) (f : Job → Job) : (s.modJob j f).leaving = s.leaving := rfl
@[simp] theorem State.modJob_levelCopies (s : State) (j : Nat) (f : Job → Job) : (s.modJob j f).levelCopies = s.levelCopies := rfl
@[simp] theorem State.modJob_subQs (s : State) (j : Nat) (f : Job → Job) : (s.modJob j f).subQs = s.subQs := rfl
@[simp] theorem State.modJob_pointers (s : State) (j : Nat) (f : Job → Job) : (s.modJob j f).pointers = s.pointers := rfl
@[simp] theorem State.modJob_queues (s : State) (j : Nat) (f : Job → Job) : (s.modJob j f).queues = s.queues := rfl
@[simp] theorem State.modJob_nextQueue (s : State) (j : Nat) (f : Job → Job) : (s.modJob j f).nextQueue = s.nextQueue := rfl
@[simp] theorem State.modJob_mails (s : State) (j : Nat) (f : Job → Job) : (s.modJob j f).mails = s.mails := rfl
@[simp] theorem State.modJob_barReqs (s : State) (j : Nat) (f : Job → Job) : (s.modJob j f).barReqs = s.barReqs := rfl
@[simp] theorem State.modJob_barAns (s : State) (j : Nat) (f : Job → Job) : (s.modJob j f).barAns = s.barAns := rfl
@[simp] theorem State.modJob_spawns (s : State) (j : Nat) (f : Job → Job) : (s.modJob j f).spawns = s.spawns := rfl
@[simp] theorem State.modJob_probes (s : State) (j : Nat) (f : Job → Job) : (s.modJob j f).probes = s.probes := rfl
@[simp] theorem State.modJob_migrations (s : State) (j : Nat) (f : Job → Job) : (s.modJob j f).migrations = s.migrations := rfl
@[simp] theorem State.modJob_cancels (s : State) (j : Nat) (f : Job → Job) : (s.modJob j f).cancels = s.cancels := rfl
@[simp] theorem State.modJob_preempts (s : State) (j : Nat) (f : Job → Job) : (s.modJob j f).preempts = s.preempts := rfl
@[simp] theorem State.modJob_ports (s : State) (j : Nat) (f : Job → Job) : (s.modJob j f).ports = s.ports := rfl
@[simp] theorem State.modJob_hostReads (s : State) (j : Nat) (f : Job → Job) : (s.modJob j f).hostReads = s.hostReads := rfl
@[simp] theorem State.modJob_hostData (s : State) (j : Nat) (f : Job → Job) : (s.modJob j f).hostData = s.hostData := rfl
@[simp] theorem State.modJob_remote (s : State) (j : Nat) (f : Job → Job) : (s.modJob j f).remote = s.remote := rfl
@[simp] theorem State.modJob_accelId (s : State) (j : Nat) (f : Job → Job) : (s.modJob j f).accelId = s.accelId := rfl
@[simp] theorem State.modJob_exports (s : State) (j : Nat) (f : Job → Job) : (s.modJob j f).exports = s.exports := rfl
@[simp] theorem State.modJob_groups (s : State) (j : Nat) (f : Job → Job) : (s.modJob j f).groups = s.groups := rfl
@[simp] theorem State.modJob_sentOut (s : State) (j : Nat) (f : Job → Job) : (s.modJob j f).sentOut = s.sentOut := rfl
@[simp] theorem State.modJob_ready (s : State) (j : Nat) (f : Job → Job) : (s.modJob j f).ready = s.ready := rfl
@[simp] theorem State.modJob_fatal (s : State) (j : Nat) (f : Job → Job) : (s.modJob j f).fatal = s.fatal := rfl
@[simp] theorem State.modJob_powerStep (s : State) (j : Nat) (f : Job → Job) : (s.modJob j f).powerStep = s.powerStep := rfl
@[simp] theorem State.modJob_firmware (s : State) (j : Nat) (f : Job → Job) : (s.modJob j f).firmware = s.firmware := rfl
@[simp] theorem State.modJob_power (s : State) (j : Nat) (f : Job → Job) : (s.modJob j f).power = s.power := rfl
@[simp] theorem State.modJob_links (s : State) (j : Nat) (f : Job → Job) : (s.modJob j f).links = s.links := rfl
@[simp] theorem State.modJob_linkWorking (s : State) (j : Nat) (f : Job → Job) : (s.modJob j f).linkWorking = s.linkWorking := rfl
@[simp] theorem State.modJob_cycle (s : State) (j : Nat) (f : Job → Job) : (s.modJob j f).cycle = s.cycle := rfl
@[simp] theorem State.modJob_timeBase (s : State) (j : Nat) (f : Job → Job) : (s.modJob j f).timeBase = s.timeBase := rfl
@[simp] theorem State.modJob_turnCore (s : State) (j : Nat) (f : Job → Job) : (s.modJob j f).turnCore = s.turnCore := rfl
@[simp] theorem State.modJob_turn (s : State) (j : Nat) (f : Job → Job) : (s.modJob j f).turn = s.turn := rfl
@[simp] theorem State.modJob_tick (s : State) (j : Nat) (f : Job → Job) : (s.modJob j f).tick = s.tick := rfl
@[simp] theorem State.modJob_nextId (s : State) (j : Nat) (f : Job → Job) : (s.modJob j f).nextId = s.nextId := rfl
@[simp] theorem State.modJob_agenda (s : State) (j : Nat) (f : Job → Job) : (s.modJob j f).agenda = s.agenda := rfl
@[simp] theorem State.modJob_inputs (s : State) (j : Nat) (f : Job → Job) : (s.modJob j f).inputs = s.inputs := rfl
@[simp] theorem State.modJob_again (s : State) (j : Nat) (f : Job → Job) : (s.modJob j f).again = s.again := rfl

/-! ## modAsid -/

@[simp] theorem State.modAsid_slots (s : State) (a : Nat) (f : Asid → Asid) : (s.modAsid a f).slots = s.slots := rfl
@[simp] theorem State.modAsid_cores (s : State) (a : Nat) (f : Asid → Asid) : (s.modAsid a f).cores = s.cores := rfl
@[simp] theorem State.modAsid_clusters (s : State) (a : Nat) (f : Asid → Asid) : (s.modAsid a f).clusters = s.clusters := rfl
@[simp] theorem State.modAsid_dies (s : State) (a : Nat) (f : Asid → Asid) : (s.modAsid a f).dies = s.dies := rfl
@[simp] theorem State.modAsid_mem (s : State) (a : Nat) (f : Asid → Asid) : (s.modAsid a f).mem = s.mem := rfl
@[simp] theorem State.modAsid_lost (s : State) (a : Nat) (f : Asid → Asid) : (s.modAsid a f).lost = s.lost := rfl
@[simp] theorem State.modAsid_found (s : State) (a : Nat) (f : Asid → Asid) : (s.modAsid a f).found = s.found := rfl
@[simp] theorem State.modAsid_cur (s : State) (a : Nat) (f : Asid → Asid) : (s.modAsid a f).cur = s.cur := rfl
@[simp] theorem State.modAsid_ilen (s : State) (a : Nat) (f : Asid → Asid) : (s.modAsid a f).ilen = s.ilen := rfl
@[simp] theorem State.modAsid_net (s : State) (a : Nat) (f : Asid → Asid) : (s.modAsid a f).net = s.net := rfl
@[simp] theorem State.modAsid_acks (s : State) (a : Nat) (f : Asid → Asid) : (s.modAsid a f).acks = s.acks := rfl
@[simp] theorem State.modAsid_replies (s : State) (a : Nat) (f : Asid → Asid) : (s.modAsid a f).replies = s.replies := rfl
@[simp] theorem State.modAsid_prefetches (s : State) (a : Nat) (f : Asid → Asid) : (s.modAsid a f).prefetches = s.prefetches := rfl
@[simp] theorem State.modAsid_walks (s : State) (a : Nat) (f : Asid → Asid) : (s.modAsid a f).walks = s.walks := rfl
@[simp] theorem State.modAsid_sendings (s : State) (a : Nat) (f : Asid → Asid) : (s.modAsid a f).sendings = s.sendings := rfl
@[simp] theorem State.modAsid_arrivals (s : State) (a : Nat) (f : Asid → Asid) : (s.modAsid a f).arrivals = s.arrivals := rfl
@[simp] theorem State.modAsid_accepted (s : State) (a : Nat) (f : Asid → Asid) : (s.modAsid a f).accepted = s.accepted := rfl
@[simp] theorem State.modAsid_promReqs (s : State) (a : Nat) (f : Asid → Asid) : (s.modAsid a f).promReqs = s.promReqs := rfl
@[simp] theorem State.modAsid_promReps (s : State) (a : Nat) (f : Asid → Asid) : (s.modAsid a f).promReps = s.promReps := rfl
@[simp] theorem State.modAsid_tlbOps (s : State) (a : Nat) (f : Asid → Asid) : (s.modAsid a f).tlbOps = s.tlbOps := rfl
@[simp] theorem State.modAsid_reports (s : State) (a : Nat) (f : Asid → Asid) : (s.modAsid a f).reports = s.reports := rfl
@[simp] theorem State.modAsid_reportSeq (s : State) (a : Nat) (f : Asid → Asid) : (s.modAsid a f).reportSeq = s.reportSeq := rfl
@[simp] theorem State.modAsid_wakes (s : State) (a : Nat) (f : Asid → Asid) : (s.modAsid a f).wakes = s.wakes := rfl
@[simp] theorem State.modAsid_csrWrites (s : State) (a : Nat) (f : Asid → Asid) : (s.modAsid a f).csrWrites = s.csrWrites := rfl
@[simp] theorem State.modAsid_moves (s : State) (a : Nat) (f : Asid → Asid) : (s.modAsid a f).moves = s.moves := rfl
@[simp] theorem State.modAsid_shadowFills (s : State) (a : Nat) (f : Asid → Asid) : (s.modAsid a f).shadowFills = s.shadowFills := rfl
@[simp] theorem State.modAsid_filling (s : State) (a : Nat) (f : Asid → Asid) : (s.modAsid a f).filling = s.filling := rfl
@[simp] theorem State.modAsid_pushWrites (s : State) (a : Nat) (f : Asid → Asid) : (s.modAsid a f).pushWrites = s.pushWrites := rfl
@[simp] theorem State.modAsid_pages (s : State) (a : Nat) (f : Asid → Asid) : (s.modAsid a f).pages = s.pages := rfl
@[simp] theorem State.modAsid_seals (s : State) (a : Nat) (f : Asid → Asid) : (s.modAsid a f).seals = s.seals := rfl
@[simp] theorem State.modAsid_withdrawn (s : State) (a : Nat) (f : Asid → Asid) : (s.modAsid a f).withdrawn = s.withdrawn := rfl
@[simp] theorem State.modAsid_windows (s : State) (a : Nat) (f : Asid → Asid) : (s.modAsid a f).windows = s.windows := rfl
@[simp] theorem State.modAsid_keys (s : State) (a : Nat) (f : Asid → Asid) : (s.modAsid a f).keys = s.keys := rfl
@[simp] theorem State.modAsid_keyed (s : State) (a : Nat) (f : Asid → Asid) : (s.modAsid a f).keyed = s.keyed := rfl
@[simp] theorem State.modAsid_under (s : State) (a : Nat) (f : Asid → Asid) : (s.modAsid a f).under = s.under := rfl
@[simp] theorem State.modAsid_frames (s : State) (a : Nat) (f : Asid → Asid) : (s.modAsid a f).frames = s.frames := rfl
@[simp] theorem State.modAsid_regulator (s : State) (a : Nat) (f : Asid → Asid) : (s.modAsid a f).regulator = s.regulator := rfl
@[simp] theorem State.modAsid_activates (s : State) (a : Nat) (f : Asid → Asid) : (s.modAsid a f).activates = s.activates := rfl
@[simp] theorem State.modAsid_lowmark (s : State) (a : Nat) (f : Asid → Asid) : (s.modAsid a f).lowmark = s.lowmark := rfl
@[simp] theorem State.modAsid_retrain (s : State) (a : Nat) (f : Asid → Asid) : (s.modAsid a f).retrain = s.retrain := rfl
@[simp] theorem State.modAsid_stepctr (s : State) (a : Nat) (f : Asid → Asid) : (s.modAsid a f).stepctr = s.stepctr := rfl
@[simp] theorem State.modAsid_steers (s : State) (a : Nat) (f : Asid → Asid) : (s.modAsid a f).steers = s.steers := rfl
@[simp] theorem State.modAsid_launches (s : State) (a : Nat) (f : Asid → Asid) : (s.modAsid a f).launches = s.launches := rfl
@[simp] theorem State.modAsid_graphs (s : State) (a : Nat) (f : Asid → Asid) : (s.modAsid a f).graphs = s.graphs := rfl
@[simp] theorem State.modAsid_phases (s : State) (a : Nat) (f : Asid → Asid) : (s.modAsid a f).phases = s.phases := rfl
@[simp] theorem State.modAsid_jobs (s : State) (a : Nat) (f : Asid → Asid) : (s.modAsid a f).jobs = s.jobs := rfl
@[simp] theorem State.modAsid_nextJob (s : State) (a : Nat) (f : Asid → Asid) : (s.modAsid a f).nextJob = s.nextJob := rfl
@[simp] theorem State.modAsid_leaving (s : State) (a : Nat) (f : Asid → Asid) : (s.modAsid a f).leaving = s.leaving := rfl
@[simp] theorem State.modAsid_levelCopies (s : State) (a : Nat) (f : Asid → Asid) : (s.modAsid a f).levelCopies = s.levelCopies := rfl
@[simp] theorem State.modAsid_subQs (s : State) (a : Nat) (f : Asid → Asid) : (s.modAsid a f).subQs = s.subQs := rfl
@[simp] theorem State.modAsid_pointers (s : State) (a : Nat) (f : Asid → Asid) : (s.modAsid a f).pointers = s.pointers := rfl
@[simp] theorem State.modAsid_queues (s : State) (a : Nat) (f : Asid → Asid) : (s.modAsid a f).queues = s.queues := rfl
@[simp] theorem State.modAsid_nextQueue (s : State) (a : Nat) (f : Asid → Asid) : (s.modAsid a f).nextQueue = s.nextQueue := rfl
@[simp] theorem State.modAsid_mails (s : State) (a : Nat) (f : Asid → Asid) : (s.modAsid a f).mails = s.mails := rfl
@[simp] theorem State.modAsid_barReqs (s : State) (a : Nat) (f : Asid → Asid) : (s.modAsid a f).barReqs = s.barReqs := rfl
@[simp] theorem State.modAsid_barAns (s : State) (a : Nat) (f : Asid → Asid) : (s.modAsid a f).barAns = s.barAns := rfl
@[simp] theorem State.modAsid_spawns (s : State) (a : Nat) (f : Asid → Asid) : (s.modAsid a f).spawns = s.spawns := rfl
@[simp] theorem State.modAsid_probes (s : State) (a : Nat) (f : Asid → Asid) : (s.modAsid a f).probes = s.probes := rfl
@[simp] theorem State.modAsid_migrations (s : State) (a : Nat) (f : Asid → Asid) : (s.modAsid a f).migrations = s.migrations := rfl
@[simp] theorem State.modAsid_cancels (s : State) (a : Nat) (f : Asid → Asid) : (s.modAsid a f).cancels = s.cancels := rfl
@[simp] theorem State.modAsid_preempts (s : State) (a : Nat) (f : Asid → Asid) : (s.modAsid a f).preempts = s.preempts := rfl
@[simp] theorem State.modAsid_ports (s : State) (a : Nat) (f : Asid → Asid) : (s.modAsid a f).ports = s.ports := rfl
@[simp] theorem State.modAsid_hostReads (s : State) (a : Nat) (f : Asid → Asid) : (s.modAsid a f).hostReads = s.hostReads := rfl
@[simp] theorem State.modAsid_hostData (s : State) (a : Nat) (f : Asid → Asid) : (s.modAsid a f).hostData = s.hostData := rfl
@[simp] theorem State.modAsid_remote (s : State) (a : Nat) (f : Asid → Asid) : (s.modAsid a f).remote = s.remote := rfl
@[simp] theorem State.modAsid_accelId (s : State) (a : Nat) (f : Asid → Asid) : (s.modAsid a f).accelId = s.accelId := rfl
@[simp] theorem State.modAsid_exports (s : State) (a : Nat) (f : Asid → Asid) : (s.modAsid a f).exports = s.exports := rfl
@[simp] theorem State.modAsid_groups (s : State) (a : Nat) (f : Asid → Asid) : (s.modAsid a f).groups = s.groups := rfl
@[simp] theorem State.modAsid_sentOut (s : State) (a : Nat) (f : Asid → Asid) : (s.modAsid a f).sentOut = s.sentOut := rfl
@[simp] theorem State.modAsid_ready (s : State) (a : Nat) (f : Asid → Asid) : (s.modAsid a f).ready = s.ready := rfl
@[simp] theorem State.modAsid_fatal (s : State) (a : Nat) (f : Asid → Asid) : (s.modAsid a f).fatal = s.fatal := rfl
@[simp] theorem State.modAsid_powerStep (s : State) (a : Nat) (f : Asid → Asid) : (s.modAsid a f).powerStep = s.powerStep := rfl
@[simp] theorem State.modAsid_firmware (s : State) (a : Nat) (f : Asid → Asid) : (s.modAsid a f).firmware = s.firmware := rfl
@[simp] theorem State.modAsid_power (s : State) (a : Nat) (f : Asid → Asid) : (s.modAsid a f).power = s.power := rfl
@[simp] theorem State.modAsid_links (s : State) (a : Nat) (f : Asid → Asid) : (s.modAsid a f).links = s.links := rfl
@[simp] theorem State.modAsid_linkWorking (s : State) (a : Nat) (f : Asid → Asid) : (s.modAsid a f).linkWorking = s.linkWorking := rfl
@[simp] theorem State.modAsid_cycle (s : State) (a : Nat) (f : Asid → Asid) : (s.modAsid a f).cycle = s.cycle := rfl
@[simp] theorem State.modAsid_timeBase (s : State) (a : Nat) (f : Asid → Asid) : (s.modAsid a f).timeBase = s.timeBase := rfl
@[simp] theorem State.modAsid_turnCore (s : State) (a : Nat) (f : Asid → Asid) : (s.modAsid a f).turnCore = s.turnCore := rfl
@[simp] theorem State.modAsid_turn (s : State) (a : Nat) (f : Asid → Asid) : (s.modAsid a f).turn = s.turn := rfl
@[simp] theorem State.modAsid_tick (s : State) (a : Nat) (f : Asid → Asid) : (s.modAsid a f).tick = s.tick := rfl
@[simp] theorem State.modAsid_nextId (s : State) (a : Nat) (f : Asid → Asid) : (s.modAsid a f).nextId = s.nextId := rfl
@[simp] theorem State.modAsid_agenda (s : State) (a : Nat) (f : Asid → Asid) : (s.modAsid a f).agenda = s.agenda := rfl
@[simp] theorem State.modAsid_inputs (s : State) (a : Nat) (f : Asid → Asid) : (s.modAsid a f).inputs = s.inputs := rfl
@[simp] theorem State.modAsid_again (s : State) (a : Nat) (f : Asid → Asid) : (s.modAsid a f).again = s.again := rfl

/-! ## modPort -/

@[simp] theorem State.modPort_slots (s : State) (p : Nat) (f : HostPort → HostPort) : (s.modPort p f).slots = s.slots := rfl
@[simp] theorem State.modPort_cores (s : State) (p : Nat) (f : HostPort → HostPort) : (s.modPort p f).cores = s.cores := rfl
@[simp] theorem State.modPort_clusters (s : State) (p : Nat) (f : HostPort → HostPort) : (s.modPort p f).clusters = s.clusters := rfl
@[simp] theorem State.modPort_dies (s : State) (p : Nat) (f : HostPort → HostPort) : (s.modPort p f).dies = s.dies := rfl
@[simp] theorem State.modPort_mem (s : State) (p : Nat) (f : HostPort → HostPort) : (s.modPort p f).mem = s.mem := rfl
@[simp] theorem State.modPort_lost (s : State) (p : Nat) (f : HostPort → HostPort) : (s.modPort p f).lost = s.lost := rfl
@[simp] theorem State.modPort_found (s : State) (p : Nat) (f : HostPort → HostPort) : (s.modPort p f).found = s.found := rfl
@[simp] theorem State.modPort_cur (s : State) (p : Nat) (f : HostPort → HostPort) : (s.modPort p f).cur = s.cur := rfl
@[simp] theorem State.modPort_ilen (s : State) (p : Nat) (f : HostPort → HostPort) : (s.modPort p f).ilen = s.ilen := rfl
@[simp] theorem State.modPort_net (s : State) (p : Nat) (f : HostPort → HostPort) : (s.modPort p f).net = s.net := rfl
@[simp] theorem State.modPort_acks (s : State) (p : Nat) (f : HostPort → HostPort) : (s.modPort p f).acks = s.acks := rfl
@[simp] theorem State.modPort_replies (s : State) (p : Nat) (f : HostPort → HostPort) : (s.modPort p f).replies = s.replies := rfl
@[simp] theorem State.modPort_prefetches (s : State) (p : Nat) (f : HostPort → HostPort) : (s.modPort p f).prefetches = s.prefetches := rfl
@[simp] theorem State.modPort_walks (s : State) (p : Nat) (f : HostPort → HostPort) : (s.modPort p f).walks = s.walks := rfl
@[simp] theorem State.modPort_sendings (s : State) (p : Nat) (f : HostPort → HostPort) : (s.modPort p f).sendings = s.sendings := rfl
@[simp] theorem State.modPort_arrivals (s : State) (p : Nat) (f : HostPort → HostPort) : (s.modPort p f).arrivals = s.arrivals := rfl
@[simp] theorem State.modPort_accepted (s : State) (p : Nat) (f : HostPort → HostPort) : (s.modPort p f).accepted = s.accepted := rfl
@[simp] theorem State.modPort_promReqs (s : State) (p : Nat) (f : HostPort → HostPort) : (s.modPort p f).promReqs = s.promReqs := rfl
@[simp] theorem State.modPort_promReps (s : State) (p : Nat) (f : HostPort → HostPort) : (s.modPort p f).promReps = s.promReps := rfl
@[simp] theorem State.modPort_tlbOps (s : State) (p : Nat) (f : HostPort → HostPort) : (s.modPort p f).tlbOps = s.tlbOps := rfl
@[simp] theorem State.modPort_reports (s : State) (p : Nat) (f : HostPort → HostPort) : (s.modPort p f).reports = s.reports := rfl
@[simp] theorem State.modPort_reportSeq (s : State) (p : Nat) (f : HostPort → HostPort) : (s.modPort p f).reportSeq = s.reportSeq := rfl
@[simp] theorem State.modPort_wakes (s : State) (p : Nat) (f : HostPort → HostPort) : (s.modPort p f).wakes = s.wakes := rfl
@[simp] theorem State.modPort_csrWrites (s : State) (p : Nat) (f : HostPort → HostPort) : (s.modPort p f).csrWrites = s.csrWrites := rfl
@[simp] theorem State.modPort_moves (s : State) (p : Nat) (f : HostPort → HostPort) : (s.modPort p f).moves = s.moves := rfl
@[simp] theorem State.modPort_shadowFills (s : State) (p : Nat) (f : HostPort → HostPort) : (s.modPort p f).shadowFills = s.shadowFills := rfl
@[simp] theorem State.modPort_filling (s : State) (p : Nat) (f : HostPort → HostPort) : (s.modPort p f).filling = s.filling := rfl
@[simp] theorem State.modPort_pushWrites (s : State) (p : Nat) (f : HostPort → HostPort) : (s.modPort p f).pushWrites = s.pushWrites := rfl
@[simp] theorem State.modPort_asids (s : State) (p : Nat) (f : HostPort → HostPort) : (s.modPort p f).asids = s.asids := rfl
@[simp] theorem State.modPort_pages (s : State) (p : Nat) (f : HostPort → HostPort) : (s.modPort p f).pages = s.pages := rfl
@[simp] theorem State.modPort_seals (s : State) (p : Nat) (f : HostPort → HostPort) : (s.modPort p f).seals = s.seals := rfl
@[simp] theorem State.modPort_withdrawn (s : State) (p : Nat) (f : HostPort → HostPort) : (s.modPort p f).withdrawn = s.withdrawn := rfl
@[simp] theorem State.modPort_windows (s : State) (p : Nat) (f : HostPort → HostPort) : (s.modPort p f).windows = s.windows := rfl
@[simp] theorem State.modPort_keys (s : State) (p : Nat) (f : HostPort → HostPort) : (s.modPort p f).keys = s.keys := rfl
@[simp] theorem State.modPort_keyed (s : State) (p : Nat) (f : HostPort → HostPort) : (s.modPort p f).keyed = s.keyed := rfl
@[simp] theorem State.modPort_under (s : State) (p : Nat) (f : HostPort → HostPort) : (s.modPort p f).under = s.under := rfl
@[simp] theorem State.modPort_frames (s : State) (p : Nat) (f : HostPort → HostPort) : (s.modPort p f).frames = s.frames := rfl
@[simp] theorem State.modPort_regulator (s : State) (p : Nat) (f : HostPort → HostPort) : (s.modPort p f).regulator = s.regulator := rfl
@[simp] theorem State.modPort_activates (s : State) (p : Nat) (f : HostPort → HostPort) : (s.modPort p f).activates = s.activates := rfl
@[simp] theorem State.modPort_lowmark (s : State) (p : Nat) (f : HostPort → HostPort) : (s.modPort p f).lowmark = s.lowmark := rfl
@[simp] theorem State.modPort_retrain (s : State) (p : Nat) (f : HostPort → HostPort) : (s.modPort p f).retrain = s.retrain := rfl
@[simp] theorem State.modPort_stepctr (s : State) (p : Nat) (f : HostPort → HostPort) : (s.modPort p f).stepctr = s.stepctr := rfl
@[simp] theorem State.modPort_steers (s : State) (p : Nat) (f : HostPort → HostPort) : (s.modPort p f).steers = s.steers := rfl
@[simp] theorem State.modPort_launches (s : State) (p : Nat) (f : HostPort → HostPort) : (s.modPort p f).launches = s.launches := rfl
@[simp] theorem State.modPort_graphs (s : State) (p : Nat) (f : HostPort → HostPort) : (s.modPort p f).graphs = s.graphs := rfl
@[simp] theorem State.modPort_phases (s : State) (p : Nat) (f : HostPort → HostPort) : (s.modPort p f).phases = s.phases := rfl
@[simp] theorem State.modPort_jobs (s : State) (p : Nat) (f : HostPort → HostPort) : (s.modPort p f).jobs = s.jobs := rfl
@[simp] theorem State.modPort_nextJob (s : State) (p : Nat) (f : HostPort → HostPort) : (s.modPort p f).nextJob = s.nextJob := rfl
@[simp] theorem State.modPort_leaving (s : State) (p : Nat) (f : HostPort → HostPort) : (s.modPort p f).leaving = s.leaving := rfl
@[simp] theorem State.modPort_levelCopies (s : State) (p : Nat) (f : HostPort → HostPort) : (s.modPort p f).levelCopies = s.levelCopies := rfl
@[simp] theorem State.modPort_subQs (s : State) (p : Nat) (f : HostPort → HostPort) : (s.modPort p f).subQs = s.subQs := rfl
@[simp] theorem State.modPort_pointers (s : State) (p : Nat) (f : HostPort → HostPort) : (s.modPort p f).pointers = s.pointers := rfl
@[simp] theorem State.modPort_queues (s : State) (p : Nat) (f : HostPort → HostPort) : (s.modPort p f).queues = s.queues := rfl
@[simp] theorem State.modPort_nextQueue (s : State) (p : Nat) (f : HostPort → HostPort) : (s.modPort p f).nextQueue = s.nextQueue := rfl
@[simp] theorem State.modPort_mails (s : State) (p : Nat) (f : HostPort → HostPort) : (s.modPort p f).mails = s.mails := rfl
@[simp] theorem State.modPort_barReqs (s : State) (p : Nat) (f : HostPort → HostPort) : (s.modPort p f).barReqs = s.barReqs := rfl
@[simp] theorem State.modPort_barAns (s : State) (p : Nat) (f : HostPort → HostPort) : (s.modPort p f).barAns = s.barAns := rfl
@[simp] theorem State.modPort_spawns (s : State) (p : Nat) (f : HostPort → HostPort) : (s.modPort p f).spawns = s.spawns := rfl
@[simp] theorem State.modPort_probes (s : State) (p : Nat) (f : HostPort → HostPort) : (s.modPort p f).probes = s.probes := rfl
@[simp] theorem State.modPort_migrations (s : State) (p : Nat) (f : HostPort → HostPort) : (s.modPort p f).migrations = s.migrations := rfl
@[simp] theorem State.modPort_cancels (s : State) (p : Nat) (f : HostPort → HostPort) : (s.modPort p f).cancels = s.cancels := rfl
@[simp] theorem State.modPort_preempts (s : State) (p : Nat) (f : HostPort → HostPort) : (s.modPort p f).preempts = s.preempts := rfl
@[simp] theorem State.modPort_hostReads (s : State) (p : Nat) (f : HostPort → HostPort) : (s.modPort p f).hostReads = s.hostReads := rfl
@[simp] theorem State.modPort_hostData (s : State) (p : Nat) (f : HostPort → HostPort) : (s.modPort p f).hostData = s.hostData := rfl
@[simp] theorem State.modPort_remote (s : State) (p : Nat) (f : HostPort → HostPort) : (s.modPort p f).remote = s.remote := rfl
@[simp] theorem State.modPort_accelId (s : State) (p : Nat) (f : HostPort → HostPort) : (s.modPort p f).accelId = s.accelId := rfl
@[simp] theorem State.modPort_exports (s : State) (p : Nat) (f : HostPort → HostPort) : (s.modPort p f).exports = s.exports := rfl
@[simp] theorem State.modPort_groups (s : State) (p : Nat) (f : HostPort → HostPort) : (s.modPort p f).groups = s.groups := rfl
@[simp] theorem State.modPort_sentOut (s : State) (p : Nat) (f : HostPort → HostPort) : (s.modPort p f).sentOut = s.sentOut := rfl
@[simp] theorem State.modPort_ready (s : State) (p : Nat) (f : HostPort → HostPort) : (s.modPort p f).ready = s.ready := rfl
@[simp] theorem State.modPort_fatal (s : State) (p : Nat) (f : HostPort → HostPort) : (s.modPort p f).fatal = s.fatal := rfl
@[simp] theorem State.modPort_powerStep (s : State) (p : Nat) (f : HostPort → HostPort) : (s.modPort p f).powerStep = s.powerStep := rfl
@[simp] theorem State.modPort_firmware (s : State) (p : Nat) (f : HostPort → HostPort) : (s.modPort p f).firmware = s.firmware := rfl
@[simp] theorem State.modPort_power (s : State) (p : Nat) (f : HostPort → HostPort) : (s.modPort p f).power = s.power := rfl
@[simp] theorem State.modPort_links (s : State) (p : Nat) (f : HostPort → HostPort) : (s.modPort p f).links = s.links := rfl
@[simp] theorem State.modPort_linkWorking (s : State) (p : Nat) (f : HostPort → HostPort) : (s.modPort p f).linkWorking = s.linkWorking := rfl
@[simp] theorem State.modPort_cycle (s : State) (p : Nat) (f : HostPort → HostPort) : (s.modPort p f).cycle = s.cycle := rfl
@[simp] theorem State.modPort_timeBase (s : State) (p : Nat) (f : HostPort → HostPort) : (s.modPort p f).timeBase = s.timeBase := rfl
@[simp] theorem State.modPort_turnCore (s : State) (p : Nat) (f : HostPort → HostPort) : (s.modPort p f).turnCore = s.turnCore := rfl
@[simp] theorem State.modPort_turn (s : State) (p : Nat) (f : HostPort → HostPort) : (s.modPort p f).turn = s.turn := rfl
@[simp] theorem State.modPort_tick (s : State) (p : Nat) (f : HostPort → HostPort) : (s.modPort p f).tick = s.tick := rfl
@[simp] theorem State.modPort_nextId (s : State) (p : Nat) (f : HostPort → HostPort) : (s.modPort p f).nextId = s.nextId := rfl
@[simp] theorem State.modPort_agenda (s : State) (p : Nat) (f : HostPort → HostPort) : (s.modPort p f).agenda = s.agenda := rfl
@[simp] theorem State.modPort_inputs (s : State) (p : Nat) (f : HostPort → HostPort) : (s.modPort p f).inputs = s.inputs := rfl
@[simp] theorem State.modPort_again (s : State) (p : Nat) (f : HostPort → HostPort) : (s.modPort p f).again = s.again := rfl

/-! ## modSubQ -/

@[simp] theorem State.modSubQ_slots (s : State) (q : Nat) (f : SubQ → SubQ) : (s.modSubQ q f).slots = s.slots := rfl
@[simp] theorem State.modSubQ_cores (s : State) (q : Nat) (f : SubQ → SubQ) : (s.modSubQ q f).cores = s.cores := rfl
@[simp] theorem State.modSubQ_clusters (s : State) (q : Nat) (f : SubQ → SubQ) : (s.modSubQ q f).clusters = s.clusters := rfl
@[simp] theorem State.modSubQ_dies (s : State) (q : Nat) (f : SubQ → SubQ) : (s.modSubQ q f).dies = s.dies := rfl
@[simp] theorem State.modSubQ_mem (s : State) (q : Nat) (f : SubQ → SubQ) : (s.modSubQ q f).mem = s.mem := rfl
@[simp] theorem State.modSubQ_lost (s : State) (q : Nat) (f : SubQ → SubQ) : (s.modSubQ q f).lost = s.lost := rfl
@[simp] theorem State.modSubQ_found (s : State) (q : Nat) (f : SubQ → SubQ) : (s.modSubQ q f).found = s.found := rfl
@[simp] theorem State.modSubQ_cur (s : State) (q : Nat) (f : SubQ → SubQ) : (s.modSubQ q f).cur = s.cur := rfl
@[simp] theorem State.modSubQ_ilen (s : State) (q : Nat) (f : SubQ → SubQ) : (s.modSubQ q f).ilen = s.ilen := rfl
@[simp] theorem State.modSubQ_net (s : State) (q : Nat) (f : SubQ → SubQ) : (s.modSubQ q f).net = s.net := rfl
@[simp] theorem State.modSubQ_acks (s : State) (q : Nat) (f : SubQ → SubQ) : (s.modSubQ q f).acks = s.acks := rfl
@[simp] theorem State.modSubQ_replies (s : State) (q : Nat) (f : SubQ → SubQ) : (s.modSubQ q f).replies = s.replies := rfl
@[simp] theorem State.modSubQ_prefetches (s : State) (q : Nat) (f : SubQ → SubQ) : (s.modSubQ q f).prefetches = s.prefetches := rfl
@[simp] theorem State.modSubQ_walks (s : State) (q : Nat) (f : SubQ → SubQ) : (s.modSubQ q f).walks = s.walks := rfl
@[simp] theorem State.modSubQ_sendings (s : State) (q : Nat) (f : SubQ → SubQ) : (s.modSubQ q f).sendings = s.sendings := rfl
@[simp] theorem State.modSubQ_arrivals (s : State) (q : Nat) (f : SubQ → SubQ) : (s.modSubQ q f).arrivals = s.arrivals := rfl
@[simp] theorem State.modSubQ_accepted (s : State) (q : Nat) (f : SubQ → SubQ) : (s.modSubQ q f).accepted = s.accepted := rfl
@[simp] theorem State.modSubQ_promReqs (s : State) (q : Nat) (f : SubQ → SubQ) : (s.modSubQ q f).promReqs = s.promReqs := rfl
@[simp] theorem State.modSubQ_promReps (s : State) (q : Nat) (f : SubQ → SubQ) : (s.modSubQ q f).promReps = s.promReps := rfl
@[simp] theorem State.modSubQ_tlbOps (s : State) (q : Nat) (f : SubQ → SubQ) : (s.modSubQ q f).tlbOps = s.tlbOps := rfl
@[simp] theorem State.modSubQ_reports (s : State) (q : Nat) (f : SubQ → SubQ) : (s.modSubQ q f).reports = s.reports := rfl
@[simp] theorem State.modSubQ_reportSeq (s : State) (q : Nat) (f : SubQ → SubQ) : (s.modSubQ q f).reportSeq = s.reportSeq := rfl
@[simp] theorem State.modSubQ_wakes (s : State) (q : Nat) (f : SubQ → SubQ) : (s.modSubQ q f).wakes = s.wakes := rfl
@[simp] theorem State.modSubQ_csrWrites (s : State) (q : Nat) (f : SubQ → SubQ) : (s.modSubQ q f).csrWrites = s.csrWrites := rfl
@[simp] theorem State.modSubQ_moves (s : State) (q : Nat) (f : SubQ → SubQ) : (s.modSubQ q f).moves = s.moves := rfl
@[simp] theorem State.modSubQ_shadowFills (s : State) (q : Nat) (f : SubQ → SubQ) : (s.modSubQ q f).shadowFills = s.shadowFills := rfl
@[simp] theorem State.modSubQ_filling (s : State) (q : Nat) (f : SubQ → SubQ) : (s.modSubQ q f).filling = s.filling := rfl
@[simp] theorem State.modSubQ_pushWrites (s : State) (q : Nat) (f : SubQ → SubQ) : (s.modSubQ q f).pushWrites = s.pushWrites := rfl
@[simp] theorem State.modSubQ_asids (s : State) (q : Nat) (f : SubQ → SubQ) : (s.modSubQ q f).asids = s.asids := rfl
@[simp] theorem State.modSubQ_pages (s : State) (q : Nat) (f : SubQ → SubQ) : (s.modSubQ q f).pages = s.pages := rfl
@[simp] theorem State.modSubQ_seals (s : State) (q : Nat) (f : SubQ → SubQ) : (s.modSubQ q f).seals = s.seals := rfl
@[simp] theorem State.modSubQ_withdrawn (s : State) (q : Nat) (f : SubQ → SubQ) : (s.modSubQ q f).withdrawn = s.withdrawn := rfl
@[simp] theorem State.modSubQ_windows (s : State) (q : Nat) (f : SubQ → SubQ) : (s.modSubQ q f).windows = s.windows := rfl
@[simp] theorem State.modSubQ_keys (s : State) (q : Nat) (f : SubQ → SubQ) : (s.modSubQ q f).keys = s.keys := rfl
@[simp] theorem State.modSubQ_keyed (s : State) (q : Nat) (f : SubQ → SubQ) : (s.modSubQ q f).keyed = s.keyed := rfl
@[simp] theorem State.modSubQ_under (s : State) (q : Nat) (f : SubQ → SubQ) : (s.modSubQ q f).under = s.under := rfl
@[simp] theorem State.modSubQ_frames (s : State) (q : Nat) (f : SubQ → SubQ) : (s.modSubQ q f).frames = s.frames := rfl
@[simp] theorem State.modSubQ_regulator (s : State) (q : Nat) (f : SubQ → SubQ) : (s.modSubQ q f).regulator = s.regulator := rfl
@[simp] theorem State.modSubQ_activates (s : State) (q : Nat) (f : SubQ → SubQ) : (s.modSubQ q f).activates = s.activates := rfl
@[simp] theorem State.modSubQ_lowmark (s : State) (q : Nat) (f : SubQ → SubQ) : (s.modSubQ q f).lowmark = s.lowmark := rfl
@[simp] theorem State.modSubQ_retrain (s : State) (q : Nat) (f : SubQ → SubQ) : (s.modSubQ q f).retrain = s.retrain := rfl
@[simp] theorem State.modSubQ_stepctr (s : State) (q : Nat) (f : SubQ → SubQ) : (s.modSubQ q f).stepctr = s.stepctr := rfl
@[simp] theorem State.modSubQ_steers (s : State) (q : Nat) (f : SubQ → SubQ) : (s.modSubQ q f).steers = s.steers := rfl
@[simp] theorem State.modSubQ_launches (s : State) (q : Nat) (f : SubQ → SubQ) : (s.modSubQ q f).launches = s.launches := rfl
@[simp] theorem State.modSubQ_graphs (s : State) (q : Nat) (f : SubQ → SubQ) : (s.modSubQ q f).graphs = s.graphs := rfl
@[simp] theorem State.modSubQ_phases (s : State) (q : Nat) (f : SubQ → SubQ) : (s.modSubQ q f).phases = s.phases := rfl
@[simp] theorem State.modSubQ_jobs (s : State) (q : Nat) (f : SubQ → SubQ) : (s.modSubQ q f).jobs = s.jobs := rfl
@[simp] theorem State.modSubQ_nextJob (s : State) (q : Nat) (f : SubQ → SubQ) : (s.modSubQ q f).nextJob = s.nextJob := rfl
@[simp] theorem State.modSubQ_leaving (s : State) (q : Nat) (f : SubQ → SubQ) : (s.modSubQ q f).leaving = s.leaving := rfl
@[simp] theorem State.modSubQ_levelCopies (s : State) (q : Nat) (f : SubQ → SubQ) : (s.modSubQ q f).levelCopies = s.levelCopies := rfl
@[simp] theorem State.modSubQ_pointers (s : State) (q : Nat) (f : SubQ → SubQ) : (s.modSubQ q f).pointers = s.pointers := rfl
@[simp] theorem State.modSubQ_queues (s : State) (q : Nat) (f : SubQ → SubQ) : (s.modSubQ q f).queues = s.queues := rfl
@[simp] theorem State.modSubQ_nextQueue (s : State) (q : Nat) (f : SubQ → SubQ) : (s.modSubQ q f).nextQueue = s.nextQueue := rfl
@[simp] theorem State.modSubQ_mails (s : State) (q : Nat) (f : SubQ → SubQ) : (s.modSubQ q f).mails = s.mails := rfl
@[simp] theorem State.modSubQ_barReqs (s : State) (q : Nat) (f : SubQ → SubQ) : (s.modSubQ q f).barReqs = s.barReqs := rfl
@[simp] theorem State.modSubQ_barAns (s : State) (q : Nat) (f : SubQ → SubQ) : (s.modSubQ q f).barAns = s.barAns := rfl
@[simp] theorem State.modSubQ_spawns (s : State) (q : Nat) (f : SubQ → SubQ) : (s.modSubQ q f).spawns = s.spawns := rfl
@[simp] theorem State.modSubQ_probes (s : State) (q : Nat) (f : SubQ → SubQ) : (s.modSubQ q f).probes = s.probes := rfl
@[simp] theorem State.modSubQ_migrations (s : State) (q : Nat) (f : SubQ → SubQ) : (s.modSubQ q f).migrations = s.migrations := rfl
@[simp] theorem State.modSubQ_cancels (s : State) (q : Nat) (f : SubQ → SubQ) : (s.modSubQ q f).cancels = s.cancels := rfl
@[simp] theorem State.modSubQ_preempts (s : State) (q : Nat) (f : SubQ → SubQ) : (s.modSubQ q f).preempts = s.preempts := rfl
@[simp] theorem State.modSubQ_ports (s : State) (q : Nat) (f : SubQ → SubQ) : (s.modSubQ q f).ports = s.ports := rfl
@[simp] theorem State.modSubQ_hostReads (s : State) (q : Nat) (f : SubQ → SubQ) : (s.modSubQ q f).hostReads = s.hostReads := rfl
@[simp] theorem State.modSubQ_hostData (s : State) (q : Nat) (f : SubQ → SubQ) : (s.modSubQ q f).hostData = s.hostData := rfl
@[simp] theorem State.modSubQ_remote (s : State) (q : Nat) (f : SubQ → SubQ) : (s.modSubQ q f).remote = s.remote := rfl
@[simp] theorem State.modSubQ_accelId (s : State) (q : Nat) (f : SubQ → SubQ) : (s.modSubQ q f).accelId = s.accelId := rfl
@[simp] theorem State.modSubQ_exports (s : State) (q : Nat) (f : SubQ → SubQ) : (s.modSubQ q f).exports = s.exports := rfl
@[simp] theorem State.modSubQ_groups (s : State) (q : Nat) (f : SubQ → SubQ) : (s.modSubQ q f).groups = s.groups := rfl
@[simp] theorem State.modSubQ_sentOut (s : State) (q : Nat) (f : SubQ → SubQ) : (s.modSubQ q f).sentOut = s.sentOut := rfl
@[simp] theorem State.modSubQ_ready (s : State) (q : Nat) (f : SubQ → SubQ) : (s.modSubQ q f).ready = s.ready := rfl
@[simp] theorem State.modSubQ_fatal (s : State) (q : Nat) (f : SubQ → SubQ) : (s.modSubQ q f).fatal = s.fatal := rfl
@[simp] theorem State.modSubQ_powerStep (s : State) (q : Nat) (f : SubQ → SubQ) : (s.modSubQ q f).powerStep = s.powerStep := rfl
@[simp] theorem State.modSubQ_firmware (s : State) (q : Nat) (f : SubQ → SubQ) : (s.modSubQ q f).firmware = s.firmware := rfl
@[simp] theorem State.modSubQ_power (s : State) (q : Nat) (f : SubQ → SubQ) : (s.modSubQ q f).power = s.power := rfl
@[simp] theorem State.modSubQ_links (s : State) (q : Nat) (f : SubQ → SubQ) : (s.modSubQ q f).links = s.links := rfl
@[simp] theorem State.modSubQ_linkWorking (s : State) (q : Nat) (f : SubQ → SubQ) : (s.modSubQ q f).linkWorking = s.linkWorking := rfl
@[simp] theorem State.modSubQ_cycle (s : State) (q : Nat) (f : SubQ → SubQ) : (s.modSubQ q f).cycle = s.cycle := rfl
@[simp] theorem State.modSubQ_timeBase (s : State) (q : Nat) (f : SubQ → SubQ) : (s.modSubQ q f).timeBase = s.timeBase := rfl
@[simp] theorem State.modSubQ_turnCore (s : State) (q : Nat) (f : SubQ → SubQ) : (s.modSubQ q f).turnCore = s.turnCore := rfl
@[simp] theorem State.modSubQ_turn (s : State) (q : Nat) (f : SubQ → SubQ) : (s.modSubQ q f).turn = s.turn := rfl
@[simp] theorem State.modSubQ_tick (s : State) (q : Nat) (f : SubQ → SubQ) : (s.modSubQ q f).tick = s.tick := rfl
@[simp] theorem State.modSubQ_nextId (s : State) (q : Nat) (f : SubQ → SubQ) : (s.modSubQ q f).nextId = s.nextId := rfl
@[simp] theorem State.modSubQ_agenda (s : State) (q : Nat) (f : SubQ → SubQ) : (s.modSubQ q f).agenda = s.agenda := rfl
@[simp] theorem State.modSubQ_inputs (s : State) (q : Nat) (f : SubQ → SubQ) : (s.modSubQ q f).inputs = s.inputs := rfl
@[simp] theorem State.modSubQ_again (s : State) (q : Nat) (f : SubQ → SubQ) : (s.modSubQ q f).again = s.again := rfl

/-! ## What is written reads back -/

@[simp] theorem State.slot_setSlot_self (s : State) (g : Nat) (x : Slot) : (s.setSlot g x).slot g = x := Tab.getD_set_self _ _ _ _
theorem State.slot_setSlot_ne (s : State) {g h : Nat} (x : Slot) (n : h ≠ g) : (s.setSlot g x).slot h = s.slot h := Tab.getD_set_ne _ _ _ n
@[simp] theorem State.slot_modSlot_self (s : State) (g : Nat) (f : Slot → Slot) : (s.modSlot g f).slot g = f (s.slot g) :=
  Tab.getD_set_self _ _ _ _
theorem State.slot_modSlot_ne (s : State) {g h : Nat} (f : Slot → Slot) (n : h ≠ g) : (s.modSlot g f).slot h = s.slot h :=
  Tab.getD_set_ne _ _ _ n
@[simp] theorem State.me_modMe (s : State) (f : Slot → Slot) : (s.modMe f).me = f s.me := Tab.getD_set_self _ _ _ _
theorem State.slot_modMe_ne (s : State) {g : Nat} (f : Slot → Slot) (n : g ≠ s.cur) : (s.modMe f).slot g = s.slot g := Tab.getD_set_ne _ _ _ n
@[simp] theorem State.core_modCore_self (s : State) (k : Nat) (f : Core → Core) : (s.modCore k f).core k = f (s.core k) :=
  Tab.getD_set_self _ _ _ _
theorem State.core_modCore_ne (s : State) {k j : Nat} (f : Core → Core) (n : j ≠ k) : (s.modCore k f).core j = s.core j := Tab.getD_set_ne _ _ _ n
@[simp] theorem State.cluster_modCluster_self (s : State) (k : Nat) (f : Cluster → Cluster) : (s.modCluster k f).cluster k = f (s.cluster k) :=
  Tab.getD_set_self _ _ _ _
theorem State.cluster_modCluster_ne (s : State) {k j : Nat} (f : Cluster → Cluster) (n : j ≠ k) : (s.modCluster k f).cluster j = s.cluster j := Tab.getD_set_ne _ _ _ n
@[simp] theorem State.die_modDie_self (s : State) (k : Nat) (f : Die → Die) : (s.modDie k f).die k = f (s.die k) :=
  Tab.getD_set_self _ _ _ _
theorem State.die_modDie_ne (s : State) {k j : Nat} (f : Die → Die) (n : j ≠ k) : (s.modDie k f).die j = s.die j := Tab.getD_set_ne _ _ _ n
@[simp] theorem State.launch_modLaunch_self (s : State) (k : Nat) (f : Launch → Launch) : (s.modLaunch k f).launch k = f (s.launch k) :=
  Tab.getD_set_self _ _ _ _
theorem State.launch_modLaunch_ne (s : State) {k j : Nat} (f : Launch → Launch) (n : j ≠ k) : (s.modLaunch k f).launch j = s.launch j := Tab.getD_set_ne _ _ _ n
@[simp] theorem State.job_modJob_self (s : State) (k : Nat) (f : Job → Job) : (s.modJob k f).job k = f (s.job k) :=
  Tab.getD_set_self _ _ _ _
theorem State.job_modJob_ne (s : State) {k j : Nat} (f : Job → Job) (n : j ≠ k) : (s.modJob k f).job j = s.job j := Tab.getD_set_ne _ _ _ n
@[simp] theorem State.asidOf_modAsid_self (s : State) (k : Nat) (f : Asid → Asid) : (s.modAsid k f).asidOf k = f (s.asidOf k) :=
  Tab.getD_set_self _ _ _ _
theorem State.asidOf_modAsid_ne (s : State) {k j : Nat} (f : Asid → Asid) (n : j ≠ k) : (s.modAsid k f).asidOf j = s.asidOf j := Tab.getD_set_ne _ _ _ n
@[simp] theorem State.port_modPort_self (s : State) (k : Nat) (f : HostPort → HostPort) : (s.modPort k f).port k = f (s.port k) :=
  Tab.getD_set_self _ _ _ _
theorem State.port_modPort_ne (s : State) {k j : Nat} (f : HostPort → HostPort) (n : j ≠ k) : (s.modPort k f).port j = s.port j := Tab.getD_set_ne _ _ _ n
@[simp] theorem State.subQ_modSubQ_self (s : State) (k : Nat) (f : SubQ → SubQ) : (s.modSubQ k f).subQ k = f (s.subQ k) :=
  Tab.getD_set_self _ _ _ _
theorem State.subQ_modSubQ_ne (s : State) {k j : Nat} (f : SubQ → SubQ) (n : j ≠ k) : (s.modSubQ k f).subQ j = s.subQ j := Tab.getD_set_ne _ _ _ n

/-! ## Parts that an update does not concern -/

@[simp] theorem State.core_setSlot (s : State) (g : Nat) (x : Slot) (k : Nat) : (s.setSlot g x).core k = s.core k := rfl
@[simp] theorem State.cluster_setSlot (s : State) (g : Nat) (x : Slot) (k : Nat) : (s.setSlot g x).cluster k = s.cluster k := rfl
@[simp] theorem State.die_setSlot (s : State) (g : Nat) (x : Slot) (k : Nat) : (s.setSlot g x).die k = s.die k := rfl
@[simp] theorem State.launch_setSlot (s : State) (g : Nat) (x : Slot) (k : Nat) : (s.setSlot g x).launch k = s.launch k := rfl
@[simp] theorem State.job_setSlot (s : State) (g : Nat) (x : Slot) (k : Nat) : (s.setSlot g x).job k = s.job k := rfl
@[simp] theorem State.asidOf_setSlot (s : State) (g : Nat) (x : Slot) (k : Nat) : (s.setSlot g x).asidOf k = s.asidOf k := rfl
@[simp] theorem State.port_setSlot (s : State) (g : Nat) (x : Slot) (k : Nat) : (s.setSlot g x).port k = s.port k := rfl
@[simp] theorem State.subQ_setSlot (s : State) (g : Nat) (x : Slot) (k : Nat) : (s.setSlot g x).subQ k = s.subQ k := rfl
@[simp] theorem State.core_modSlot (s : State) (g : Nat) (f : Slot → Slot) (k : Nat) : (s.modSlot g f).core k = s.core k := rfl
@[simp] theorem State.cluster_modSlot (s : State) (g : Nat) (f : Slot → Slot) (k : Nat) : (s.modSlot g f).cluster k = s.cluster k := rfl
@[simp] theorem State.die_modSlot (s : State) (g : Nat) (f : Slot → Slot) (k : Nat) : (s.modSlot g f).die k = s.die k := rfl
@[simp] theorem State.launch_modSlot (s : State) (g : Nat) (f : Slot → Slot) (k : Nat) : (s.modSlot g f).launch k = s.launch k := rfl
@[simp] theorem State.job_modSlot (s : State) (g : Nat) (f : Slot → Slot) (k : Nat) : (s.modSlot g f).job k = s.job k := rfl
@[simp] theorem State.asidOf_modSlot (s : State) (g : Nat) (f : Slot → Slot) (k : Nat) : (s.modSlot g f).asidOf k = s.asidOf k := rfl
@[simp] theorem State.port_modSlot (s : State) (g : Nat) (f : Slot → Slot) (k : Nat) : (s.modSlot g f).port k = s.port k := rfl
@[simp] theorem State.subQ_modSlot (s : State) (g : Nat) (f : Slot → Slot) (k : Nat) : (s.modSlot g f).subQ k = s.subQ k := rfl
@[simp] theorem State.core_modMe (s : State) (f : Slot → Slot) (k : Nat) : (s.modMe f).core k = s.core k := rfl
@[simp] theorem State.cluster_modMe (s : State) (f : Slot → Slot) (k : Nat) : (s.modMe f).cluster k = s.cluster k := rfl
@[simp] theorem State.die_modMe (s : State) (f : Slot → Slot) (k : Nat) : (s.modMe f).die k = s.die k := rfl
@[simp] theorem State.launch_modMe (s : State) (f : Slot → Slot) (k : Nat) : (s.modMe f).launch k = s.launch k := rfl
@[simp] theorem State.job_modMe (s : State) (f : Slot → Slot) (k : Nat) : (s.modMe f).job k = s.job k := rfl
@[simp] theorem State.asidOf_modMe (s : State) (f : Slot → Slot) (k : Nat) : (s.modMe f).asidOf k = s.asidOf k := rfl
@[simp] theorem State.port_modMe (s : State) (f : Slot → Slot) (k : Nat) : (s.modMe f).port k = s.port k := rfl
@[simp] theorem State.subQ_modMe (s : State) (f : Slot → Slot) (k : Nat) : (s.modMe f).subQ k = s.subQ k := rfl
@[simp] theorem State.slot_modCore (s : State) (c : Nat) (f : Core → Core) (k : Nat) : (s.modCore c f).slot k = s.slot k := rfl
@[simp] theorem State.cluster_modCore (s : State) (c : Nat) (f : Core → Core) (k : Nat) : (s.modCore c f).cluster k = s.cluster k := rfl
@[simp] theorem State.die_modCore (s : State) (c : Nat) (f : Core → Core) (k : Nat) : (s.modCore c f).die k = s.die k := rfl
@[simp] theorem State.launch_modCore (s : State) (c : Nat) (f : Core → Core) (k : Nat) : (s.modCore c f).launch k = s.launch k := rfl
@[simp] theorem State.job_modCore (s : State) (c : Nat) (f : Core → Core) (k : Nat) : (s.modCore c f).job k = s.job k := rfl
@[simp] theorem State.asidOf_modCore (s : State) (c : Nat) (f : Core → Core) (k : Nat) : (s.modCore c f).asidOf k = s.asidOf k := rfl
@[simp] theorem State.port_modCore (s : State) (c : Nat) (f : Core → Core) (k : Nat) : (s.modCore c f).port k = s.port k := rfl
@[simp] theorem State.subQ_modCore (s : State) (c : Nat) (f : Core → Core) (k : Nat) : (s.modCore c f).subQ k = s.subQ k := rfl
@[simp] theorem State.slot_modCluster (s : State) (c : Nat) (f : Cluster → Cluster) (k : Nat) : (s.modCluster c f).slot k = s.slot k := rfl
@[simp] theorem State.core_modCluster (s : State) (c : Nat) (f : Cluster → Cluster) (k : Nat) : (s.modCluster c f).core k = s.core k := rfl
@[simp] theorem State.die_modCluster (s : State) (c : Nat) (f : Cluster → Cluster) (k : Nat) : (s.modCluster c f).die k = s.die k := rfl
@[simp] theorem State.launch_modCluster (s : State) (c : Nat) (f : Cluster → Cluster) (k : Nat) : (s.modCluster c f).launch k = s.launch k := rfl
@[simp] theorem State.job_modCluster (s : State) (c : Nat) (f : Cluster → Cluster) (k : Nat) : (s.modCluster c f).job k = s.job k := rfl
@[simp] theorem State.asidOf_modCluster (s : State) (c : Nat) (f : Cluster → Cluster) (k : Nat) : (s.modCluster c f).asidOf k = s.asidOf k := rfl
@[simp] theorem State.port_modCluster (s : State) (c : Nat) (f : Cluster → Cluster) (k : Nat) : (s.modCluster c f).port k = s.port k := rfl
@[simp] theorem State.subQ_modCluster (s : State) (c : Nat) (f : Cluster → Cluster) (k : Nat) : (s.modCluster c f).subQ k = s.subQ k := rfl
@[simp] theorem State.slot_modBank (s : State) (c b : Nat) (f : Bank → Bank) (k : Nat) : (s.modBank c b f).slot k = s.slot k := rfl
@[simp] theorem State.core_modBank (s : State) (c b : Nat) (f : Bank → Bank) (k : Nat) : (s.modBank c b f).core k = s.core k := rfl
@[simp] theorem State.die_modBank (s : State) (c b : Nat) (f : Bank → Bank) (k : Nat) : (s.modBank c b f).die k = s.die k := rfl
@[simp] theorem State.launch_modBank (s : State) (c b : Nat) (f : Bank → Bank) (k : Nat) : (s.modBank c b f).launch k = s.launch k := rfl
@[simp] theorem State.job_modBank (s : State) (c b : Nat) (f : Bank → Bank) (k : Nat) : (s.modBank c b f).job k = s.job k := rfl
@[simp] theorem State.asidOf_modBank (s : State) (c b : Nat) (f : Bank → Bank) (k : Nat) : (s.modBank c b f).asidOf k = s.asidOf k := rfl
@[simp] theorem State.port_modBank (s : State) (c b : Nat) (f : Bank → Bank) (k : Nat) : (s.modBank c b f).port k = s.port k := rfl
@[simp] theorem State.subQ_modBank (s : State) (c b : Nat) (f : Bank → Bank) (k : Nat) : (s.modBank c b f).subQ k = s.subQ k := rfl
@[simp] theorem State.slot_modDie (s : State) (d : Nat) (f : Die → Die) (k : Nat) : (s.modDie d f).slot k = s.slot k := rfl
@[simp] theorem State.core_modDie (s : State) (d : Nat) (f : Die → Die) (k : Nat) : (s.modDie d f).core k = s.core k := rfl
@[simp] theorem State.cluster_modDie (s : State) (d : Nat) (f : Die → Die) (k : Nat) : (s.modDie d f).cluster k = s.cluster k := rfl
@[simp] theorem State.launch_modDie (s : State) (d : Nat) (f : Die → Die) (k : Nat) : (s.modDie d f).launch k = s.launch k := rfl
@[simp] theorem State.job_modDie (s : State) (d : Nat) (f : Die → Die) (k : Nat) : (s.modDie d f).job k = s.job k := rfl
@[simp] theorem State.asidOf_modDie (s : State) (d : Nat) (f : Die → Die) (k : Nat) : (s.modDie d f).asidOf k = s.asidOf k := rfl
@[simp] theorem State.port_modDie (s : State) (d : Nat) (f : Die → Die) (k : Nat) : (s.modDie d f).port k = s.port k := rfl
@[simp] theorem State.subQ_modDie (s : State) (d : Nat) (f : Die → Die) (k : Nat) : (s.modDie d f).subQ k = s.subQ k := rfl
@[simp] theorem State.slot_modLaunch (s : State) (l : Nat) (f : Launch → Launch) (k : Nat) : (s.modLaunch l f).slot k = s.slot k := rfl
@[simp] theorem State.core_modLaunch (s : State) (l : Nat) (f : Launch → Launch) (k : Nat) : (s.modLaunch l f).core k = s.core k := rfl
@[simp] theorem State.cluster_modLaunch (s : State) (l : Nat) (f : Launch → Launch) (k : Nat) : (s.modLaunch l f).cluster k = s.cluster k := rfl
@[simp] theorem State.die_modLaunch (s : State) (l : Nat) (f : Launch → Launch) (k : Nat) : (s.modLaunch l f).die k = s.die k := rfl
@[simp] theorem State.job_modLaunch (s : State) (l : Nat) (f : Launch → Launch) (k : Nat) : (s.modLaunch l f).job k = s.job k := rfl
@[simp] theorem State.asidOf_modLaunch (s : State) (l : Nat) (f : Launch → Launch) (k : Nat) : (s.modLaunch l f).asidOf k = s.asidOf k := rfl
@[simp] theorem State.port_modLaunch (s : State) (l : Nat) (f : Launch → Launch) (k : Nat) : (s.modLaunch l f).port k = s.port k := rfl
@[simp] theorem State.subQ_modLaunch (s : State) (l : Nat) (f : Launch → Launch) (k : Nat) : (s.modLaunch l f).subQ k = s.subQ k := rfl
@[simp] theorem State.slot_modJob (s : State) (j : Nat) (f : Job → Job) (k : Nat) : (s.modJob j f).slot k = s.slot k := rfl
@[simp] theorem State.core_modJob (s : State) (j : Nat) (f : Job → Job) (k : Nat) : (s.modJob j f).core k = s.core k := rfl
@[simp] theorem State.cluster_modJob (s : State) (j : Nat) (f : Job → Job) (k : Nat) : (s.modJob j f).cluster k = s.cluster k := rfl
@[simp] theorem State.die_modJob (s : State) (j : Nat) (f : Job → Job) (k : Nat) : (s.modJob j f).die k = s.die k := rfl
@[simp] theorem State.launch_modJob (s : State) (j : Nat) (f : Job → Job) (k : Nat) : (s.modJob j f).launch k = s.launch k := rfl
@[simp] theorem State.asidOf_modJob (s : State) (j : Nat) (f : Job → Job) (k : Nat) : (s.modJob j f).asidOf k = s.asidOf k := rfl
@[simp] theorem State.port_modJob (s : State) (j : Nat) (f : Job → Job) (k : Nat) : (s.modJob j f).port k = s.port k := rfl
@[simp] theorem State.subQ_modJob (s : State) (j : Nat) (f : Job → Job) (k : Nat) : (s.modJob j f).subQ k = s.subQ k := rfl
@[simp] theorem State.slot_modAsid (s : State) (a : Nat) (f : Asid → Asid) (k : Nat) : (s.modAsid a f).slot k = s.slot k := rfl
@[simp] theorem State.core_modAsid (s : State) (a : Nat) (f : Asid → Asid) (k : Nat) : (s.modAsid a f).core k = s.core k := rfl
@[simp] theorem State.cluster_modAsid (s : State) (a : Nat) (f : Asid → Asid) (k : Nat) : (s.modAsid a f).cluster k = s.cluster k := rfl
@[simp] theorem State.die_modAsid (s : State) (a : Nat) (f : Asid → Asid) (k : Nat) : (s.modAsid a f).die k = s.die k := rfl
@[simp] theorem State.launch_modAsid (s : State) (a : Nat) (f : Asid → Asid) (k : Nat) : (s.modAsid a f).launch k = s.launch k := rfl
@[simp] theorem State.job_modAsid (s : State) (a : Nat) (f : Asid → Asid) (k : Nat) : (s.modAsid a f).job k = s.job k := rfl
@[simp] theorem State.port_modAsid (s : State) (a : Nat) (f : Asid → Asid) (k : Nat) : (s.modAsid a f).port k = s.port k := rfl
@[simp] theorem State.subQ_modAsid (s : State) (a : Nat) (f : Asid → Asid) (k : Nat) : (s.modAsid a f).subQ k = s.subQ k := rfl
@[simp] theorem State.slot_modPort (s : State) (p : Nat) (f : HostPort → HostPort) (k : Nat) : (s.modPort p f).slot k = s.slot k := rfl
@[simp] theorem State.core_modPort (s : State) (p : Nat) (f : HostPort → HostPort) (k : Nat) : (s.modPort p f).core k = s.core k := rfl
@[simp] theorem State.cluster_modPort (s : State) (p : Nat) (f : HostPort → HostPort) (k : Nat) : (s.modPort p f).cluster k = s.cluster k := rfl
@[simp] theorem State.die_modPort (s : State) (p : Nat) (f : HostPort → HostPort) (k : Nat) : (s.modPort p f).die k = s.die k := rfl
@[simp] theorem State.launch_modPort (s : State) (p : Nat) (f : HostPort → HostPort) (k : Nat) : (s.modPort p f).launch k = s.launch k := rfl
@[simp] theorem State.job_modPort (s : State) (p : Nat) (f : HostPort → HostPort) (k : Nat) : (s.modPort p f).job k = s.job k := rfl
@[simp] theorem State.asidOf_modPort (s : State) (p : Nat) (f : HostPort → HostPort) (k : Nat) : (s.modPort p f).asidOf k = s.asidOf k := rfl
@[simp] theorem State.subQ_modPort (s : State) (p : Nat) (f : HostPort → HostPort) (k : Nat) : (s.modPort p f).subQ k = s.subQ k := rfl
@[simp] theorem State.slot_modSubQ (s : State) (q : Nat) (f : SubQ → SubQ) (k : Nat) : (s.modSubQ q f).slot k = s.slot k := rfl
@[simp] theorem State.core_modSubQ (s : State) (q : Nat) (f : SubQ → SubQ) (k : Nat) : (s.modSubQ q f).core k = s.core k := rfl
@[simp] theorem State.cluster_modSubQ (s : State) (q : Nat) (f : SubQ → SubQ) (k : Nat) : (s.modSubQ q f).cluster k = s.cluster k := rfl
@[simp] theorem State.die_modSubQ (s : State) (q : Nat) (f : SubQ → SubQ) (k : Nat) : (s.modSubQ q f).die k = s.die k := rfl
@[simp] theorem State.launch_modSubQ (s : State) (q : Nat) (f : SubQ → SubQ) (k : Nat) : (s.modSubQ q f).launch k = s.launch k := rfl
@[simp] theorem State.job_modSubQ (s : State) (q : Nat) (f : SubQ → SubQ) (k : Nat) : (s.modSubQ q f).job k = s.job k := rfl
@[simp] theorem State.asidOf_modSubQ (s : State) (q : Nat) (f : SubQ → SubQ) (k : Nat) : (s.modSubQ q f).asidOf k = s.asidOf k := rfl
@[simp] theorem State.port_modSubQ (s : State) (q : Nat) (f : SubQ → SubQ) (k : Nat) : (s.modSubQ q f).port k = s.port k := rfl

/-! ## Slots -/

@[simp] theorem Slot.setX_status (x : Slot) (n : Nat) (v : Word) : (x.setX n v).status = x.status := by unfold Slot.setX; split <;> rfl
@[simp] theorem Slot.setX_pc (x : Slot) (n : Nat) (v : Word) : (x.setX n v).pc = x.pc := by unfold Slot.setX; split <;> rfl
@[simp] theorem Slot.setX_frm (x : Slot) (n : Nat) (v : Word) : (x.setX n v).frm = x.frm := by unfold Slot.setX; split <;> rfl
@[simp] theorem Slot.setX_fflags (x : Slot) (n : Nat) (v : Word) : (x.setX n v).fflags = x.fflags := by unfold Slot.setX; split <;> rfl
@[simp] theorem Slot.setX_tfrm (x : Slot) (n : Nat) (v : Word) : (x.setX n v).tfrm = x.tfrm := by unfold Slot.setX; split <;> rfl
@[simp] theorem Slot.setX_asid (x : Slot) (n : Nat) (v : Word) : (x.setX n v).asid = x.asid := by unfold Slot.setX; split <;> rfl
@[simp] theorem Slot.setX_tcause (x : Slot) (n : Nat) (v : Word) : (x.setX n v).tcause = x.tcause := by unfold Slot.setX; split <;> rfl
@[simp] theorem Slot.setX_tip (x : Slot) (n : Nat) (v : Word) : (x.setX n v).tip = x.tip := by unfold Slot.setX; split <;> rfl
@[simp] theorem Slot.setX_taddr (x : Slot) (n : Nat) (v : Word) : (x.setX n v).taddr = x.taddr := by unfold Slot.setX; split <;> rfl
@[simp] theorem Slot.setX_thand (x : Slot) (n : Nat) (v : Word) : (x.setX n v).thand = x.thand := by unfold Slot.setX; split <;> rfl
@[simp] theorem Slot.setX_tinfo (x : Slot) (n : Nat) (v : Word) : (x.setX n v).tinfo = x.tinfo := by unfold Slot.setX; split <;> rfl
@[simp] theorem Slot.setX_rasid (x : Slot) (n : Nat) (v : Word) : (x.setX n v).rasid = x.rasid := by unfold Slot.setX; split <;> rfl
@[simp] theorem Slot.setX_agsel (x : Slot) (n : Nat) (v : Word) : (x.setX n v).agsel = x.agsel := by unfold Slot.setX; split <;> rfl
@[simp] theorem Slot.setX_qsel (x : Slot) (n : Nat) (v : Word) : (x.setX n v).qsel = x.qsel := by unfold Slot.setX; split <;> rfl
@[simp] theorem Slot.setX_rep (x : Slot) (n : Nat) (v : Word) : (x.setX n v).rep = x.rep := by unfold Slot.setX; split <;> rfl
@[simp] theorem Slot.setX_tvec (x : Slot) (n : Nat) (v : Word) : (x.setX n v).tvec = x.tvec := by unfold Slot.setX; split <;> rfl
@[simp] theorem Slot.setX_ld (x : Slot) (n : Nat) (v : Word) : (x.setX n v).ld = x.ld := by unfold Slot.setX; split <;> rfl
@[simp] theorem Slot.setX_st (x : Slot) (n : Nat) (v : Word) : (x.setX n v).st = x.st := by unfold Slot.setX; split <;> rfl
@[simp] theorem Slot.setX_cp (x : Slot) (n : Nat) (v : Word) : (x.setX n v).cp = x.cp := by unfold Slot.setX; split <;> rfl
@[simp] theorem Slot.setX_tb (x : Slot) (n : Nat) (v : Word) : (x.setX n v).tb = x.tb := by unfold Slot.setX; split <;> rfl
@[simp] theorem Slot.setX_ports (x : Slot) (n : Nat) (v : Word) : (x.setX n v).ports = x.ports := by unfold Slot.setX; split <;> rfl
@[simp] theorem Slot.setX_lease (x : Slot) (n : Nat) (v : Word) : (x.setX n v).lease = x.lease := by unfold Slot.setX; split <;> rfl
@[simp] theorem Slot.setX_leaseNew (x : Slot) (n : Nat) (v : Word) : (x.setX n v).leaseNew = x.leaseNew := by unfold Slot.setX; split <;> rfl
@[simp] theorem Slot.setX_scaleA (x : Slot) (n : Nat) (v : Word) : (x.setX n v).scaleA = x.scaleA := by unfold Slot.setX; split <;> rfl
@[simp] theorem Slot.setX_scaleB (x : Slot) (n : Nat) (v : Word) : (x.setX n v).scaleB = x.scaleB := by unfold Slot.setX; split <;> rfl
@[simp] theorem Slot.setX_batch (x : Slot) (n : Nat) (v : Word) : (x.setX n v).batch = x.batch := by unfold Slot.setX; split <;> rfl
@[simp] theorem Slot.setX_batches (x : Slot) (n : Nat) (v : Word) : (x.setX n v).batches = x.batches := by unfold Slot.setX; split <;> rfl
@[simp] theorem Slot.setX_openCmds (x : Slot) (n : Nat) (v : Word) : (x.setX n v).openCmds = x.openCmds := by unfold Slot.setX; split <;> rfl
@[simp] theorem Slot.setX_copySeq (x : Slot) (n : Nat) (v : Word) : (x.setX n v).copySeq = x.copySeq := by unfold Slot.setX; split <;> rfl
@[simp] theorem Slot.setX_tileSeq (x : Slot) (n : Nat) (v : Word) : (x.setX n v).tileSeq = x.tileSeq := by unfold Slot.setX; split <;> rfl
@[simp] theorem Slot.setX_probeSeq (x : Slot) (n : Nat) (v : Word) : (x.setX n v).probeSeq = x.probeSeq := by unfold Slot.setX; split <;> rfl
@[simp] theorem Slot.setX_unit (x : Slot) (n : Nat) (v : Word) : (x.setX n v).unit = x.unit := by unfold Slot.setX; split <;> rfl
@[simp] theorem Slot.setX_regBound (x : Slot) (n : Nat) (v : Word) : (x.setX n v).regBound = x.regBound := by unfold Slot.setX; split <;> rfl
@[simp] theorem Slot.setX_scratchBound (x : Slot) (n : Nat) (v : Word) : (x.setX n v).scratchBound = x.scratchBound := by unfold Slot.setX; split <;> rfl
@[simp] theorem Slot.setX_barrierBound (x : Slot) (n : Nat) (v : Word) : (x.setX n v).barrierBound = x.barrierBound := by unfold Slot.setX; split <;> rfl
@[simp] theorem Slot.setX_ringBound (x : Slot) (n : Nat) (v : Word) : (x.setX n v).ringBound = x.ringBound := by unfold Slot.setX; split <;> rfl
@[simp] theorem Slot.setX_stackBase (x : Slot) (n : Nat) (v : Word) : (x.setX n v).stackBase = x.stackBase := by unfold Slot.setX; split <;> rfl
@[simp] theorem Slot.setX_stackSize (x : Slot) (n : Nat) (v : Word) : (x.setX n v).stackSize = x.stackSize := by unfold Slot.setX; split <;> rfl
@[simp] theorem Slot.setX_pend (x : Slot) (n : Nat) (v : Word) : (x.setX n v).pend = x.pend := by unfold Slot.setX; split <;> rfl
@[simp] theorem Slot.setX_copied (x : Slot) (n : Nat) (v : Word) : (x.setX n v).copied = x.copied := by unfold Slot.setX; split <;> rfl
@[simp] theorem Slot.setX_dropSeq (x : Slot) (n : Nat) (v : Word) : (x.setX n v).dropSeq = x.dropSeq := by unfold Slot.setX; split <;> rfl
@[simp] theorem Slot.setX_dropFlag (x : Slot) (n : Nat) (v : Word) : (x.setX n v).dropFlag = x.dropFlag := by unfold Slot.setX; split <;> rfl
@[simp] theorem Slot.setX_dropPieces (x : Slot) (n : Nat) (v : Word) : (x.setX n v).dropPieces = x.dropPieces := by unfold Slot.setX; split <;> rfl
@[simp] theorem Slot.setX_dropFetch (x : Slot) (n : Nat) (v : Word) : (x.setX n v).dropFetch = x.dropFetch := by unfold Slot.setX; split <;> rfl
@[simp] theorem Slot.setX_reject (x : Slot) (n : Nat) (v : Word) : (x.setX n v).reject = x.reject := by unfold Slot.setX; split <;> rfl
@[simp] theorem Slot.setX_late (x : Slot) (n : Nat) (v : Word) : (x.setX n v).late = x.late := by unfold Slot.setX; split <;> rfl
@[simp] theorem Slot.setX_pending (x : Slot) (n : Nat) (v : Word) : (x.setX n v).pending = x.pending := by unfold Slot.setX; split <;> rfl
@[simp] theorem Slot.setX_blocks (x : Slot) (n : Nat) (v : Word) : (x.setX n v).blocks = x.blocks := by unfold Slot.setX; split <;> rfl
@[simp] theorem Slot.setX_releases (x : Slot) (n : Nat) (v : Word) : (x.setX n v).releases = x.releases := by unfold Slot.setX; split <;> rfl
@[simp] theorem Slot.setX_fenced (x : Slot) (n : Nat) (v : Word) : (x.setX n v).fenced = x.fenced := by unfold Slot.setX; split <;> rfl
@[simp] theorem Slot.setX_stores (x : Slot) (n : Nat) (v : Word) : (x.setX n v).stores = x.stores := by unfold Slot.setX; split <;> rfl
@[simp] theorem Slot.setX_views (x : Slot) (n : Nat) (v : Word) : (x.setX n v).views = x.views := by unfold Slot.setX; split <;> rfl
@[simp] theorem Slot.setX_yielded (x : Slot) (n : Nat) (v : Word) : (x.setX n v).yielded = x.yielded := by unfold Slot.setX; split <;> rfl
@[simp] theorem Slot.setX_stopAsked (x : Slot) (n : Nat) (v : Word) : (x.setX n v).stopAsked = x.stopAsked := by unfold Slot.setX; split <;> rfl
@[simp] theorem Slot.setX_cancelled (x : Slot) (n : Nat) (v : Word) : (x.setX n v).cancelled = x.cancelled := by unfold Slot.setX; split <;> rfl
@[simp] theorem Slot.setX_held (x : Slot) (n : Nat) (v : Word) : (x.setX n v).held = x.held := by unfold Slot.setX; split <;> rfl
@[simp] theorem Slot.flag_status (x : Slot) (n : Nat) : (x.flag n).status = x.status := rfl
@[simp] theorem Slot.flag_regs (x : Slot) (n : Nat) : (x.flag n).regs = x.regs := rfl
@[simp] theorem Slot.flag_pc (x : Slot) (n : Nat) : (x.flag n).pc = x.pc := rfl
@[simp] theorem Slot.flag_frm (x : Slot) (n : Nat) : (x.flag n).frm = x.frm := rfl
@[simp] theorem Slot.flag_tfrm (x : Slot) (n : Nat) : (x.flag n).tfrm = x.tfrm := rfl
@[simp] theorem Slot.flag_asid (x : Slot) (n : Nat) : (x.flag n).asid = x.asid := rfl
@[simp] theorem Slot.flag_tcause (x : Slot) (n : Nat) : (x.flag n).tcause = x.tcause := rfl
@[simp] theorem Slot.flag_tip (x : Slot) (n : Nat) : (x.flag n).tip = x.tip := rfl
@[simp] theorem Slot.flag_taddr (x : Slot) (n : Nat) : (x.flag n).taddr = x.taddr := rfl
@[simp] theorem Slot.flag_thand (x : Slot) (n : Nat) : (x.flag n).thand = x.thand := rfl
@[simp] theorem Slot.flag_tinfo (x : Slot) (n : Nat) : (x.flag n).tinfo = x.tinfo := rfl
@[simp] theorem Slot.flag_rasid (x : Slot) (n : Nat) : (x.flag n).rasid = x.rasid := rfl
@[simp] theorem Slot.flag_agsel (x : Slot) (n : Nat) : (x.flag n).agsel = x.agsel := rfl
@[simp] theorem Slot.flag_qsel (x : Slot) (n : Nat) : (x.flag n).qsel = x.qsel := rfl
@[simp] theorem Slot.flag_rep (x : Slot) (n : Nat) : (x.flag n).rep = x.rep := rfl
@[simp] theorem Slot.flag_tvec (x : Slot) (n : Nat) : (x.flag n).tvec = x.tvec := rfl
@[simp] theorem Slot.flag_ld (x : Slot) (n : Nat) : (x.flag n).ld = x.ld := rfl
@[simp] theorem Slot.flag_st (x : Slot) (n : Nat) : (x.flag n).st = x.st := rfl
@[simp] theorem Slot.flag_cp (x : Slot) (n : Nat) : (x.flag n).cp = x.cp := rfl
@[simp] theorem Slot.flag_tb (x : Slot) (n : Nat) : (x.flag n).tb = x.tb := rfl
@[simp] theorem Slot.flag_ports (x : Slot) (n : Nat) : (x.flag n).ports = x.ports := rfl
@[simp] theorem Slot.flag_lease (x : Slot) (n : Nat) : (x.flag n).lease = x.lease := rfl
@[simp] theorem Slot.flag_leaseNew (x : Slot) (n : Nat) : (x.flag n).leaseNew = x.leaseNew := rfl
@[simp] theorem Slot.flag_scaleA (x : Slot) (n : Nat) : (x.flag n).scaleA = x.scaleA := rfl
@[simp] theorem Slot.flag_scaleB (x : Slot) (n : Nat) : (x.flag n).scaleB = x.scaleB := rfl
@[simp] theorem Slot.flag_batch (x : Slot) (n : Nat) : (x.flag n).batch = x.batch := rfl
@[simp] theorem Slot.flag_batches (x : Slot) (n : Nat) : (x.flag n).batches = x.batches := rfl
@[simp] theorem Slot.flag_openCmds (x : Slot) (n : Nat) : (x.flag n).openCmds = x.openCmds := rfl
@[simp] theorem Slot.flag_copySeq (x : Slot) (n : Nat) : (x.flag n).copySeq = x.copySeq := rfl
@[simp] theorem Slot.flag_tileSeq (x : Slot) (n : Nat) : (x.flag n).tileSeq = x.tileSeq := rfl
@[simp] theorem Slot.flag_probeSeq (x : Slot) (n : Nat) : (x.flag n).probeSeq = x.probeSeq := rfl
@[simp] theorem Slot.flag_unit (x : Slot) (n : Nat) : (x.flag n).unit = x.unit := rfl
@[simp] theorem Slot.flag_regBound (x : Slot) (n : Nat) : (x.flag n).regBound = x.regBound := rfl
@[simp] theorem Slot.flag_scratchBound (x : Slot) (n : Nat) : (x.flag n).scratchBound = x.scratchBound := rfl
@[simp] theorem Slot.flag_barrierBound (x : Slot) (n : Nat) : (x.flag n).barrierBound = x.barrierBound := rfl
@[simp] theorem Slot.flag_ringBound (x : Slot) (n : Nat) : (x.flag n).ringBound = x.ringBound := rfl
@[simp] theorem Slot.flag_stackBase (x : Slot) (n : Nat) : (x.flag n).stackBase = x.stackBase := rfl
@[simp] theorem Slot.flag_stackSize (x : Slot) (n : Nat) : (x.flag n).stackSize = x.stackSize := rfl
@[simp] theorem Slot.flag_pend (x : Slot) (n : Nat) : (x.flag n).pend = x.pend := rfl
@[simp] theorem Slot.flag_copied (x : Slot) (n : Nat) : (x.flag n).copied = x.copied := rfl
@[simp] theorem Slot.flag_dropSeq (x : Slot) (n : Nat) : (x.flag n).dropSeq = x.dropSeq := rfl
@[simp] theorem Slot.flag_dropFlag (x : Slot) (n : Nat) : (x.flag n).dropFlag = x.dropFlag := rfl
@[simp] theorem Slot.flag_dropPieces (x : Slot) (n : Nat) : (x.flag n).dropPieces = x.dropPieces := rfl
@[simp] theorem Slot.flag_dropFetch (x : Slot) (n : Nat) : (x.flag n).dropFetch = x.dropFetch := rfl
@[simp] theorem Slot.flag_reject (x : Slot) (n : Nat) : (x.flag n).reject = x.reject := rfl
@[simp] theorem Slot.flag_late (x : Slot) (n : Nat) : (x.flag n).late = x.late := rfl
@[simp] theorem Slot.flag_pending (x : Slot) (n : Nat) : (x.flag n).pending = x.pending := rfl
@[simp] theorem Slot.flag_blocks (x : Slot) (n : Nat) : (x.flag n).blocks = x.blocks := rfl
@[simp] theorem Slot.flag_releases (x : Slot) (n : Nat) : (x.flag n).releases = x.releases := rfl
@[simp] theorem Slot.flag_fenced (x : Slot) (n : Nat) : (x.flag n).fenced = x.fenced := rfl
@[simp] theorem Slot.flag_outstanding (x : Slot) (n : Nat) : (x.flag n).outstanding = x.outstanding := rfl
@[simp] theorem Slot.flag_stores (x : Slot) (n : Nat) : (x.flag n).stores = x.stores := rfl
@[simp] theorem Slot.flag_views (x : Slot) (n : Nat) : (x.flag n).views = x.views := rfl
@[simp] theorem Slot.flag_yielded (x : Slot) (n : Nat) : (x.flag n).yielded = x.yielded := rfl
@[simp] theorem Slot.flag_stopAsked (x : Slot) (n : Nat) : (x.flag n).stopAsked = x.stopAsked := rfl
@[simp] theorem Slot.flag_cancelled (x : Slot) (n : Nat) : (x.flag n).cancelled = x.cancelled := rfl
@[simp] theorem Slot.flag_held (x : Slot) (n : Nat) : (x.flag n).held = x.held := rfl
@[simp] theorem Slot.complete_regs (x : Slot) : x.complete.regs = x.regs := rfl
@[simp] theorem Slot.complete_pc (x : Slot) : x.complete.pc = x.pc := rfl
@[simp] theorem Slot.complete_frm (x : Slot) : x.complete.frm = x.frm := rfl
@[simp] theorem Slot.complete_fflags (x : Slot) : x.complete.fflags = x.fflags := rfl
@[simp] theorem Slot.complete_tfrm (x : Slot) : x.complete.tfrm = x.tfrm := rfl
@[simp] theorem Slot.complete_asid (x : Slot) : x.complete.asid = x.asid := rfl
@[simp] theorem Slot.complete_tcause (x : Slot) : x.complete.tcause = x.tcause := rfl
@[simp] theorem Slot.complete_tip (x : Slot) : x.complete.tip = x.tip := rfl
@[simp] theorem Slot.complete_taddr (x : Slot) : x.complete.taddr = x.taddr := rfl
@[simp] theorem Slot.complete_thand (x : Slot) : x.complete.thand = x.thand := rfl
@[simp] theorem Slot.complete_tinfo (x : Slot) : x.complete.tinfo = x.tinfo := rfl
@[simp] theorem Slot.complete_rasid (x : Slot) : x.complete.rasid = x.rasid := rfl
@[simp] theorem Slot.complete_agsel (x : Slot) : x.complete.agsel = x.agsel := rfl
@[simp] theorem Slot.complete_qsel (x : Slot) : x.complete.qsel = x.qsel := rfl
@[simp] theorem Slot.complete_rep (x : Slot) : x.complete.rep = x.rep := rfl
@[simp] theorem Slot.complete_tvec (x : Slot) : x.complete.tvec = x.tvec := rfl
@[simp] theorem Slot.complete_ld (x : Slot) : x.complete.ld = x.ld := rfl
@[simp] theorem Slot.complete_st (x : Slot) : x.complete.st = x.st := rfl
@[simp] theorem Slot.complete_cp (x : Slot) : x.complete.cp = x.cp := rfl
@[simp] theorem Slot.complete_tb (x : Slot) : x.complete.tb = x.tb := rfl
@[simp] theorem Slot.complete_ports (x : Slot) : x.complete.ports = x.ports := rfl
@[simp] theorem Slot.complete_lease (x : Slot) : x.complete.lease = x.lease := rfl
@[simp] theorem Slot.complete_leaseNew (x : Slot) : x.complete.leaseNew = x.leaseNew := rfl
@[simp] theorem Slot.complete_scaleA (x : Slot) : x.complete.scaleA = x.scaleA := rfl
@[simp] theorem Slot.complete_scaleB (x : Slot) : x.complete.scaleB = x.scaleB := rfl
@[simp] theorem Slot.complete_batch (x : Slot) : x.complete.batch = x.batch := rfl
@[simp] theorem Slot.complete_batches (x : Slot) : x.complete.batches = x.batches := rfl
@[simp] theorem Slot.complete_openCmds (x : Slot) : x.complete.openCmds = x.openCmds := rfl
@[simp] theorem Slot.complete_copySeq (x : Slot) : x.complete.copySeq = x.copySeq := rfl
@[simp] theorem Slot.complete_tileSeq (x : Slot) : x.complete.tileSeq = x.tileSeq := rfl
@[simp] theorem Slot.complete_probeSeq (x : Slot) : x.complete.probeSeq = x.probeSeq := rfl
@[simp] theorem Slot.complete_unit (x : Slot) : x.complete.unit = x.unit := rfl
@[simp] theorem Slot.complete_regBound (x : Slot) : x.complete.regBound = x.regBound := rfl
@[simp] theorem Slot.complete_scratchBound (x : Slot) : x.complete.scratchBound = x.scratchBound := rfl
@[simp] theorem Slot.complete_barrierBound (x : Slot) : x.complete.barrierBound = x.barrierBound := rfl
@[simp] theorem Slot.complete_ringBound (x : Slot) : x.complete.ringBound = x.ringBound := rfl
@[simp] theorem Slot.complete_stackBase (x : Slot) : x.complete.stackBase = x.stackBase := rfl
@[simp] theorem Slot.complete_stackSize (x : Slot) : x.complete.stackSize = x.stackSize := rfl
@[simp] theorem Slot.complete_pend (x : Slot) : x.complete.pend = x.pend := rfl
@[simp] theorem Slot.complete_copied (x : Slot) : x.complete.copied = x.copied := rfl
@[simp] theorem Slot.complete_dropSeq (x : Slot) : x.complete.dropSeq = x.dropSeq := rfl
@[simp] theorem Slot.complete_dropFlag (x : Slot) : x.complete.dropFlag = x.dropFlag := rfl
@[simp] theorem Slot.complete_dropPieces (x : Slot) : x.complete.dropPieces = x.dropPieces := rfl
@[simp] theorem Slot.complete_dropFetch (x : Slot) : x.complete.dropFetch = x.dropFetch := rfl
@[simp] theorem Slot.complete_reject (x : Slot) : x.complete.reject = x.reject := rfl
@[simp] theorem Slot.complete_blocks (x : Slot) : x.complete.blocks = x.blocks := rfl
@[simp] theorem Slot.complete_releases (x : Slot) : x.complete.releases = x.releases := rfl
@[simp] theorem Slot.complete_fenced (x : Slot) : x.complete.fenced = x.fenced := rfl
@[simp] theorem Slot.complete_outstanding (x : Slot) : x.complete.outstanding = x.outstanding := rfl
@[simp] theorem Slot.complete_stores (x : Slot) : x.complete.stores = x.stores := rfl
@[simp] theorem Slot.complete_views (x : Slot) : x.complete.views = x.views := rfl
@[simp] theorem Slot.complete_yielded (x : Slot) : x.complete.yielded = x.yielded := rfl
@[simp] theorem Slot.complete_cancelled (x : Slot) : x.complete.cancelled = x.cancelled := rfl
@[simp] theorem Slot.complete_held (x : Slot) : x.complete.held = x.held := rfl
@[simp] theorem Slot.advance_status (x : Slot) (n : Nat) : (x.advance n).status = x.status := by unfold Slot.advance; simp only; repeat (first | rfl | split)
@[simp] theorem Slot.advance_regs (x : Slot) (n : Nat) : (x.advance n).regs = x.regs := by unfold Slot.advance; simp only; repeat (first | rfl | split)
@[simp] theorem Slot.advance_frm (x : Slot) (n : Nat) : (x.advance n).frm = x.frm := by unfold Slot.advance; simp only; repeat (first | rfl | split)
@[simp] theorem Slot.advance_fflags (x : Slot) (n : Nat) : (x.advance n).fflags = x.fflags := by unfold Slot.advance; simp only; repeat (first | rfl | split)
@[simp] theorem Slot.advance_tfrm (x : Slot) (n : Nat) : (x.advance n).tfrm = x.tfrm := by unfold Slot.advance; simp only; repeat (first | rfl | split)
@[simp] theorem Slot.advance_asid (x : Slot) (n : Nat) : (x.advance n).asid = x.asid := by unfold Slot.advance; simp only; repeat (first | rfl | split)
@[simp] theorem Slot.advance_tcause (x : Slot) (n : Nat) : (x.advance n).tcause = x.tcause := by unfold Slot.advance; simp only; repeat (first | rfl | split)
@[simp] theorem Slot.advance_tip (x : Slot) (n : Nat) : (x.advance n).tip = x.tip := by unfold Slot.advance; simp only; repeat (first | rfl | split)
@[simp] theorem Slot.advance_taddr (x : Slot) (n : Nat) : (x.advance n).taddr = x.taddr := by unfold Slot.advance; simp only; repeat (first | rfl | split)
@[simp] theorem Slot.advance_thand (x : Slot) (n : Nat) : (x.advance n).thand = x.thand := by unfold Slot.advance; simp only; repeat (first | rfl | split)
@[simp] theorem Slot.advance_tinfo (x : Slot) (n : Nat) : (x.advance n).tinfo = x.tinfo := by unfold Slot.advance; simp only; repeat (first | rfl | split)
@[simp] theorem Slot.advance_rasid (x : Slot) (n : Nat) : (x.advance n).rasid = x.rasid := by unfold Slot.advance; simp only; repeat (first | rfl | split)
@[simp] theorem Slot.advance_agsel (x : Slot) (n : Nat) : (x.advance n).agsel = x.agsel := by unfold Slot.advance; simp only; repeat (first | rfl | split)
@[simp] theorem Slot.advance_qsel (x : Slot) (n : Nat) : (x.advance n).qsel = x.qsel := by unfold Slot.advance; simp only; repeat (first | rfl | split)
@[simp] theorem Slot.advance_tvec (x : Slot) (n : Nat) : (x.advance n).tvec = x.tvec := by unfold Slot.advance; simp only; repeat (first | rfl | split)
@[simp] theorem Slot.advance_ld (x : Slot) (n : Nat) : (x.advance n).ld = x.ld := by unfold Slot.advance; simp only; repeat (first | rfl | split)
@[simp] theorem Slot.advance_st (x : Slot) (n : Nat) : (x.advance n).st = x.st := by unfold Slot.advance; simp only; repeat (first | rfl | split)
@[simp] theorem Slot.advance_cp (x : Slot) (n : Nat) : (x.advance n).cp = x.cp := by unfold Slot.advance; simp only; repeat (first | rfl | split)
@[simp] theorem Slot.advance_tb (x : Slot) (n : Nat) : (x.advance n).tb = x.tb := by unfold Slot.advance; simp only; repeat (first | rfl | split)
@[simp] theorem Slot.advance_ports (x : Slot) (n : Nat) : (x.advance n).ports = x.ports := by unfold Slot.advance; simp only; repeat (first | rfl | split)
@[simp] theorem Slot.advance_lease (x : Slot) (n : Nat) : (x.advance n).lease = x.lease := by unfold Slot.advance; simp only; repeat (first | rfl | split)
@[simp] theorem Slot.advance_leaseNew (x : Slot) (n : Nat) : (x.advance n).leaseNew = x.leaseNew := by unfold Slot.advance; simp only; repeat (first | rfl | split)
@[simp] theorem Slot.advance_scaleA (x : Slot) (n : Nat) : (x.advance n).scaleA = x.scaleA := by unfold Slot.advance; simp only; repeat (first | rfl | split)
@[simp] theorem Slot.advance_scaleB (x : Slot) (n : Nat) : (x.advance n).scaleB = x.scaleB := by unfold Slot.advance; simp only; repeat (first | rfl | split)
@[simp] theorem Slot.advance_batch (x : Slot) (n : Nat) : (x.advance n).batch = x.batch := by unfold Slot.advance; simp only; repeat (first | rfl | split)
@[simp] theorem Slot.advance_batches (x : Slot) (n : Nat) : (x.advance n).batches = x.batches := by unfold Slot.advance; simp only; repeat (first | rfl | split)
@[simp] theorem Slot.advance_openCmds (x : Slot) (n : Nat) : (x.advance n).openCmds = x.openCmds := by unfold Slot.advance; simp only; repeat (first | rfl | split)
@[simp] theorem Slot.advance_copySeq (x : Slot) (n : Nat) : (x.advance n).copySeq = x.copySeq := by unfold Slot.advance; simp only; repeat (first | rfl | split)
@[simp] theorem Slot.advance_tileSeq (x : Slot) (n : Nat) : (x.advance n).tileSeq = x.tileSeq := by unfold Slot.advance; simp only; repeat (first | rfl | split)
@[simp] theorem Slot.advance_probeSeq (x : Slot) (n : Nat) : (x.advance n).probeSeq = x.probeSeq := by unfold Slot.advance; simp only; repeat (first | rfl | split)
@[simp] theorem Slot.advance_unit (x : Slot) (n : Nat) : (x.advance n).unit = x.unit := by unfold Slot.advance; simp only; repeat (first | rfl | split)
@[simp] theorem Slot.advance_regBound (x : Slot) (n : Nat) : (x.advance n).regBound = x.regBound := by unfold Slot.advance; simp only; repeat (first | rfl | split)
@[simp] theorem Slot.advance_scratchBound (x : Slot) (n : Nat) : (x.advance n).scratchBound = x.scratchBound := by unfold Slot.advance; simp only; repeat (first | rfl | split)
@[simp] theorem Slot.advance_barrierBound (x : Slot) (n : Nat) : (x.advance n).barrierBound = x.barrierBound := by unfold Slot.advance; simp only; repeat (first | rfl | split)
@[simp] theorem Slot.advance_ringBound (x : Slot) (n : Nat) : (x.advance n).ringBound = x.ringBound := by unfold Slot.advance; simp only; repeat (first | rfl | split)
@[simp] theorem Slot.advance_stackBase (x : Slot) (n : Nat) : (x.advance n).stackBase = x.stackBase := by unfold Slot.advance; simp only; repeat (first | rfl | split)
@[simp] theorem Slot.advance_stackSize (x : Slot) (n : Nat) : (x.advance n).stackSize = x.stackSize := by unfold Slot.advance; simp only; repeat (first | rfl | split)
@[simp] theorem Slot.advance_pend (x : Slot) (n : Nat) : (x.advance n).pend = x.pend := by unfold Slot.advance; simp only; repeat (first | rfl | split)
@[simp] theorem Slot.advance_copied (x : Slot) (n : Nat) : (x.advance n).copied = x.copied := by unfold Slot.advance; simp only; repeat (first | rfl | split)
@[simp] theorem Slot.advance_dropSeq (x : Slot) (n : Nat) : (x.advance n).dropSeq = x.dropSeq := by unfold Slot.advance; simp only; repeat (first | rfl | split)
@[simp] theorem Slot.advance_dropFlag (x : Slot) (n : Nat) : (x.advance n).dropFlag = x.dropFlag := by unfold Slot.advance; simp only; repeat (first | rfl | split)
@[simp] theorem Slot.advance_dropPieces (x : Slot) (n : Nat) : (x.advance n).dropPieces = x.dropPieces := by unfold Slot.advance; simp only; repeat (first | rfl | split)
@[simp] theorem Slot.advance_dropFetch (x : Slot) (n : Nat) : (x.advance n).dropFetch = x.dropFetch := by unfold Slot.advance; simp only; repeat (first | rfl | split)
@[simp] theorem Slot.advance_reject (x : Slot) (n : Nat) : (x.advance n).reject = x.reject := by unfold Slot.advance; simp only; repeat (first | rfl | split)
@[simp] theorem Slot.advance_late (x : Slot) (n : Nat) : (x.advance n).late = x.late := by unfold Slot.advance; simp only; repeat (first | rfl | split)
@[simp] theorem Slot.advance_pending (x : Slot) (n : Nat) : (x.advance n).pending = x.pending := by unfold Slot.advance; simp only; repeat (first | rfl | split)
@[simp] theorem Slot.advance_blocks (x : Slot) (n : Nat) : (x.advance n).blocks = x.blocks := by unfold Slot.advance; simp only; repeat (first | rfl | split)
@[simp] theorem Slot.advance_releases (x : Slot) (n : Nat) : (x.advance n).releases = x.releases := by unfold Slot.advance; simp only; repeat (first | rfl | split)
@[simp] theorem Slot.advance_fenced (x : Slot) (n : Nat) : (x.advance n).fenced = x.fenced := by unfold Slot.advance; simp only; repeat (first | rfl | split)
@[simp] theorem Slot.advance_outstanding (x : Slot) (n : Nat) : (x.advance n).outstanding = x.outstanding := by unfold Slot.advance; simp only; repeat (first | rfl | split)
@[simp] theorem Slot.advance_stores (x : Slot) (n : Nat) : (x.advance n).stores = x.stores := by unfold Slot.advance; simp only; repeat (first | rfl | split)
@[simp] theorem Slot.advance_views (x : Slot) (n : Nat) : (x.advance n).views = x.views := by unfold Slot.advance; simp only; repeat (first | rfl | split)
@[simp] theorem Slot.advance_yielded (x : Slot) (n : Nat) : (x.advance n).yielded = x.yielded := by unfold Slot.advance; simp only; repeat (first | rfl | split)
@[simp] theorem Slot.advance_stopAsked (x : Slot) (n : Nat) : (x.advance n).stopAsked = x.stopAsked := by unfold Slot.advance; simp only; repeat (first | rfl | split)
@[simp] theorem Slot.advance_cancelled (x : Slot) (n : Nat) : (x.advance n).cancelled = x.cancelled := by unfold Slot.advance; simp only; repeat (first | rfl | split)
@[simp] theorem Slot.advance_held (x : Slot) (n : Nat) : (x.advance n).held = x.held := by unfold Slot.advance; simp only; repeat (first | rfl | split)

end Sys2Proof.Machine
end

