-- ==== Sys2Proof/Tests/Slice0.lean ====
section
/-! SUPPORT. The author's own tests: terms that are refused, words written out from R40 to R63, one step of some
instructions and events, and for each statement with hypotheses a state and operands that meet them. -/

set_option Elab.async false

namespace Sys2Proof.Tests

open Sys2Proof Sys2Proof.Machine

/-! ## Well-formedness (R50 to R63) -/

/-- A statement that evaluates to true. -/
theorem holds {p : Prop} [Decidable p] (h : decide p = true) : p := of_decide_eq_true h

/-- Registers 51 to 55 and 64, code fields and groups outside their limits. -/
theorem test_wf_refuses_register_51 : Instr.wf (.add 1 2 51) = false := by decide
theorem test_wf_refuses_register_64 : Instr.wf (.mov 64 2) = false := by decide
theorem test_wf_refuses_wide_addi : Instr.wf (.addi 1 2 (2 ^ 39)) = false := by decide
theorem test_wf_refuses_wide_immediate_with_page_and_reg : Instr.wf (.ldS .i64 20 2 (2 ^ 21)) = false := by decide
theorem test_wf_refuses_wide_li : Instr.wf (.li 1 (2 ^ 43)) = false := by decide
theorem test_wf_refuses_always_with_register : Instr.wf (.bcc .al 1 0) = false := by decide
theorem test_wf_refuses_wide_call : Instr.wf (.call (-(2 ^ 47) - 1)) = false := by decide
theorem test_wf_refuses_negative_unsigned : Instr.wf (.divn 1 2 (.imm (-1))) = false := by decide
theorem test_wf_refuses_wide_multiplier : Instr.wf (.mul 1 2 (.imm (2 ^ 30))) = false := by decide
theorem test_wf_refuses_shift_64 : Instr.wf (.shr 1 2 (.imm 64)) = false := by decide
theorem test_wf_refuses_empty_field : Instr.wf (.bext 1 2 (.imm 0 0)) = false := by decide
theorem test_wf_refuses_lea_5 : Instr.wf (.lea 1 2 3 5) = false := by decide
theorem test_wf_refuses_layout_16 : Instr.wf (.hdrSet 16 1 2) = false := by decide
theorem test_wf_refuses_pack_group_41 : Instr.wf (.hdrPack 1 41 0) = false := by decide
theorem test_wf_refuses_field_8 : Instr.wf (.hdrGet 1 2 0 8) = false := by decide
theorem test_wf_refuses_body_9 : Instr.wf (.rpt 9 .unbounded) = false := by decide
theorem test_wf_refuses_e8_source : Instr.wf (.cvtFI .frm .i32 .e8 1 2) = false := by decide
theorem test_wf_refuses_pack_to_fp32 : Instr.wf (.cvtPk .fp32 1 2 3) = false := by decide
theorem test_wf_refuses_dot_of_t8 : Instr.wf (.fdot2 .t8 1 2 3) = false := by decide
theorem test_wf_refuses_group_46 : Instr.wf (.ldQ 46 2 0) = false := by decide
theorem test_wf_refuses_group_of_eight_48 : Instr.wf (.stO 48 2 0) = false := by decide
theorem test_wf_refuses_no_return_with_d : Instr.wf (.amoAdd .i64 true 1 2 3) = false := by decide
theorem test_wf_refuses_append_group_41 : Instr.wf (.append .b64 1 2 41) = false := by decide
theorem test_wf_refuses_shadow_die_4 : Instr.wf (.pf (.shadow 4) 1 2) = false := by decide
theorem test_wf_refuses_qbind_59 : Instr.wf (.qbind .input 59 1) = false := by decide
theorem test_wf_refuses_token_0 : Instr.wf (.qtok 60 0) = false := by decide
theorem test_wf_refuses_peek_55 : Instr.wf (.qpeek 1 55) = false := by decide
theorem test_wf_refuses_vector_level_4 : Instr.wf (.tvec 56 4 1) = false := by decide
theorem test_wf_refuses_limit_16 : Instr.wf (.waitc 0 16 0 0) = false := by decide
theorem test_wf_refuses_barrier_64 : Instr.wf (.barArv 64) = false := by decide
theorem test_wf_refuses_wide_fork : Instr.wf (.fork (2 ^ 38)) = false := by decide
theorem test_wf_refuses_row_64 : Instr.wf (.vadd 64 0 0) = false := by decide
theorem test_wf_refuses_lease_weight_9 : Instr.wf (.lease .any 1 9) = false := by decide
theorem test_wf_refuses_bank_4 : Instr.wf (.lease (.bank 4) 1 1) = false := by decide
theorem test_wf_refuses_ring_8 : Instr.wf (.ringCfg 8 1 2) = false := by decide
theorem test_wf_refuses_room_16 : Instr.wf (.ringRoom 1 0 16) = false := by decide
theorem test_wf_refuses_scaled_fp16 : Instr.wf (.tmma .fp16 true 1 0 1) = false := by decide
theorem test_wf_refuses_hamming_of_t8 : Instr.wf (.tdist .t8 false .ham 1 0 1) = false := by decide
theorem test_wf_refuses_block_scaled_bf16 : Instr.wf (.qsax .bf16 false true 1 2) = false := by decide
theorem test_wf_refuses_2d_group_47 : Instr.wf (.copy true 1 2 47) = false := by decide
theorem test_wf_refuses_gbind_60 : Instr.wf (.gbind 60 1) = false := by decide
theorem test_wf_refuses_gref_from_59 : Instr.wf (.gref false false 59 60 1) = false := by decide
theorem test_wf_refuses_csr_4096 : Instr.wf (.csrr 1 4096) = false := by decide
theorem test_wf_refuses_trap_65536 : Instr.wf (.trap 65536) = false := by decide
theorem test_wf_refuses_events : Instr.wf .placementDecision = false := by decide
theorem test_wf_takes_the_last_of_each_limit : (Instr.wf (.add 50 56 63) && Instr.wf (.ldQ 44 2 (-8)) && Instr.wf (.ldO 40 2 7) &&
    Instr.wf (.append .b64 1 2 40) && Instr.wf (.hdrPack 1 40 15) && Instr.wf (.shr 1 2 (.imm 63)) && Instr.wf (.csrr 1 4095) &&
    Instr.wf (.bext 1 2 (.imm 63 64)) && Instr.wf (.addi 1 2 (2 ^ 38))) = true := by decide

/-! ## Words written out from the tables of R42, R53 to R63

PAGE is 0xF400 + page × 64 + fn × 8 + m, REG 0xF200 + dh × 128 + ah × 32 + bh × 8 + mod2, IMM 0xF000 + payload. -/

/-- R48's and R56's own examples: li x3, 12; addi x3, x3, -1; b.ne x3 back by one; addi x5, x5, -1000. -/
theorem test_words_of_R56 : (decode [0x730C]).toOption = some (.li 3 12, 1) ∧ (decode [0x633F]).toOption = some (.addi 3 3 (-1), 1) ∧
    (decode [0xA13F]).toOption = some (.bcc .ne 3 (-1), 1) ∧ (decode [0x0000]).toOption = some (.add 0 0 0, 1) ∧ (decode [0xE007]).toOption = some (.nop, 1) := by decide +kernel
theorem test_word_addi_negative : (decode [0xF1C1, 0x6558]).toOption = some (.addi 5 5 (-1000), 2) := by decide +kernel
/-- bext: page 1, k = 20 (2.4), m = 1; 12 bits (16 - 1) × 64 + 8 = 0x3C8. -/
theorem test_word_bext : decode [0xF461, 0xF03C, 0x2128] = .ok (.bext 1 2 (.imm 8 16), 3) := rfl
/-- rpt 3, 20: page 1, k = 32 (4.0), m = 2, d = 1, a:b = 20. -/
theorem test_word_rpt : decode [0xF442, 0x4114] = .ok (.rpt 3 (.imm 20), 2) := rfl
/-- cvt.fi.rz from .fp16 to .i32: page 2, k = 18 (2.2), m = 2, mod2 = 1, b = 2. -/
theorem test_word_cvt_fi : decode [0xF492, 0xF201, 0x2122] = .ok (.cvtFI .rz .i32 .fp16 1 2, 3) := rfl
/-- ld.q: page 3, k = 5 (0.5), d = 4, b = -1; amo.cas.n32: k = 20 (2.4), m[2:1] = 1; ld.acq.n16.dev: k = 7, m = 3, mod2 = 2. -/
theorem test_words_of_page_3 : decode [0xF4E8, 0x042F] = .ok (.ldQ 4 2 (-1), 2) ∧
    decode [0xF4E2, 0x2123] = .ok (.amoCas .n32 1 2 3, 2) ∧
    decode [0xF4FB, 0xF202, 0x0120] = .ok (.ldAcq .n16 .dev 1 2, 3) := ⟨rfl, rfl, rfl⟩
/-- waitc 15, 0, 1, 2: page 4, k = 8 (1.0), imm[15:12] = 2, [11:8] = 15, [7:4] = 0, [3:0] = 1; dusk.dev: k = 23 (2.7), m = 1. -/
theorem test_words_of_page_4 : decode [0xF500, 0xF002, 0x1F01] = .ok (.waitc 15 0 1 2, 3) ∧
    decode [0xF539, 0x2120] = .ok (.dusk .dev 1 2, 2) := ⟨rfl, rfl⟩
/-- vcmp.lt: page 5, k = 8 (1.0), m = 2; vred.max: k = 16 (2.0), m = 2; vbcast row 40: dh = 2. -/
theorem test_words_of_page_5 : decode [0xF542, 0x1567] = .ok (.vcmp .lt 5 6 7, 2) ∧ decode [0xF542, 0x2560] = .ok (.vred .max 5 6, 2) ∧
    decode [0xF548, 0xF300, 0x2830] = .ok (.vbcast 40 3, 3) := ⟨rfl, rfl, rfl⟩
/-- tdist.t8.s.ip: page 6, k = 9 (1.1), m = 2, mod2 = 5; qsax.i8.col.blk32: k = 14 (1.6), m = 2, mod2 = 3; lease.any: m = 4. -/
theorem test_words_of_page_6 : decode [0xF58A, 0xF205, 0x1312] = .ok (.tdist .t8 true .ip 3 1 2, 3) ∧
    decode [0xF5B2, 0xF203, 0x1023] = .ok (.qsax .i8 true true 2 3, 3) ∧ decode [0xF584, 0x0108] = .ok (.lease .any 1 8, 2) := ⟨rfl, rfl, rfl⟩
/-- trap 300: page 7, k = 4 (0.4), IMM 1, a:b = 0x2C; slot.ctl.kill: k = 9 (1.1), m = 2. -/
theorem test_words_of_page_7 : decode [0xF5E0, 0xF001, 0x002C] = .ok (.trap 300, 3) ∧
    decode [0xF5CA, 0x1020] = .ok (.slotCtl .kill 2, 2) := ⟨rfl, rfl⟩
/-- R51 and R65: an unused field that is not zero is subcode 0, an unused modifier subcode 1, a register 51 subcode 2. -/
theorem test_words_refused : (decode [0xF5CB, 0x1020]).toOption = none ∧ (decode [0xE017]).toOption = none ∧
    (decode [0xF201, 0x0123]).toOption = none ∧ (decode [0xF318, 0x0123]).toOption = none := by decide
/-- The words of an encoded instruction with every kind of prefix. -/
theorem test_encode : encode (.ldS .i32 20 2 100) = [0xF4C4, 0xF280, 0xF006, 0x0424] := by decide

/-! ## States for the tests and witnesses -/

/-- A unit of launch 1. -/
def unit0 : UnitInfo := { launch := 1, stage := 0, uid := 7, root := 7, parent := none, kind := .stage }

/-- A module that is ready, where slot 0 of core 0 holds a unit of launch 1 of job 1. -/
def base : State :=
  { State.reset with
    ready := true
    slots := [(0, { status := .running, pc := 64, asid := 1, unit := some unit0 })]
    launches := [(1, { job := 1, asid := 1, placed := true, count := 1, cores := [0] })]
    jobs := [(1, { asid := 1, port := 0 })]
    nextId := 100 }

/-- The same with registers of the slot. -/
def withRegs (rs : List (Nat × Word)) (s : State := base) : State := s.modMe fun sl => rs.foldl (fun x r => x.setX r.1 r.2) sl

/-- Executing an instruction gives a next state of which `p` holds. -/
def gives (i : Instr) (s : State) (p : State → Bool) : Bool := match exec i s with | .next t => p t | _ => false

/-- Registers 2 to 4 hold 6, 7 and 8. -/
def three : State := withRegs [(2, 6), (3, 7), (4, 8)]

/-- Ports 60 and 61 of the slot pop queue 9, which holds 5 and 6, and push queue 10, which is empty. -/
def queued : State :=
  { base.modMe fun sl => (sl.setPort 60 (.pop 9 0)).setPort 61 (.push 10 1) with
    queues := [(9, { launch := 1, entry := 0, ring := false, core := 0, slotNo := 0, depth := 8,
                     elems := [{ data := 5, tag := 0 }, { data := 6, tag := 0 }] }),
               (10, { launch := 1, entry := 1, ring := false, core := 0, slotNo := 1, depth := 8 })] }

/-- The test of `Ready`. -/
def readyB (s : State) (reads : List Nat) (write : Option Nat) (vs : List Word) (extra : List Nat := []) : Bool :=
  (reads ++ write.toList).all (fun n => !decide (51 ≤ n ∧ n ≤ 55)) && (reads ++ write.toList ++ extra).all s.me.declared &&
  reads.all s.me.mayRead && write.toList.all (fun d => s.me.mayWrite d && (!isPort d || s.portRoom s.cur d)) &&
  (s.valuesFrom reads [] == some vs)

theorem ready_of {s : State} {reads : List Nat} {write : Option Nat} {vs : List Word} {extra : List Nat}
    (h : readyB s reads write vs extra = true) : s.Ready reads write vs extra := by
  simp only [readyB, Bool.and_eq_true, beq_iff_eq, List.all_eq_true, Bool.or_eq_true, Bool.not_eq_true', decide_eq_false_iff_not] at h
  obtain ⟨⟨⟨⟨h1, h2⟩, h3⟩, h4⟩, h5⟩ := h
  refine ⟨h1, h2, h3, fun d hd => ?_, h5⟩
  have := h4 d (by simpa using hd)
  refine ⟨this.1, fun hp => ?_⟩
  rcases this.2 with h | h
  · rw [h] at hp; cases hp
  · exact h

/-- A result that is not an error is some pair. -/
theorem pair_of {ε α β : Type} {x : Except ε (α × β)} (h : x.toOption.isSome = true) : ∃ a b, x = .ok (a, b) := by
  cases x with
  | error e => cases h
  | ok p => exact ⟨p.1, p.2, rfl⟩

/-- A result that is not an error. -/
theorem value_of {ε α : Type} {x : Except ε α} (h : x.toOption.isSome = true) : ∃ a, x = .ok a := by
  cases x with
  | error e => cases h
  | ok a => exact ⟨a, rfl⟩

/-- An option that is not none. -/
theorem some_of {α : Type} {x : Option α} (h : x.isSome = true) : ∃ a, x = some a := Option.isSome_iff_exists.mp h

/-- The trap that a result is. -/
def trapOf {α : Type} : Except Stop α → Option Trap
  | .error (.trap t) => some t
  | _ => none
theorem trap_of {α : Type} {x : Except Stop α} {t : Trap} (h : trapOf x = some t) : x = .error (.trap t) := by
  rcases x with e | a
  · cases e <;> simp_all [trapOf]
  · cases h

theorem noPorts_of {rs : List Nat} (h : rs.all (fun n => !isPort n) = true) : NoPorts rs := by
  simpa [NoPorts, List.all_eq_true] using h

/-! ## Witnesses: encodings and computing instructions -/

theorem witness_DecodeReadsBackEveryEncoding : (Instr.ldS .i32 50 63 (2 ^ 20)).wf = true ∧
    encode (.ldS .i32 50 63 (2 ^ 20)) ≠ [] := by decide
theorem witness_DecodedInstructionsAreWellFormed : ∃ ws i n, decode ws = .ok (i, n) := ⟨[0x0123], .add 1 2 3, 1, rfl⟩
theorem witness_IntegerResultsOfR114 : three.Ready [2, 3] (some 50) [6, 7] ∧ queued.Ready [60, 60] (some 61) [5, 6] ∧
    three.Ready [4] (some 0) [8] ∧ three.Ready [] (some 1) [] ∧ three.Ready [4, 2, 3] (some 4) [8, 6, 7] ∧ isPort 4 = false :=
  ⟨ready_of (by decide +kernel), ready_of (by decide +kernel), ready_of (by decide +kernel), ready_of (by decide +kernel),
    ready_of (by decide +kernel), rfl⟩
theorem witness_ProductsQuotientsAndShifts : (withRegs [(2, 0x8000000000000000), (3, 0xFFFFFFFFFFFFFFFF)]).Ready [2, 3] (some 1)
    [0x8000000000000000, 0xFFFFFFFFFFFFFFFF] ∧ three.Ready [2, 0] (some 1) [6, 0] ∧ (0 : Nat) < 64 ∧ three.Ready [4] (some 1) [8] :=
  ⟨ready_of (by decide +kernel), ready_of (by decide +kernel), by decide, ready_of (by decide +kernel)⟩
theorem witness_BitFieldsLayoutsAndIdentity : three.Ready [2, 3] (some 1) [6, 7] ∧ three.Ready [4, 2] (some 4) [8, 6] ∧
    (∀ f < 8, layoutFieldOk (0x1000100010001000, 0x0001000100010001) f = true) ∧
    (∃ f < 8, layoutFieldOk (0x1001, 0) f = false) ∧
    three.Ready [1, 2, 3, 4, 5, 6, 7, 8] (some 1) [0, 6, 7, 8, 0, 0, 0, 0] ∧ three.cur < 12288 :=
  ⟨ready_of (by decide +kernel), ready_of (by decide +kernel), by decide +kernel, by decide +kernel, ready_of (by decide +kernel),
    by decide⟩
theorem witness_FloatArithmetic : (withRegs [(2, 0x3F800000), (3, 0x7F800000)]).Ready [2, 3] (some 1) [0x3F800000, 0x7F800000] ∧
    (withRegs [(2, 0x3F800000), (3, 0x7F800000)]).Ready [1, 2, 3] (some 1) [0, 0x3F800000, 0x7F800000] :=
  ⟨ready_of (by decide +kernel), ready_of (by decide +kernel)⟩
theorem witness_FloatConversions : (withRegs [(2, 0x3C003C00), (3, 0x40004000)]).Ready [1, 2, 3] (some 1) [0, 0x3C003C00, 0x40004000] ∧
    three.Ready [2] (some 50) [6] ∧ three.Ready [2, 3] (some 1) [6, 7] :=
  ⟨ready_of (by decide +kernel), ready_of (by decide +kernel), ready_of (by decide +kernel)⟩
theorem witness_ComputingInstructionsChangeOnlyTheirDestination :
    Instr.computes (.fma 4 2 3) = some ([4, 2, 3], 4, true) ∧ three.Ready [4, 2, 3] (some 4) [8, 6, 7] ∧
    Instr.computes (.add 61 60 60) = some ([60, 60], 61, false) ∧ queued.Ready [60, 60] (some 61) [5, 6] :=
  ⟨rfl, ready_of (by decide +kernel), rfl, ready_of (by decide +kernel)⟩

/-! ## Witnesses: ports, operand faults, repeats and control transfer -/

/-- Port 61 pushes ring queue 10. -/
def ringed : State := { queued with queues := Tab.set queued.queues 10 { launch := 1, entry := 1, ring := true, core := 192, slotNo := 1, depth := 8 } }
/-- Local queue 9 with these elements. -/
def queueOf (l : List Elem) : Queue := { launch := 1, entry := 0, ring := false, core := 0, slotNo := 0, depth := 8, elems := l }
/-- A token of level 3 stands at the head of port 60. -/
def tokened : State :=
  { queued with queues := Tab.set queued.queues 9 (queueOf
    [{ data := 0, tag := 3 }, { data := 6, tag := 0 }]) }
theorem witness_RegistersAndDestinations : queued.me.port 61 = .push 10 1 ∧ isPort 61 = true ∧
    (∃ x, Tab.get? queued.queues 10 = some x ∧ x.ring = false) ∧ ringed.me.port 61 = .push 10 1 ∧
    (∃ x, Tab.get? ringed.queues 10 = some x ∧ x.ring = true) ∧ isPort 50 = false :=
  ⟨by decide +kernel, rfl, ⟨_, rfl, rfl⟩, by decide +kernel, ⟨_, rfl, rfl⟩, rfl⟩
theorem witness_PortReadsAndTokens : queued.me.port 60 = .pop 9 0 ∧ queued.me.unit = some unit0 ∧
    (∃ x, Tab.get? queued.queues 9 = some x ∧ queued.segmented x = false ∧ x.elems = [{ data := 5, tag := 0 }, { data := 6, tag := 0 }]) ∧
    tokened.me.port 60 = .pop 9 0 ∧
    (∃ x, Tab.get? tokened.queues 9 = some x ∧ tokened.segmented x = false ∧ x.elems = [{ data := 0, tag := 3 }, { data := 6, tag := 0 }]) ∧
    (∀ n ∈ [60, 3, 1], ¬(51 ≤ n ∧ n ≤ 55) ∧ tokened.me.declared n = true) ∧ tokened.me.mayRead 3 = true ∧ tokened.me.mayWrite 1 = true ∧
    tokened.me.vector 60 3 = 0 ∧ (tokened.modMe (·.setVector 60 3 128)).me.vector 60 3 ≠ 0 :=
  ⟨by decide +kernel, rfl, ⟨queueOf [{ data := 5, tag := 0 }, { data := 6, tag := 0 }], by decide +kernel, by decide +kernel, rfl⟩, by decide +kernel, ⟨queueOf [{ data := 0, tag := 3 }, { data := 6, tag := 0 }], by decide +kernel, by decide +kernel, rfl⟩, by decide +kernel,
    by decide +kernel, by decide +kernel, by decide +kernel, by decide +kernel⟩
/-- Port 60 has generator 3 of the core, which has loaded these elements ahead; its last one is to come after them. -/
def genned (l : List (Elem × Option (Nat × Word × Nat))) : State :=
  { base.modMe (·.setPort 60 (.gen 3)) with cores := [(0, { gens := [(3, { id := 1, slot := 0, uid := 7, port := 60, base := 0, count := [1], stride := [8], size := 8, signExt := false, mask := 1, next := 1, ahead := l, acc := pageAccessor 0 1 })] })] }
/-- A token of level 3 stands second in the queue of port 60. -/
def tokenSecond : State := { queued with queues := Tab.set queued.queues 9 (queueOf [{ data := 6, tag := 0 }, { data := 0, tag := 3 }]) }
theorem witness_PortReadsAndTokens_second : Instr.computes (.add 1 60 60) = some ([60, 60], 1, false) ∧ tokenSecond.Fields [60, 60] 1 ∧
    isPort 60 = true ∧ tokenSecond.valuesFrom [60] [] = some [6] ∧ tokenSecond.headAt tokenSecond.cur 60 1 = .elem { data := 0, tag := 3 } :=
  ⟨rfl, ⟨by decide +kernel, by decide +kernel, by decide +kernel, by decide +kernel⟩, rfl, by decide +kernel, by decide +kernel⟩
theorem witness_PortReadsAndTokens_generator : Instr.computes (.fma 1 2 60) = some ([1, 2, 60], 1, true) ∧
    (genned [({ data := 0, tag := 1 }, none)]).Fields [1, 2, 60] 1 ∧ (genned [({ data := 0, tag := 1 }, none)]).valuesFrom [1, 2] [] = some [0, 0] ∧
    (genned [({ data := 0, tag := 1 }, none)]).headAt 0 60 0 = .elem { data := 0, tag := 1 } ∧ (genned []).me.port 60 = .gen 3 ∧
    (genned []).headAt 0 60 0 = .closed ∧ (genned [({ data := 0, tag := 0 }, some (0x06, 8, 1))]).headAt 0 60 0 = .fault 0x06 8 1 ∧
    (genned []).Fields [60] 1 :=
  ⟨rfl, ⟨by decide +kernel, by decide +kernel, by decide +kernel, by decide +kernel⟩, by decide +kernel, by decide +kernel, by decide +kernel,
    by decide +kernel, by decide +kernel, ⟨by decide +kernel, by decide +kernel, by decide +kernel, by decide +kernel⟩⟩
theorem witness_OperandFaultsAndWaits : (∃ n ∈ [1, 55, 2], 51 ≤ n ∧ n ≤ 55) ∧ base.me.mayRead 60 = false ∧ queued.me.mayRead 61 = false ∧
    queued.me.mayWrite 60 = false ∧ (base.modMe fun x => { x with regBound := 16 }).me.declared 16 = false ∧
    (queued.modQueue 9 fun x => { x with elems := [] }).headAt 0 60 0 = .empty ∧ queued.me.mayRead 60 = true ∧
    (queued.modQueue 10 fun x => { x with depth := 0 }).valuesFrom [60, 60] [] = some [5, 6] ∧
    (queued.modQueue 10 fun x => { x with depth := 0 }).portRoom 0 61 = false ∧ queued.me.stopAsked = false := by
  decide +kernel

/-- The slot runs a repeat of one instruction of two bytes at 64. -/
def repeating (remaining : Word) (unbounded : Bool) : State :=
  base.modMe fun x => { x with rep := some { start := 64, stop := 66, len := 1, remaining := remaining, unbounded := unbounded, mode := 0, body := [] } }
/-- The slot holds the fetch block at 64, in which these bytes stand at 66. -/
def fetching (bs : List Byte) : State := three.modMe fun x => { x with blocks := [{ va := 64, bytes := [0, 0] ++ bs ++ List.replicate 60 0 }] }
/-- The word of add x1, x2, x3. -/
def adding : State := fetching [0x23, 0x01]
theorem witness_ProgramCounterAndRepeats :
    (repeating 1 false).me.pc + word (repeating 1 false).ilen = 66 ∧ (repeating 2 false).me.rep ≠ none ∧ (repeating 0 true).me.rep ≠ none ∧
    (∃ b e, adding.bodyFrom 0 1 (adding.me.pc + word adding.ilen) = .ok (b, e)) ∧ adding.Ready [2] none [6] ∧
    adding.Ready [0] none [0] ∧ word 1 ≠ 0 :=
  ⟨by decide +kernel, by decide +kernel, by decide +kernel, pair_of (by decide +kernel), ready_of (by decide +kernel),
    ready_of (by decide +kernel), by decide⟩
theorem witness_ProgramCounterAndRepeats_refused : (fetching [0x06, 0xE0]).bodyFrom 0 1 66 =
    .error (.trap { cause := 0x01, taddr := 66, tinfo := 3 }) := trap_of (by decide +kernel)
theorem witness_ControlTransfer : three.Ready [2] none [6] ∧ three.Ready [0] none [0] ∧ (6 : Word).getLsbD 0 = false ∧
    (7 : Word).getLsbD 0 = true ∧ three.Ready [3] none [7] ∧ (base.me.x 48).getLsbD 0 = false ∧
    ((withRegs [(48, 1)]).me.x 48).getLsbD 0 = true ∧ base.me.unit = some unit0 :=
  ⟨ready_of (by decide +kernel), ready_of (by decide +kernel), by decide, by decide, ready_of (by decide +kernel), by decide +kernel,
    by decide +kernel, rfl⟩

/-! ## Witnesses: memory -/

theorem witness_MemoryReadAfterWrite : (3 : Nat) ≠ 2 ∧ ([(4, 1), (2, 5)].map (·.1) : List Nat).Nodup ∧ (0 : Nat) < 0 + 1 := by decide
theorem witness_ValuesOfLoadsAndAtomics : (2 ^ 32 - 1 : Nat) < 2 ^ 32 ∧ (0 : Nat) < 2 ^ 32 ∧ (BitVec.ofNat 32 (2 ^ 32 - 1)).slt 0 = true ∧
    (2 ^ 32 - 1 : Nat) = (0xFFFFFFFF : Word).toNat % 2 ^ 32 ∧ (0 : Nat) ≠ (0xFFFFFFFF : Word).toNat % 2 ^ 32 ∧ (2 ^ 64 - 1 : Nat) < 2 ^ 64 := by
  decide
/-- Register 2 holds the address of the last 64 bytes of the declared scratchpad, registers 3 and 4 the numbers 0 and 2^64 - 1. -/
def atEnd : State := withRegs [(2, 0xE00000000003FFC0), (3, 0), (4, 0xFFFFFFFFFFFFFFFF)]
/-- The test of `ReadsNow`, with the place where the bytes have to come from. -/
def readsNow (s : State) (a : Word) (n align : Nat) : Bool :=
  match s.check (s.accessor s.cur) a n align .load with
  | .ok (cs, es) => (s.me.fenced == []) &&
    match (s.installAll s.myCore es).readAtOnce s.myCore .cached (piecesOf cs) with
    | .ok (some _) => true
    | _ => false
  | .error _ => false
theorem readsNow_of {s : State} {a : Word} {n align : Nat} (h : readsNow s a n align = true) : ∃ bs t, s.ReadsNow s a n align bs t := by
  unfold readsNow at h
  split at h
  · next cs es hc =>
    simp only [Bool.and_eq_true, beq_iff_eq] at h
    obtain ⟨h1, h2⟩ := h
    split at h2
    · next p hp => exact ⟨p.1, p.2, cs, es, hc, h1, hp⟩
    · cases h2
  · cases h
theorem witness_LoadsComplete : (∀ r ∈ [[2], [2, 3]], atEnd.popAll r = atEnd) ∧
    (atEnd.Ready [2] (some 1) [0xE00000000003FFC0] ∧ ∃ bs t, atEnd.ReadsNow atEnd (0xE00000000003FFC0 + BitVec.ofInt 64 (8 * 7)) 8 0 bs t) ∧
    (∃ bs t, atEnd.ReadsNow atEnd (0xE00000000003FFC0 + BitVec.ofInt 64 63) (sizeBytes .i8) 0 bs t) ∧
    (atEnd.Ready [2, 3] (some 1) [0xE00000000003FFC0, 0] ∧ ∃ bs t, atEnd.ReadsNow atEnd (0xE00000000003FFC0 + 0) (sizeBytes .i64) 0 bs t) ∧
    (atEnd.Ready [2] none [0xE00000000003FFC0] (List.map (44 + ·) [0, 1, 2, 3]) ∧
      ∃ bs t, atEnd.ReadsNow atEnd (0xE00000000003FFC0 + BitVec.ofInt 64 32) 32 0 bs t) ∧
    (atEnd.Ready [2] none [0xE00000000003FFC0] (List.map (40 + ·) [0, 1, 2, 3, 4, 5, 6, 7]) ∧
      ∃ bs t, atEnd.ReadsNow atEnd (0xE00000000003FFC0 + BitVec.ofInt 64 0) 64 0 bs t) ∧
    (∃ bs t, atEnd.ReadsNow atEnd 0xE00000000003FFC0 (sizeBytes .n32) (sizeBytes .n32) bs t) :=
  ⟨by decide +kernel, ⟨ready_of (by decide +kernel), readsNow_of (by decide +kernel)⟩, readsNow_of (by decide +kernel),
    ⟨ready_of (by decide +kernel), readsNow_of (by decide +kernel)⟩, ⟨ready_of (by decide +kernel), readsNow_of (by decide +kernel)⟩,
    ⟨ready_of (by decide +kernel), readsNow_of (by decide +kernel)⟩, readsNow_of (by decide +kernel)⟩
/-- A page of a class at 0x40000 and its key; register 2 holds the address, 3 the number 9. -/
def withPageOf (p : LeafParts) : State :=
  withRegs [(2, 0x40000), (3, 9)] (({ base with keys := [(1, List.replicate 64 1)] }.mapPage 1 0x40000 p 0 0).getD base)
/-- A load from the page has to wait for its home. -/
def readsLater (s : State) (a : Word) (n align : Nat) : Bool :=
  match s.check (s.accessor s.cur) a n align .load with
  | .ok (cs, es) =>
    match (s.installAll s.myCore es).readAtOnce s.myCore .cached (piecesOf cs) with
    | .ok none => true
    | _ => false
  | .error _ => false
theorem readsLater_of {s : State} {a : Word} {n align : Nat} (h : readsLater s a n align = true) :
    ∃ cs es, s.check (s.accessor s.cur) a n align .load = .ok (cs, es) ∧
      (s.installAll s.myCore es).readAtOnce s.myCore .cached (piecesOf cs) = .ok none := by
  unfold readsLater at h
  split at h
  · next cs es hc =>
    split at h
    · next hr => exact ⟨cs, es, hc, hr⟩
    · cases h
  · cases h
theorem witness_LoadsComplete_waiting :
    ((withPageOf {}).Ready [2] (some 50) [0x40000] ∧ (withPageOf {}).me.fenced = [] ∧ (withPageOf {}).popAll [2] = withPageOf {} ∧
      ∃ cs es, (withPageOf {}).check ((withPageOf {}).accessor (withPageOf {}).cur) (0x40000 + BitVec.ofInt 64 63) (sizeBytes .i64) 0 .load = .ok (cs, es) ∧
        ((withPageOf {}).installAll (withPageOf {}).myCore es).readAtOnce (withPageOf {}).myCore .cached (piecesOf cs) = .ok none) ∧
    (atEnd.Ready [2, 4] (some 1) [0xE00000000003FFC0, 0xFFFFFFFFFFFFFFFF] ∧ (0xFFFFFFFFFFFFFFFF : Word) = BitVec.allOnes 64 ∧
      atEnd.popAll [2, 4] = atEnd ∧ atEnd.holdsUnit 0 atEnd.me.launch = true ∧
      ∃ cs es, atEnd.check (atEnd.accessor atEnd.cur) 0xE00000000003FFC0 (sizeBytes .i64) (sizeBytes .i64) .load = .ok (cs, es)) ∧
    ((withRegs [(2, 0xE00000000003FFC0), (4, 767)]).Ready [2, 4] (some 1) [0xE00000000003FFC0, 767] ∧ (767 : Word).toNat ≤ 767) :=
  ⟨⟨ready_of (by decide +kernel), by decide +kernel, by decide +kernel, readsLater_of (by decide +kernel)⟩,
    ⟨ready_of (by decide +kernel), by decide, by decide +kernel, by decide +kernel, pair_of (by decide +kernel)⟩,
    ready_of (by decide +kernel), by decide⟩
/-- A store of these bytes passes its check and finds room. -/
def storeable (s : State) (reads : List Nat) (x : Word) (n align : Nat) (bs : List Byte) : Bool :=
  match s.check (s.accessor s.cur) x n align .store with
  | .ok (cs, es) => ((s.installAll s.myCore es).store s s.cur reads cs bs).toOption.isSome
  | .error _ => false
theorem storeable_iff {s : State} {reads : List Nat} {x : Word} {n align : Nat} {bs : List Byte} (h : storeable s reads x n align bs = true) :
    ∃ cs es t, s.check (s.accessor s.cur) x n align .store = .ok (cs, es) ∧ (s.installAll s.myCore es).store s s.cur reads cs bs = .ok t := by
  unfold storeable at h
  split at h
  · next cs es hc => obtain ⟨t, ht⟩ := value_of h; exact ⟨cs, es, t, hc, ht⟩
  · cases h
theorem witness_StoresComplete : (∀ r ∈ [[2], [2, 4], [2, 3, 4]], atEnd.popAll r = atEnd) ∧
    (atEnd.Ready [2, 4] none [0xE00000000003FFC0, 0xFFFFFFFFFFFFFFFF] ∧ ∃ cs es t,
      atEnd.check (atEnd.accessor atEnd.cur) (0xE00000000003FFC0 + BitVec.ofInt 64 (8 * 7)) 8 0 .store = .ok (cs, es) ∧
      (atEnd.installAll atEnd.myCore es).store atEnd atEnd.cur [2, 4] cs (bytesLe 8 (0xFFFFFFFFFFFFFFFF : Word).toNat) = .ok t) ∧
    (∃ cs es t, atEnd.check (atEnd.accessor atEnd.cur) (0xE00000000003FFC0 + BitVec.ofInt 64 63) (sizeBytes .n8) 0 .store = .ok (cs, es) ∧
      (atEnd.installAll atEnd.myCore es).store atEnd atEnd.cur [2, 4] cs (bytesLe (sizeBytes .n8) (0xFFFFFFFFFFFFFFFF : Word).toNat) = .ok t) ∧
    (atEnd.Ready [2, 3, 4] none [0xE00000000003FFC0, 0, 0xFFFFFFFFFFFFFFFF] ∧ ∃ cs es t,
      atEnd.check (atEnd.accessor atEnd.cur) (0xE00000000003FFC0 + 0) (sizeBytes .i16) 0 .store = .ok (cs, es) ∧
      (atEnd.installAll atEnd.myCore es).store atEnd atEnd.cur [2, 3, 4] cs (bytesLe (sizeBytes .i16) (0xFFFFFFFFFFFFFFFF : Word).toNat) = .ok t) ∧
    (atEnd.Ready [2] none [0xE00000000003FFC0] (List.map (44 + ·) [0, 1, 2, 3]) ∧ ∃ cs es t,
      atEnd.check (atEnd.accessor atEnd.cur) (0xE00000000003FFC0 + BitVec.ofInt 64 32) 32 0 .store = .ok (cs, es) ∧
      (atEnd.installAll atEnd.myCore es).store atEnd atEnd.cur [2] cs (([0, 1, 2, 3].map (44 + ·)).flatMap fun r => bytesLe 8 (atEnd.me.x r).toNat) = .ok t) ∧
    (atEnd.Ready [2] none [0xE00000000003FFC0] (List.map (40 + ·) [0, 1, 2, 3, 4, 5, 6, 7]) ∧ ∃ cs es t,
      atEnd.check (atEnd.accessor atEnd.cur) (0xE00000000003FFC0 + BitVec.ofInt 64 0) 64 0 .store = .ok (cs, es) ∧
      (atEnd.installAll atEnd.myCore es).store atEnd atEnd.cur [2] cs
        (([0, 1, 2, 3, 4, 5, 6, 7].map (40 + ·)).flatMap fun r => bytesLe 8 (atEnd.me.x r).toNat) = .ok t) :=
  ⟨by decide +kernel, ⟨ready_of (by decide +kernel), storeable_iff (by decide +kernel)⟩, storeable_iff (by decide +kernel),
    ⟨ready_of (by decide +kernel), storeable_iff (by decide +kernel)⟩, ⟨ready_of (by decide +kernel), storeable_iff (by decide +kernel)⟩,
    ⟨ready_of (by decide +kernel), storeable_iff (by decide +kernel)⟩⟩
theorem witness_StoresComplete_releasing : ∃ cs es t,
    atEnd.check (atEnd.accessor atEnd.cur) 0xE00000000003FFC0 (sizeBytes .i64) (sizeBytes .i64) .store = .ok (cs, es) ∧
    ((atEnd.installAll atEnd.myCore es).startRelease atEnd.cur .core false).store atEnd atEnd.cur [2, 4] cs
      (bytesLe (sizeBytes .i64) (0xFFFFFFFFFFFFFFFF : Word).toNat) = .ok t := by
  have h : (match atEnd.check (atEnd.accessor atEnd.cur) 0xE00000000003FFC0 (sizeBytes .i64) (sizeBytes .i64) .store with
    | .ok (cs, es) => (((atEnd.installAll atEnd.myCore es).startRelease atEnd.cur .core false).store atEnd atEnd.cur [2, 4] cs
        (bytesLe (sizeBytes .i64) (0xFFFFFFFFFFFFFFFF : Word).toNat)).toOption.isSome
    | .error _ => false) = true := by decide +kernel
  split at h
  · next cs es hc => obtain ⟨t, ht⟩ := value_of h; exact ⟨cs, es, t, hc, ht⟩
  · cases h
/-- A second unit of the launch runs on core 1; register 2 holds the address of the last bytes of that core's scratchpad. -/
def peered : State :=
  { withRegs [(2, 0xE10000000007FFC0), (3, 9), (4, 0xFFFFFFFFFFFFFFFF)] with
    slots := [(0, (withRegs [(2, 0xE10000000007FFC0), (3, 9), (4, 0xFFFFFFFFFFFFFFFF)]).me),
      (16, { status := .running, pc := 64, asid := 1, unit := some { unit0 with uid := 8 } })] }
theorem witness_StoresComplete_peer : peered.Ready [2, 4] none [0xE10000000007FFC0, 0xFFFFFFFFFFFFFFFF] ∧ peered.me.st < 65535 ∧
    (∀ r ∈ peered.me.stores, r.id ≠ peered.nextId) ∧
    ∃ cs es, (peered.popAll [2, 4]).check ((peered.popAll [2, 4]).accessor peered.cur) (0xE10000000007FFC0 + BitVec.ofInt 64 56) (sizeBytes .i64) 0 .store
      = .ok (cs, es) ∧ ∃ q ∈ piecesOf cs, q.inPeer peered.myCore = true := by
  refine ⟨ready_of (by decide +kernel), by decide +kernel, by decide +kernel, ?_⟩
  have h : (match (peered.popAll [2, 4]).check ((peered.popAll [2, 4]).accessor peered.cur) (0xE10000000007FFC0 + BitVec.ofInt 64 56) (sizeBytes .i64) 0 .store with
    | .ok (cs, _) => (piecesOf cs).any (·.inPeer peered.myCore)
    | .error _ => false) = true := by decide +kernel
  split at h
  · next cs es hc => exact ⟨cs, es, hc, by simpa using h⟩
  · cases h
theorem atEnd_unhindered : atEnd.Unhindered :=
  ⟨by decide +kernel, by decide +kernel, by decide +kernel, by decide +kernel, holds (by decide +kernel), by decide +kernel, by decide +kernel,
    by decide +kernel, by decide +kernel, holds (by decide +kernel)⟩
theorem atEnd_inScratch (n o : Nat) (h : n = 1 ∨ n = 2 ∨ n = 4 ∨ n = 8 ∨ n = 32 ∨ n = 64) (x : Word) (hx : x.toNat = 0xE0 * 2 ^ 56 + o)
    (ha : o % n = 0) (hi : o + n ≤ 262144) : atEnd.InScratch x n o :=
  ⟨by decide +kernel, .inl hx, h, ha, by have : atEnd.me.scratchBound = 262144 := (by decide +kernel); omega, by decide +kernel⟩
theorem witness_ScratchpadStoreAndLoad : atEnd.Ready [2, 4] none [0xE00000000003FFC0, 0xFFFFFFFFFFFFFFFF] ∧ atEnd.Unhindered ∧
    atEnd.InScratch (0xE00000000003FFC0 + BitVec.ofInt 64 56) (sizeBytes .i64) 0x3FFF8 ∧
    atEnd.InScratch (0xE00000000003FFC0 + BitVec.ofInt 64 63) (sizeBytes .n8) 0x3FFFF ∧ atEnd.InScratch 0xE00000000003FFC0 64 0x3FFC0 ∧
    atEnd.Ready [2] (some 50) [0xE00000000003FFC0] ∧ (∀ r ∈ atEnd.me.stores, r.id ≠ atEnd.nextId) :=
  ⟨ready_of (by decide +kernel), atEnd_unhindered, atEnd_inScratch _ _ (by decide) _ (by decide +kernel) (by decide) (by decide),
    atEnd_inScratch _ _ (by decide) _ (by decide +kernel) (by decide) (by decide),
    atEnd_inScratch _ _ (by decide) _ (by decide +kernel) (by decide) (by decide), ready_of (by decide +kernel), by decide +kernel⟩
/-- Register 2 holds the address `x`; the stage declares `bound` bytes of scratchpad and the unit `stack` bytes of stack. -/
def addressed (x : Word) (bound : Nat := 262144) (stack : Nat := 0) : State :=
  (withRegs [(2, x)]).modMe fun sl => { sl with scratchBound := bound, stackSize := stack }
/-- The test of the operands of an access through register 2, at this place of an aperture. -/
def accessB (i : Instr) (s : State) (v : List Word) (x : Word) (ap p : Nat) : Bool :=
  match i.accesses with
  | some m => readyB s m.reads m.write v m.extra && (x == m.address v) && (x.toNat / 2 ^ 56, x.toNat % 2 ^ 56) == (ap, p)
  | none => false
theorem access_of {i : Instr} {s : State} {v : List Word} {x : Word} {ap p : Nat} (h : accessB i s v x ap p = true) :
    ∃ m, i.accesses = some m ∧ s.Ready m.reads m.write v m.extra ∧ x = m.address v ∧ (x.toNat / 2 ^ 56, x.toNat % 2 ^ 56) = (ap, p) := by
  unfold accessB at h
  split at h
  · next m hm =>
    simp only [Bool.and_eq_true, beq_iff_eq] at h
    exact ⟨m, hm, ready_of h.1.1, h.1.2, h.2⟩
  · cases h
/-- The last address below an aperture, the first beyond the address space, beyond the scratchpads and the stack region. -/
theorem witness_AccessFaults : base.myCore < 768 ∧
    (∃ m, Instr.accesses (.ldO 4 2 0) = some m ∧ (addressed 0xDFFFFFFFFFFFFFFF).Ready m.reads m.write [0xDFFFFFFFFFFFFFFF] m.extra ∧
      (0xDFFFFFFFFFFFFFFF : Word) = m.address [0xDFFFFFFFFFFFFFFF] ∧ ((0xDFFFFFFFFFFFFFFF : Word).toNat / 2 ^ 56, (0xDFFFFFFFFFFFFFFF : Word).toNat % 2 ^ 56) = (0xDF, 2 ^ 56 - 1)) ∧
    (∃ m, Instr.accesses (.ldQ 4 2 0) = some m ∧ (addressed 0x0002000000000000).Ready m.reads m.write [0x0002000000000000] m.extra ∧
      (0x0002000000000000 : Word) = m.address [0x0002000000000000] ∧ ((0x0002000000000000 : Word).toNat / 2 ^ 56, (0x0002000000000000 : Word).toNat % 2 ^ 56) = (0, 2 ^ 49)) ∧
    (∃ m, Instr.accesses (.stRel .n8 .dev 1 2) = some m ∧ (addressed 0xE000000000040000).Ready m.reads m.write [0xE000000000040000, 0] m.extra ∧
      (0xE000000000040000 : Word) = m.address [0xE000000000040000, 0] ∧ ((0xE000000000040000 : Word).toNat / 2 ^ 56, (0xE000000000040000 : Word).toNat % 2 ^ 56) = (0xE0, 2 ^ 18)) ∧
    (∃ m, Instr.accesses (.st 1 2 0) = some m ∧ (addressed 0xE000000000000FF9 0x1000).Ready m.reads m.write [0xE000000000000FF9, 0] m.extra ∧
      (0xE000000000000FF9 : Word) = m.address [0xE000000000000FF9, 0] ∧ ((0xE000000000000FF9 : Word).toNat / 2 ^ 56, (0xE000000000000FF9 : Word).toNat % 2 ^ 56) = (0xE0, 0xFF9)) ∧
    (∃ m, Instr.accesses (.amoCas .i32 1 2 3) = some m ∧ (addressed 0xE00000000003FFFA).Ready m.reads m.write [0xE00000000003FFFA, 0, 0] m.extra ∧
      (0xE00000000003FFFA : Word) = m.address [0xE00000000003FFFA, 0, 0] ∧ ((0xE00000000003FFFA : Word).toNat / 2 ^ 56, (0xE00000000003FFFA : Word).toNat % 2 ^ 56) = (0xE0, 0x3FFFA)) ∧
    (addressed 0xE000000000000FF9 0x1000).me.scratchBound < 0xFF9 + 8 ∧ (addressed 0xE00000000003FFFA).me.scratchBound = 262144 :=
  ⟨by decide +kernel, access_of (by decide +kernel), access_of (by decide +kernel), access_of (by decide +kernel), access_of (by decide +kernel),
    access_of (by decide +kernel), by decide +kernel, by decide +kernel⟩
theorem witness_AccessFaults_windows :
    (∃ m, Instr.accesses (.ldx .i64 1 2 0) = some m ∧ (addressed 0xE100000000200000).Ready m.reads m.write [0xE100000000200000, 0] m.extra ∧
      (0xE100000000200000 : Word) = m.address [0xE100000000200000, 0] ∧ ((0xE100000000200000 : Word).toNat / 2 ^ 56, (0xE100000000200000 : Word).toNat % 2 ^ 56) = (0xE1, 8 * 2 ^ 18 + 0)) ∧
    (∃ m, Instr.accesses (.ldx .i64 1 2 0) = some m ∧ (addressed 0xE10000000000000F 0x10).Ready m.reads m.write [0xE10000000000000F, 0] m.extra ∧
      (0xE10000000000000F : Word) = m.address [0xE10000000000000F, 0] ∧ ((0xE10000000000000F : Word).toNat / 2 ^ 56, (0xE10000000000000F : Word).toNat % 2 ^ 56) = (0xE1, 0 * 2 ^ 18 + 0xF)) ∧
    (∃ m, Instr.accesses (.ldAcq .i16 .core 1 2) = some m ∧ (addressed 0xE1000000001C0001).Ready m.reads m.write [0xE1000000001C0001] m.extra ∧
      (0xE1000000001C0001 : Word) = m.address [0xE1000000001C0001] ∧ ((0xE1000000001C0001 : Word).toNat / 2 ^ 56, (0xE1000000001C0001 : Word).toNat % 2 ^ 56) = (0xE1, 7 * 2 ^ 18 + 1)) ∧
    (∃ m, Instr.accesses (.amoSwp .n64 true 0 2 3) = some m ∧ (addressed 0xE1000000001C0008).Ready m.reads m.write [0xE1000000001C0008, 0] m.extra ∧
      (0xE1000000001C0008 : Word) = m.address [0xE1000000001C0008, 0] ∧ ((0xE1000000001C0008 : Word).toNat / 2 ^ 56, (0xE1000000001C0008 : Word).toNat % 2 ^ 56) = (0xE1, 7 * 2 ^ 18 + 8)) ∧
    (base.myCore / 8 * 8 + 7 ≠ base.myCore ∧ ((addressed 0xE1000000001C0008).popAll [2, 3]).holdsUnit 7 base.me.launch = false) ∧
    (∃ m, Instr.accesses (.append .b32 1 2 4) = some m ∧ (addressed 0xE800000010000000).Ready m.reads m.write [0xE800000010000000] m.extra ∧
      (0xE800000010000000 : Word) = m.address [0xE800000010000000] ∧ ((0xE800000010000000 : Word).toNat / 2 ^ 56, (0xE800000010000000 : Word).toNat % 2 ^ 56) = (0xE8, 2 ^ 28)) ∧
    (∃ m, Instr.accesses (.stS .n8 1 2 0) = some m ∧ (addressed 0xE800000000010000 262144 0x10000).Ready m.reads m.write [0xE800000000010000, 0] m.extra ∧
      (0xE800000000010000 : Word) = m.address [0xE800000000010000, 0] ∧ ((0xE800000000010000 : Word).toNat / 2 ^ 56, (0xE800000000010000 : Word).toNat % 2 ^ 56) = (0xE8, 0x10000)) ∧
    (∃ m, Instr.accesses (.tail 1 2) = some m ∧ (addressed 0xF000400000000000).Ready m.reads m.write [0xF000400000000000] m.extra ∧
      (0xF000400000000000 : Word) = m.address [0xF000400000000000] ∧ ((0xF000400000000000 : Word).toNat / 2 ^ 56, (0xF000400000000000 : Word).toNat % 2 ^ 56) = (0xF0, 2 ^ 46)) ∧
    (∃ m, Instr.accesses (.ldO 4 2 0) = some m ∧ (addressed 0xF000300000000000).Ready m.reads m.write [0xF000300000000000] m.extra ∧
      (0xF000300000000000 : Word) = m.address [0xF000300000000000] ∧ ((0xF000300000000000 : Word).toNat / 2 ^ 56, (0xF000300000000000 : Word).toNat % 2 ^ 56) = (0xF0, 0x300000000000)) ∧
    (region 0x300000000000 ≠ .none ∧ (∀ o, region 0x300000000000 ≠ .device o) ∧ (∀ h, region 0x300000000000 ≠ .hostWindow h) ∧
      (addressed 0xF000300000000000).granted 1 0x300000000000 = 0) := by
  have h0 : region 0x300000000000 = .scratch 0 0 := by decide +kernel
  exact ⟨access_of (by decide +kernel), access_of (by decide +kernel), access_of (by decide +kernel), access_of (by decide +kernel),
    ⟨by decide +kernel, by decide +kernel⟩, access_of (by decide +kernel), access_of (by decide +kernel), access_of (by decide +kernel),
    access_of (by decide +kernel), by simp [h0], fun o => by simp [h0], fun o => by simp [h0], by decide +kernel⟩
theorem witness_AtomicsOnScratchpad : atEnd.Unhindered ∧ atEnd.InScratch 0xE00000000003FFC0 (atypeBytes .n32) 0x3FFC0 ∧
    atEnd.Ready [2, 4] (some 50) [0xE00000000003FFC0, 0xFFFFFFFFFFFFFFFF] ∧ atEnd.Ready [2, 4] none [0xE00000000003FFC0, 0xFFFFFFFFFFFFFFFF] ∧
    atEnd.Ready [2, 4, 3] (some 3) [0xE00000000003FFC0, 0xFFFFFFFFFFFFFFFF, 0] ∧ isPort 3 = false ∧
    numLe (atEnd.mem.read (0x300000000000 + atEnd.myCore * 2 ^ 20 + 0x3FFC0) 4) = (0 : Word).toNat % 2 ^ 32 :=
  ⟨atEnd_unhindered, atEnd_inScratch _ _ (by decide) _ (by decide +kernel) (by decide) (by decide), ready_of (by decide +kernel),
    ready_of (by decide +kernel), ready_of (by decide +kernel), rfl, by decide +kernel⟩

/-! ## Witnesses: ordering and caches, asynchronous loads, seals, queues, mailboxes, counters, barriers, tasks and levels -/

theorem getD_all {α : Type} {t : Tab α} {d : α} {p : α → Prop} (h : ∀ e ∈ t, p e.2) (hd : p d) (k : Nat) : p (Tab.getD t k d) := by
  unfold Tab.getD
  induction t with
  | nil => exact hd
  | cons e r ih =>
    obtain ⟨k', v⟩ := e
    unfold Tab.get?
    split
    · exact h _ (List.mem_cons_self ..)
    · exact ih fun e he => h e (List.mem_cons_of_mem _ he)
/-- No slot of the state has a release under way, and its core serves no promotion. -/
theorem calm_of {s : State} (c : Nat) (h : s.slots.all (fun e => e.2.releases == []) = true) (hp : (s.core c).promotions = []) : s.Calm c :=
  ⟨hp, fun g _ => getD_all (p := fun x : Slot => x.releases = []) (fun e he => by simpa using List.all_eq_true.mp h e he) rfl g⟩
/-- A fence of the slot has not completed. -/
def fenced : State := atEnd.modMe fun x => { x with fenced := [5] }
/-- Register 2 holds a virtual address, 3 a length of 2^30, 4 the number 0, 5 a length above 2^30 and 6 an address outside every aperture. -/
def ranged : State := withRegs [(2, 0x40000), (3, 2 ^ 30), (4, 0), (5, 2 ^ 30 + 1), (6, 0x0100000000000000)]
theorem witness_OrderingCacheAndHintInstructions :
    (base.Calm base.myCore ∧ (base.core base.myCore).wb = [] ∧ base.me.stores = [] ∧ base.me.outstanding = [] ∧ base.me.fenced = [] ∧
      (base.core base.myCore).log.length < Config.promotionLogEntries ∧ (base.core base.myCore).outside = false ∧
      (base.core base.myCore).draining.length < Config.drainingRounds) ∧
    (fenced.Ready [2] (some 1) [0xE00000000003FFC0] ∧ fenced.me.fenced ≠ [] ∧ fenced.me.stopAsked = false ∧
      fenced.InScratch (0xE00000000003FFC0 + BitVec.ofInt 64 0) (sizeBytes .i64) 0x3FFC0) ∧
    (∀ e ∈ (base.core base.myCore).wb, e.hold = []) ∧
    ranged.Ready [2, 4] none [0x40000, 0] ∧ ranged.Ready [2, 3] none [0x40000, 2 ^ 30] ∧ ranged.virtualOf 0x40000 = some 0x40000 ∧
    (2 ^ 30 : Word) ≠ 0 ∧ (2 ^ 30 : Word).toNat ≤ 2 ^ 30 ∧ ranged.Ready [2, 5] none [0x40000, 2 ^ 30 + 1] ∧ 2 ^ 30 < (2 ^ 30 + 1 : Word).toNat ∧
    (ranged.Ready [6, 3] none [0x0100000000000000, 2 ^ 30] ∧ ranged.virtualOf 0x0100000000000000 = none ∧
      aperture ranged.myCore 0x0100000000000000 = .unmapped) :=
  ⟨⟨calm_of _ (by decide +kernel) (by decide +kernel), by decide +kernel, by decide +kernel, by decide +kernel, by decide +kernel, holds (by decide +kernel),
      by decide +kernel, by decide +kernel⟩,
    ⟨ready_of (by decide +kernel), by decide +kernel, by decide +kernel, by decide +kernel, by decide +kernel, by decide, by decide, by decide +kernel,
      by decide +kernel⟩, by decide +kernel,
    ready_of (by decide +kernel), ready_of (by decide +kernel), by decide +kernel, by decide, by decide, ready_of (by decide +kernel), by decide,
    ready_of (by decide +kernel), by decide +kernel, by decide +kernel⟩

theorem atEnd_ready : atEnd.Ready [2] (some 1) [0xE00000000003FFC0] := ready_of (by decide +kernel)
/-- A seal-class page is mapped at 0x40000, whose address stands in register 2. -/
def sealMapped : State := withPageOf { cls := 1, w := true }
/-- A check that gives at least one piece. -/
def checks (s : State) (x : Word) (n align : Nat) (op : Op) : Bool :=
  match s.check (s.accessor s.cur) x n align op with
  | .ok (_ :: _, _) => true
  | _ => false
theorem checks_iff {s : State} {x : Word} {n align : Nat} {op : Op} (h : checks s x n align op = true) :
    ∃ c cs es, s.check (s.accessor s.cur) x n align op = .ok (c :: cs, es) := by
  unfold checks at h
  split at h
  · next c cs es hc => exact ⟨c, cs, es, hc⟩
  · cases h
theorem witness_AsynchronousAndSealInstructions : three.Ready [] (some 50) [] ∧ isPort 50 = false ∧ three.me.ld < 65535 ∧
    atEnd.Ready [2] (some 1) [0xE00000000003FFC0] ∧ atEnd.myCore < 768 ∧ 0x3FFC0 < 262144 ∧ atEnd.Unhindered ∧
    atEnd.InScratch (0xE00000000003FFC0 + BitVec.ofInt 64 62) (sizeBytes .n16) 0x3FFFE ∧
    (sealMapped.Ready [2] (some 1) [0x40000] (group 40 8) ∧ sealMapped.me.stopAsked = false ∧ sealMapped.popAll [2] = sealMapped ∧
      (∃ c cs es, sealMapped.check (sealMapped.accessor sealMapped.cur) 0x40000 (recBytes .b64) (recBytes .b64) .append = .ok (c :: cs, es)) ∧
      (∃ c cs es, sealMapped.check (sealMapped.accessor sealMapped.cur) 0x40000 8 8 .sealOp = .ok (c :: cs, es)) ∧
      (∃ c cs es, sealMapped.check (sealMapped.accessor sealMapped.cur) 0x40000 8 8 .tailOp = .ok (c :: cs, es)) ∧
      sealMapped.holdsFor sealMapped.cur = [] ∧ sealMapped.me.fenced = []) ∧
    [1, 2, 3, 4, 5, 6, 7, 8].length ∈ [8, 16, 32, 64] ∧ (sealMapped.sealAt 0x40000).sealed = false ∧
    ((sealMapped.sealAt 0x40000).tail + 64 - 1) / 64 * 64 + 64 ≤ (sealMapped.sealAt 0x40000).size ∧
    ({ sealMapped with seals := [(0x40000, { size := 65536, tail := 65528, sealed := false })] }.sealAt 0x40000).size < 65536 + 64 ∧
    ({ sealMapped with seals := [(0x40000, { size := 65536, sealed := true })] }.sealAt 0x40000).sealed = true :=
  ⟨ready_of (by decide +kernel), rfl, by decide +kernel, atEnd_ready, by decide, by decide, atEnd_unhindered,
    atEnd_inScratch _ _ (by decide) _ (by decide +kernel) (by decide) (by decide),
    ⟨ready_of (by decide +kernel), by decide +kernel, by decide +kernel, checks_iff (by decide +kernel), checks_iff (by decide +kernel),
      checks_iff (by decide +kernel), by decide +kernel, by decide +kernel⟩,
    by decide, by decide +kernel, by decide +kernel, by decide +kernel, by decide +kernel⟩

/-- The launch's kernel has a local queue 9 that nothing holds. -/
def bindable : State :=
  { (withRegs [(2, 0), (3, 1), (4, 2)]).modLaunch 1 fun l => { l with
      queueIds := [9], kernel := { queues := [{ depth := 8, ring := false, from_ := 0, fromPort := 60, to_ := 0, toPort := 61 }] } } with
    queues := [(9, queueOf [])] }
theorem witness_QueuePortInstructions :
    (bindable.Ready [2] none [0] ∧ (bindable.popAll [2]).bindRefused .output 60 0 = false ∧ bindable.Ready [3] none [1] ∧
      (bindable.popAll [3]).bindRefused .input 63 1 = true) ∧
    queued.me.port 60 = .pop 9 0 ∧
    (queued.me.port 61 = .push 10 1 ∧ queued.portRoom queued.cur 61 = true ∧ ∃ x, Tab.get? queued.queues 10 = some x ∧ x.ring = false) ∧
    (queued.Ready [] (some 1) [] ∧ queued.lookAt queued.cur 60 = some (some { data := 5, tag := 0 }, 2) ∧ (queued.me.port 60).pushes = false) ∧
    (bindable.Ready [4] none [2] ∧ (2 : Word).getLsbD 0 = false ∧ bindable.Ready [3] none [1] ∧ (1 : Word).getLsbD 0 = true) :=
  ⟨⟨ready_of (by decide +kernel), by decide +kernel, ready_of (by decide +kernel), by decide +kernel⟩, by decide +kernel,
    ⟨by decide +kernel, by decide +kernel, ⟨_, rfl, rfl⟩⟩, ⟨ready_of (by decide +kernel), by decide +kernel, by decide +kernel⟩,
    ⟨ready_of (by decide +kernel), by decide, ready_of (by decide +kernel), by decide⟩⟩

/-- A message for the launch from slot 33. -/
def letter : Mail := { core := 0, box := 15, body := List.replicate 64 3, sender := 33, tip := 0, launch := 1, fabric := none, op := none, dieFrom := 0 }
/-- Mailbox 15 of the core holds it; register 2 is the last 64 bytes of the scratchpad, 3 a mailbox of core 767, 4 a mask, 5 a core
that is not there. -/
def mailed : State := (withRegs [(2, 0xE00000000003FFC0), (3, 15 * 2 ^ 16 + 767), (4, 0x8000), (5, 768)]).modCore 0 fun c => { c with mail := [(15, letter)] }
/-- A load of 64 bytes passes its checks, and none of its bytes is lost. -/
def bodyPasses (s : State) (x : Word) (n align : Nat) : Bool :=
  match s.check (s.accessor s.cur) x n align .load with
  | .ok (cs, es) => ((s.installAll s.myCore es).lostPiece s.myCore s.cur (piecesOf cs)).isNone
  | .error _ => false
theorem bodyPasses_of {s : State} {x : Word} {n align : Nat} (h : bodyPasses s x n align = true) :
    ∃ cs es, s.check (s.accessor s.cur) x n align .load = .ok (cs, es) ∧ (s.installAll s.myCore es).lostPiece s.myCore s.cur (piecesOf cs) = none := by
  unfold bodyPasses at h
  split at h
  · next cs es hc => exact ⟨cs, es, hc, by simpa using h⟩
  · cases h
theorem witness_MailboxInstructions :
    (mailed.Ready [3, 2] none [15 * 2 ^ 16 + 767, 0xE00000000003FFC0] ∧ mailed.popAll [3, 2] = mailed ∧
      (∃ cs es, mailed.check (mailed.accessor mailed.cur) 0xE00000000003FFC0 64 0 .load = .ok (cs, es) ∧
        (mailed.installAll mailed.myCore es).lostPiece mailed.myCore mailed.cur (piecesOf cs) = none) ∧
      (15 * 2 ^ 16 + 767 : Word).toNat / 2 ^ 20 = 0 ∧ (15 * 2 ^ 16 + 767 : Word).toNat / 2 ^ 10 % 2 ^ 6 = 0 ∧
      (15 * 2 ^ 16 + 767 : Word).toNat % 2 ^ 10 < 768 ∧ mailed.me.st < 65535 ∧ (∀ r ∈ mailed.me.stores, r.id ≠ mailed.nextId) ∧
      mailed.Ready [5, 2] none [768, 0xE00000000003FFC0] ∧ 768 ≤ (768 : Word).toNat % 2 ^ 10) ∧
    (mailed.Ready [2, 4] (some 1) [0xE00000000003FFC0, 0x8000] ∧ (0x8000 : Word) ≠ 0 ∧ (0x8000 : Word).toNat < 2 ^ 16 ∧
      mailed.popAll [2, 4] = mailed ∧ mailed.mailFor mailed.cur (0x8000 : Word).toNat = some (15, letter) ∧
      ∃ cs es t, mailed.check (mailed.accessor mailed.cur) 0xE00000000003FFC0 64 0 .store = .ok (cs, es) ∧
        (mailed.installAll mailed.myCore es).storeNow mailed.cur cs (mailed.mem.read (mailboxPa mailed.myCore 15 0) 64) = .ok t) ∧
    (mailed.core mailed.myCore).waitMail = [] ∧ (mailed.modCore 0 fun c => { c with mail := [] }).mailFor 0 0x8000 = none ∧ mailed.me.stopAsked = false := by
  refine ⟨⟨ready_of (by decide +kernel), by decide +kernel, bodyPasses_of (by decide +kernel), by decide, by decide, by decide, by decide +kernel,
      by decide +kernel, ready_of (by decide +kernel), by decide⟩,
    ⟨ready_of (by decide +kernel), by decide, by decide, by decide +kernel, by decide +kernel, ?_⟩, by decide +kernel, by decide +kernel, by decide +kernel⟩
  have h : (match mailed.check (mailed.accessor mailed.cur) 0xE00000000003FFC0 64 0 .store with
    | .ok (cs, es) => ((mailed.installAll mailed.myCore es).storeNow mailed.cur cs (mailed.mem.read (mailboxPa mailed.myCore 15 0) 64)).toOption.isSome
    | .error _ => false) = true := by decide +kernel
  split at h
  · next cs es hc => obtain ⟨t, ht⟩ := value_of h; exact ⟨cs, es, t, hc, ht⟩
  · cases h
/-- The body of a message is being read, and its last 32 bytes come now. -/
def sending0 : Sending :=
  { id := 4, slot := 0, uid := 7, mail := some letter
    parts := [{ off := 0, a := 0x40000, pa := 0, n := 32, bytes := some (List.replicate 32 1) }, { off := 32, a := 0x40020, pa := 32, n := 32 }] }
def bodyReply : Reply := { slot := 0, uid := 7, id := 4, off := 32, bytes := List.replicate 32 2 }
def sending : State := { base with sendings := [sending0], replies := [bodyReply] }
/-- The test of `ReplyArrives`. -/
def replyArrivesB (s : State) (i : Nat) (r : Reply) : Bool :=
  (s.replies[i]? == some r) && (s.replies.take i).all (fun x => !samePath x.poa r.poa x.slot r.slot) &&
  s.acks.all (fun o => !samePath (some o.poa) r.poa o.slot r.slot || !sentBefore o.sent r.sent) &&
  s.crossed ((r.poa.bind dieOfPoa).getD (dieOf r.slot)) (dieOf r.slot) r.sent
theorem replyArrives_of {s : State} {i : Nat} {r : Reply} (h : replyArrivesB s i r = true) : s.ReplyArrives i r := by
  simp only [replyArrivesB, Bool.and_eq_true, beq_iff_eq, Bool.not_eq_true', List.all_eq_true, Bool.or_eq_true] at h
  obtain ⟨⟨⟨h1, h2⟩, h3⟩, h4⟩ := h
  exact ⟨h1, h2, fun o ho hs => (h3 o ho).resolve_left (by simp [hs]), h4⟩
theorem witness_MailboxInstructions_body : sending.ReplyArrives 0 bodyReply ∧
    sending.sendings.find? (fun x => x.id == bodyReply.id) = some sending0 ∧ sending0.mail = some letter ∧
    (∀ q ∈ sending0.parts, (q.off = bodyReply.off → q.bytes = none ∧ q.failed = none) ∧ (q.off ≠ bodyReply.off → q.answered = true)) ∧
    (∀ p, (sending.slot bodyReply.slot).pending = some p → p.id ≠ bodyReply.id) :=
  ⟨replyArrives_of (by decide +kernel), by decide +kernel, by decide +kernel, by decide +kernel, fun p h => by
    have h0 : (sending.slot bodyReply.slot).pending = none := by decide +kernel
    rw [h0] at h; cases h⟩

/-- The slot is a member of barrier 63, whose view it has. -/
def member (v : BarrierView) : State := base.modMe fun x => { x with views := [(63, v)] }
/-- An asynchronous error of a copy is pending. -/
def failedCopy : State := base.modMe fun x => { x with pend := [{ cause := 0x13, addr := 8, seq := 3, order := 1, batch := none }] }
theorem witness_CounterWaitsAndBarriers :
    base.me.reported (0 != 15) (limitOf 0) = none ∧ base.me.ld ≤ 0 ∧ base.me.st ≤ 0 ∧ base.me.cp ≤ 0 ∧ base.me.tb ≤ 0 ∧
    ((base.modMe fun x => { x with st := 15 }).me.reported (15 != 15) (limitOf 15) = none ∧ 14 < (base.modMe fun x => { x with st := 15 }).me.st) ∧
    (∃ e, failedCopy.me.reported (0 != 15) (limitOf 15) = some e) ∧
    (base.modMe fun x => { x with barrierBound := 0 }).me.barrierBound ≤ 0 ∧ 63 < base.me.barrierBound ∧ (base.me.view 63).member = false ∧
    base.me.stopAsked = false ∧
    ((member { member := true, p := 2, c := 0 }).me.view 63).member = true ∧
    ((member { member := true, p := 2, c := 0 }).me.view 63).p < ((member { member := true, p := 2, c := 0 }).me.view 63).c + 3 ∧
    ((member { member := true, p := 3, c := 0 }).me.view 63).c + 3 ≤ ((member { member := true, p := 3, c := 0 }).me.view 63).p ∧
    ((member { member := true, p := 1, c := 1, mark := true }).me.view 63).p ≤ ((member { member := true, p := 1, c := 1, mark := true }).me.view 63).c ∧
    ((member { member := true, p := 1, c := 1, mark := true }).me.view 63).mark = true := by
  refine ⟨by decide +kernel, by decide +kernel, by decide +kernel, by decide +kernel, holds (by decide +kernel), by decide +kernel,
    some_of (by decide +kernel), by decide +kernel, by decide +kernel, by decide +kernel, by decide +kernel, holds (by decide +kernel),
    by decide +kernel, by decide +kernel, by decide +kernel, by decide +kernel⟩

/-- The test of `LastReply`. -/
def lastReplyB (s : State) (i : Nat) (r : Reply) (p : Pending) : Bool :=
  replyArrivesB s i r && ((s.slot r.slot).late == none) && (r.failed == none) &&
  ((s.slot r.slot).uid == r.uid) && ((s.slot r.slot).status == .parked .own) && !(s.slot r.slot).stopAsked &&
  ((s.slot r.slot).pending == some p) && (p.id == r.id) && (p.left == 0) && (p.room == none) &&
  p.parts.all (fun q => (q.failed == none) && if q.off == r.off then q.bytes == none else q.bytes.isSome) &&
  (s.slot r.slot).outstanding.all (fun o => o.id != r.id) && s.sendings.all fun x => x.id != r.id
theorem lastReply_of {s : State} {i : Nat} {r : Reply} {p : Pending} (h : lastReplyB s i r p = true) : s.LastReply i r p := by
  simp only [lastReplyB, Bool.and_eq_true, beq_iff_eq, Bool.not_eq_true', List.all_eq_true, bne_iff_ne] at h
  obtain ⟨⟨⟨⟨⟨⟨⟨⟨⟨⟨⟨⟨h1, h2⟩, h3⟩, h4⟩, h5⟩, h6⟩, h7⟩, h8⟩, h9⟩, ha⟩, hb⟩, hc⟩, hd⟩ := h
  refine ⟨replyArrives_of h1, h2, h3, h4, h5, h6, h7, h8, h9, ha, fun q hq => ?_, hc, hd⟩
  have := hb q hq
  refine ⟨this.1, fun he => ?_, fun he => ?_⟩
  · simpa [he] using this.2
  · simpa [he] using this.2
/-- Slot 0 waits with its instruction, of four bytes, for the last `n` bytes of its access, and they are there. -/
def waitsFor (f : Finish) (n : Nat) : Pending :=
  { id := 4, len := 4, finish := f, parts := [{ off := 0, a := 0x40000, pa := 0, n := 8, bytes := some (List.replicate 8 1) }, { off := 8, a := 0x40008, pa := 8, n := n }] }
def answers (n : Nat) : Reply := { slot := 0, uid := 7, id := 4, off := 8, bytes := List.replicate n 2 }
def awaiting (f : Finish) (n : Nat) : State :=
  { base.modMe fun x => { x with status := .parked .own, pending := some (waitsFor f n) } with replies := [answers n] }
/-- The slot's unit has a child. -/
def parent : State := base.modMe fun x => { x with unit := some { unit0 with children := 1 } }
/-- Device queue 15 of die 0 is bound to the job. -/
def spawning : State :=
  { withRegs [(2, 0xE000000000000040), (3, 15)] with subQs := [(143, { enabled := true, job := 1, asid := 1 })] }
/-- spawn waits for the number of its entry, which its queue has. -/
def reserved (v : Word) : State :=
  { base.modMe fun x => { x with st := 1, stores := [{ id := 3, left := 1, peer := false }], status := .parked .own
                                 pending := some { id := 4, len := 4, finish := .spawned 15 50 3, parts := [{ off := 0, a := 0, pa := 0, n := 8 }] } } with
    replies := [{ slot := 0, uid := 7, id := 4, off := 0, bytes := bytesLe 8 v.toNat }]
    dies := [(0, { ({} : Die) with spawnQ := [(15, { entries := [(255, (false, List.replicate 64 1))], tail := 256 })] })] }
theorem witness_TaskInstructions : base.me.unit = some unit0 ∧ (base.launch 1).waitingForks < 65536 ∧ unit0.children = 0 ∧
    ((parent.modMe fun x => { x with st := 1 }).me.unit.map (·.children) = some 1 ∧
      (parent.modMe fun x => { x with st := 1, cp := 1 }).movable (parent.modMe fun x => { x with st := 1, cp := 1 }).me = false ∧
      (parent.modMe fun x => { x with st := 1 }).me.stopAsked = false) ∧
    (parent.me.unit.map (·.children) = some 1 ∧ parent.movable parent.me = true ∧ parent.me.fenced = []) ∧
    (spawning.Ready [2, 3] (some 50) [0xE000000000000040, 15] ∧ (0xE000000000000040 : Word).toNat % 64 = 0 ∧ (15 : Word).toNat < 16 ∧
      spawning.spawnAllowed (128 + 16 * dieOf spawning.cur + (15 : Word).toNat) = true ∧ spawning.me.st < 65535 ∧ spawning.popAll [2, 3] = spawning ∧
      ∃ bs t, spawning.ReadsNow spawning 0xE000000000000040 64 0 bs t ∧ t.me.st < 65535 ∧ ∀ o ∈ t.me.stores, o.id ≠ t.nextId) ∧
    (∃ r p, (reserved 255).LastReply 0 r p ∧ p.finish = .spawned 15 50 3 ∧ numLe (p.bytesWith r) % 2 ^ 64 ≠ 2 ^ 64 - 1) ∧
    (∃ r p, (reserved (BitVec.allOnes 64)).LastReply 0 r p ∧ p.finish = .spawned 15 50 3 ∧ numLe (p.bytesWith r) % 2 ^ 64 = 2 ^ 64 - 1 ∧
      ∃ o ∈ ((reserved (BitVec.allOnes 64)).slot r.slot).stores, o.id = 3) := by
  refine ⟨rfl, by decide +kernel, rfl, by decide +kernel, by decide +kernel,
    ⟨ready_of (by decide +kernel), by decide, by decide, by decide +kernel, by decide +kernel, by decide +kernel, ?_⟩,
    ⟨_, _, lastReply_of (r := { slot := 0, uid := 7, id := 4, off := 0, bytes := bytesLe 8 (255 : Word).toNat })
      (p := { id := 4, len := 4, finish := .spawned 15 50 3, parts := [{ off := 0, a := 0, pa := 0, n := 8 }] }) (by decide +kernel), rfl, by decide +kernel⟩,
    ⟨_, _, lastReply_of (r := { slot := 0, uid := 7, id := 4, off := 0, bytes := bytesLe 8 (BitVec.allOnes 64 : Word).toNat })
      (p := { id := 4, len := 4, finish := .spawned 15 50 3, parts := [{ off := 0, a := 0, pa := 0, n := 8 }] }) (by decide +kernel), rfl, by decide +kernel, by decide +kernel⟩⟩
  have h : (match spawning.check (spawning.accessor spawning.cur) 0xE000000000000040 64 0 .load with
    | .ok (cs, es) => (spawning.me.fenced == []) &&
      match (spawning.installAll spawning.myCore es).readAtOnce spawning.myCore .cached (piecesOf cs) with
      | .ok (some r) => decide (r.2.me.st < 65535) && r.2.me.stores.all fun o => o.id != r.2.nextId
      | _ => false
    | .error _ => false) = true := by decide +kernel
  split at h
  · next cs es hc =>
    simp only [Bool.and_eq_true, beq_iff_eq] at h
    obtain ⟨h1, h2⟩ := h
    split at h2
    · next p hp =>
      simp only [Bool.and_eq_true, decide_eq_true_eq, List.all_eq_true, bne_iff_ne] at h2
      exact ⟨p.1, p.2, ⟨cs, es, hc, h1, hp⟩, h2.1, h2.2⟩
    · cases h2
  · cases h
/-- A forked task that waits. -/
def waitingTask : Thread := { slot := { unit := some { unit0 with kind := .forked } }, core := 0 }
/-- The launch has as many waiting tasks as it may have. -/
def crowdedTasks : State := base.modLaunch 1 fun l => { l with tasks := List.replicate 65536 waitingTask }
theorem witness_TaskInstructions_full : crowdedTasks.me.unit = some unit0 ∧ 65536 ≤ (crowdedTasks.launch unit0.launch).waitingForks := by
  refine ⟨rfl, ?_⟩
  have h : (crowdedTasks.launch unit0.launch).tasks = List.replicate 65536 waitingTask := rfl
  have h2 (q : Thread → Bool) (hq : q waitingTask = true) : 65536 ≤ ((List.replicate 65536 waitingTask).filter q).length :=
    Nat.le_of_eq ((congrArg List.length (List.filter_replicate_of_pos hq)).trans List.length_replicate).symm
  rw [Launch.waitingForks, h]
  exact h2 _ rfl

/-- Register 2 names the slot's own object; 3, 4 and 5 hold 0, 1 and 2^32. -/
def levelled : State := withRegs [(2, 0xFFFFFFFFFFFFFFFF), (3, 0), (4, 1), (5, 2 ^ 32)]
/-- A forked task of the launch may start. -/
def yielding : State := base.modLaunch 1 fun l => { l with tasks := [{ slot := { regs := Vector.replicate 50 3, unit := some { unit0 with uid := 9 } }, core := 0 }] }
theorem witness_LevelAndSchedulingInstructions :
    (levelled.Ready [2] (some 1) [0xFFFFFFFFFFFFFFFF] ∧ (∃ k, levelled.seeLevel levelled.cur .launch 0xFFFFFFFFFFFFFFFF = some (some k)) ∧
      levelled.seeLevel levelled.cur .graph 1 = some none ∧ levelled.seeLevel levelled.cur .graph (2 ^ 32) = none) ∧
    (levelled.Ready [2, 4] none [0xFFFFFFFFFFFFFFFF, 1] ∧ levelled.Ready [2, 3] none [0xFFFFFFFFFFFFFFFF, 0] ∧
      levelled.seeLevel levelled.cur .launch 0xFFFFFFFFFFFFFFFF = some (some { count := 1, status := 0 })) ∧
    (levelled.levelKey (levelled.launch levelled.me.launch) levelled.me.launch .launch 0xFFFFFFFFFFFFFFFF = some (some 1) ∧
      levelled.levelKey (levelled.launch levelled.me.launch) levelled.me.launch .graph 1 = some none) ∧
    (levelled.taskFor 1 = none ∧ yielding.movable yielding.me = true ∧ (∃ x, yielding.taskFor 1 = some x) ∧ yielding.me.fenced = []) ∧
    (levelled.Ready [5] none [2 ^ 32] ∧ 7 < (2 ^ 32 : Word).toNat ∧ levelled.Ready [3] none [0] ∧
      levelled.myCore / 8 * 8 + (0 : Word).toNat = levelled.myCore ∧ levelled.Ready [4] none [1] ∧ (1 : Word).toNat ≤ 7 ∧ levelled.myCore < 768 ∧
      levelled.myCore / 8 * 8 + (1 : Word).toNat ≠ levelled.myCore ∧ (levelled.popAll [4]).movable (levelled.popAll [4]).me = true) ∧
    (levelled.Ready [4] (some 50) [1] ∧ (1 : Word).toNat ≤ 15) :=
  ⟨⟨ready_of (by decide +kernel), ⟨{ count := 1, status := 0 }, by decide +kernel⟩, by decide +kernel, by decide +kernel⟩,
    ⟨ready_of (by decide +kernel), ready_of (by decide +kernel), by decide +kernel⟩, ⟨by decide +kernel, by decide +kernel⟩,
    ⟨by decide +kernel, by decide +kernel, some_of (by decide +kernel), by decide +kernel⟩,
    ⟨ready_of (by decide +kernel), by decide, ready_of (by decide +kernel), by decide, ready_of (by decide +kernel), by decide, by decide +kernel, by decide,
      by decide +kernel⟩, ready_of (by decide +kernel), by decide⟩

/-! ## Witnesses: vector instructions -/

/-- The slot holds bank 3 of its cluster in a mode; registers 2, 3 and 4 hold the start of the scratchpad, 6 and the last lane of a mode. -/
def leased (m : AccFmt) : State :=
  ((withRegs [(2, 0xE000000000000000), (3, 6), (4, word (laneCount m - 1))]).modMe fun x => { x with lease := some (3, 8) }).modBank 0 3
    fun b => { b with holder := some 0, weight := 8, mode := m }
/-- What a vector instruction works on there. -/
def bankOf (m : AccFmt) : Lease := { cluster := 0, bank := 3, mode := m, rnd := 0 }
/-- The test of `VectorReady`. -/
def vectorB (m : AccFmt) (reads : List Nat) (write : Option Nat) (vs : List Word) (rows : List Nat) (row : Option Nat) : Bool :=
  readyB (leased m) reads write vs && !((leased m).bank 0 3).busyFor rows row && ((leased m).me.lease == some (3, 8)) &&
  ((leased m).bank 0 3).mode == m && (leased m).me.tfrm == 0 && clusterOf (leased m).myCore == 0
theorem vector_of {m : AccFmt} {reads : List Nat} {write : Option Nat} {vs : List Word} {rows : List Nat} {row : Option Nat}
    (h : vectorB m reads write vs rows row = true) : (leased m).VectorReady reads write vs rows row (bankOf m) := by
  simp only [vectorB, Bool.and_eq_true, Bool.not_eq_true', beq_iff_eq] at h
  obtain ⟨⟨⟨⟨⟨h1, h2⟩, h3⟩, h4⟩, h5⟩, h6⟩ := h
  exact ⟨ready_of h1, ⟨8, h3⟩, h6.symm, h4.symm, by rw [h5]; rfl, h2⟩
theorem witness_VectorRowsMemoryAndFaults : (95 : Nat) < 96 ∧ (3 : Nat) < 4 ∧ (63 : Nat) ≤ 63 ∧
    (List.replicate 256 (2 ^ 16 - 1, 1)).length = laneCount .fp16 ∧ (∀ c ∈ List.replicate 256 (2 ^ 16 - 1, 1), c.1 < 2 ^ (8 * laneBytes .fp16)) ∧
    ((leased .fp16).VectorReady [2] none [0xE000000000000000] [] (some 63) (bankOf .fp16) ∧
      (leased .fp16).popAll [2] = leased .fp16 ∧
      ∃ cs es, (leased .fp16).check ((leased .fp16).accessor (leased .fp16).cur) 0xE000000000000000 512 0 .load = .ok (cs, es) ∧
        ((leased .fp16).installAll (leased .fp16).myCore es).readAtOnce (leased .fp16).myCore .cached (piecesOf cs) = .ok none) ∧
    ((awaiting (.row 95 3 63) 504).LastReply 0 (answers 504) (waitsFor (.row 95 3 63) 504) ∧ (awaiting (.row 95 3 63) 504).Calm (coreOf 0) ∧
      ((waitsFor (.row 95 3 63) 504).bytesWith (answers 504)).length = 512) ∧
    ((leased .fp16).VectorReady [2] none [0xE000000000000000] [63] none (bankOf .fp16) ∧ (leased .fp16).popAll [2] = leased .fp16 ∧
      ∃ cs es t, (leased .fp16).check ((leased .fp16).accessor (leased .fp16).cur) 0xE000000000000000 512 0 .store = .ok (cs, es) ∧
        ((leased .fp16).installAll (leased .fp16).myCore es).store (leased .fp16) (leased .fp16).cur [2] cs ((leased .fp16).rowBytes 0 3 63) = .ok t) ∧
    base.me.lease = none ∧ (leased .i32).me.lease = some (3, 8) ∧ ((leased .i32).bank (clusterOf (leased .i32).myCore) 3).mode = .i32 :=
  ⟨by decide, by decide, by decide, by decide +kernel, by decide +kernel, ⟨vector_of (by decide +kernel), by decide +kernel, readsLater_of (by decide +kernel)⟩,
    ⟨lastReply_of (by decide +kernel), calm_of _ (by decide +kernel) (by decide +kernel), by decide +kernel⟩,
    ⟨vector_of (by decide +kernel), by decide +kernel, storeable_iff (by decide +kernel)⟩, by decide +kernel, by decide +kernel, by decide +kernel⟩
/-- The L1 of the core holds the first 512 bytes of the page at 0x40000; the slot has a bank. -/
def lined : State :=
  let s := ((withPageOf {}).modMe fun x => { x with lease := some (3, 8) }).modBank 0 3 fun b => { b with holder := some 0, weight := 8 }
  let pas := match s.check (s.accessor s.cur) 0x40000 512 0 .load with | .ok (cs, _) => cs.flatMap Chunk.pas | .error _ => []
  s.modCore 0 fun c => { c with l1 := pas.foldl (fun t a =>
    Tab.set t (a / 128) { sectors := List.replicate 4 (some (List.replicate 32 5)), ownHome := false }) [] }
theorem witness_VectorRowsMemoryAndFaults_cached : lined.VectorReady [2] none [0x40000] [] (some 63) { cluster := 0, bank := 3, mode := .fp32, rnd := 0 } ∧
    lined.popAll [2] = lined ∧ ∃ bs t, lined.ReadsNow lined 0x40000 512 0 bs t :=
  ⟨⟨ready_of (by decide +kernel), ⟨8, by decide +kernel⟩, by decide +kernel, by decide +kernel, by decide +kernel, by decide +kernel⟩,
    by decide +kernel, readsNow_of (by decide +kernel)⟩
/-- A tile command of the slot. -/
def command (op : TileOp) (started : Option Nat) : TileCmd :=
  { id := 9, slot := 0, uid := 7, core := 0, batch := 0, seq := 0, op := op, mode := .fp32, tfrm := 0, acc := base.accessor 0, waits := []
    started := started }
/-- A zeroing command of the bank has not retired. -/
def zeroing : State := (leased .fp32).modBank 0 3 fun b => { b with order := [command .zero (some 0)] }
theorem witness_VectorRowsMemoryAndFaults_busy : zeroing.me.lease = some (3, 8) ∧ (zeroing.bank (clusterOf zeroing.myCore) 3).busyFor [1, 2] (some 0) = true := by
  decide +kernel
theorem witness_VectorLaneResults : (leased .fp32).VectorReady [] none [] [1, 2] (some 3) (bankOf .fp32) ∧
    (leased .i32).VectorReady [] none [] [1, 2] (some 3) (bankOf .i32) ∧ (bankOf .i32).mode = .i32 ∧
    (leased .bf16).VectorReady [] none [] [3, 1, 2] (some 3) (bankOf .bf16) ∧ (leased .fp16).VectorReady [] none [] [63] (some 0) (bankOf .fp16) ∧
    (bankOf .fp16).mode ≠ .i32 :=
  ⟨vector_of (by decide +kernel), vector_of (by decide +kernel), rfl, vector_of (by decide +kernel), vector_of (by decide +kernel), by decide⟩
theorem witness_VectorRowAndRegisterResults : (leased .fp32).VectorReady [] none [] [1] (some 3) (bankOf .fp32) ∧
    (leased .fp32).VectorReady [] none [] [] (some 3) (bankOf .fp32) ∧ (leased .fp32).VectorReady [] none [] [1, 2] (some 3) (bankOf .fp32) ∧
    (leased .i32).VectorReady [3] none [6] [1] (some 63) (bankOf .i32) ∧ (leased .i32).VectorReady [3] none [6] [] (some 63) (bankOf .i32) ∧
    ((leased .fp16).VectorReady [4] (some 1) [255] [63] none (bankOf .fp16) ∧ (255 : Word).toNat < laneCount .fp16) ∧
    ((leased .i32).VectorReady [3, 4] none [6, 127] [63] (some 63) (bankOf .i32) ∧ (127 : Word).toNat < laneCount .i32) ∧
    (leased .i32).VectorReady [] none [] [1] (some 63) (bankOf .i32) ∧ (leased .bf16).VectorReady [] (some 1) [] [] none (bankOf .bf16) :=
  ⟨vector_of (by decide +kernel), vector_of (by decide +kernel), vector_of (by decide +kernel), vector_of (by decide +kernel),
    vector_of (by decide +kernel), ⟨vector_of (by decide +kernel), by decide⟩, ⟨vector_of (by decide +kernel), by decide⟩,
    vector_of (by decide +kernel), vector_of (by decide +kernel)⟩
/-- Register 2 holds the address of the last 512 bytes of the declared scratchpad. -/
def lastRow : State := (leased .fp16).modMe fun x => x.setX 2 0xE00000000003FE00
theorem witness_VectorRowsMemoryAndFaults_own : (leased .fp16).me.fenced = [] ∧
    lastRow.VectorReady [2] none [0xE00000000003FE00] [63] none (bankOf .fp16) ∧ lastRow.Unhindered ∧ lastRow.myCore < 768 ∧
    (0xE00000000003FE00 : Word).toNat = 0xE0 * 2 ^ 56 + 0x3FE00 ∧ 0x3FE00 % 64 = 0 ∧ 0x3FE00 + 512 ≤ lastRow.me.scratchBound ∧
    lastRow.me.scratchBound ≤ 262144 :=
  ⟨by decide +kernel, ⟨ready_of (by decide +kernel), ⟨8, by decide +kernel⟩, by decide +kernel, by decide +kernel, by decide +kernel, by decide +kernel⟩,
    ⟨by decide +kernel, by decide +kernel, by decide +kernel, by decide +kernel, by decide +kernel, by decide +kernel, by decide +kernel,
      holds (by decide +kernel), by decide +kernel, by decide +kernel⟩, by decide +kernel, by decide, by decide, by decide +kernel, by decide +kernel⟩

/-! ## Witnesses: leases, rings, tile commands, copies and bindings -/

/-- The leased bank with nothing at work. -/
theorem leased_mayIssue (m : AccFmt) (h : (leased m).me.lease = some (3, 8) := by decide +kernel)
    (hq : ((leased m).core (leased m).myCore).cmdQueue < 32 := by decide +kernel) : (leased m).MayIssue 3 := ⟨⟨8, h⟩, by decide, hq⟩
theorem witness_LeaseInstructions : three.Ready [] (some 1) [] ∧ isPort 1 = false ∧ three.me.lease = none ∧
    three.me.stopAsked = false ∧ (8 : Nat) ≤ 8 ∧ (leased .fp32).me.lease = some (3, 8) ∧ (leased .fp32).me.leaseNew = false ∧
    ((leased .fp32).modMe fun x => { x with leaseNew := true }).me.leaseNew = true ∧
    ((leased .fp32).modMe fun x => { x with leaseNew := true }).me.lease = some (3, 8) ∧
    ((leased .fp32).modMe fun x => { x with leaseNew := true }).Ready [] (some 1) [] ∧ (leased .fp32).Ready [] (some 1) [] ∧
    (∀ k ∈ ((leased .fp32).bank (clusterOf (leased .fp32).myCore) 3).order, k.slot ≠ (leased .fp32).cur) ∧
    (∃ k ∈ (zeroing.bank (clusterOf zeroing.myCore) 3).order, k.slot = zeroing.cur) ∧ (leased .fp32).MayIssue 3 :=
  ⟨ready_of (by decide +kernel), rfl, by decide +kernel, by decide +kernel, by decide, by decide +kernel, holds (by decide +kernel), by decide +kernel,
    by decide +kernel, ready_of (by decide +kernel), ready_of (by decide +kernel), by decide +kernel, by decide +kernel, leased_mayIssue .fp32⟩

/-- Rings 0 and 7 of the core belong to the launch: 128 slots of 512 and of 512 bytes; ring 6 is full. -/
def withRings (s : State) : State := s.modCore 0 fun c => { c with rings :=
  [(0, { owner := some 1, base := 0, size := 8192, count := 2 }), (6, { owner := some 1, base := 0, size := 64, count := 1, tail := 1, next := 1 }),
   (7, { owner := some 1, base := 65536, size := 8192, count := 2 })] }
theorem witness_RingInstructions :
    ((withRegs [(2, 0x3FFC0), (3, 0)]).Ready [2, 3] none [0x3FFC0, 0] ∧ NoPorts [2, 3] ∧ 7 < base.me.ringBound ∧ base.me.unit ≠ none ∧
      (0x3FFC0 : Word).toNat % 64 = 0 ∧ (0x3FFC0 : Word).toNat < 2 ^ 18 ∧ (0 : Word).toNat < 2 ^ 13 ∧ (0 : Word).toNat % 8 ≠ 7 ∧
      (0x3FFC0 : Word).toNat + ((0 : Word).toNat / 8 + 1) * 64 * 2 ^ ((0 : Word).toNat % 8) ≤ base.me.scratchBound ∧
      base.me.scratchBound ≤ 0x40000 ∧ (base.ring base.myCore 7).owner = none ∧ base.ringNamed base.myCore 7 = false ∧ (base.ring base.myCore 7).head = (base.ring base.myCore 7).tail ∧
      (base.ring base.myCore 7).tail = (base.ring base.myCore 7).next ∧ (base.ring base.myCore 7).claims = []) ∧
    ((withRings three).ownsRing 0 = true ∧ ((withRings three).ring (withRings three).myCore 0).room ≠ 0 ∧
      ((withRings three).ring (withRings three).myCore 6).room = 0 ∧ (withRings three).ownsRing 6 = true ∧
      (withRings three).Ready [] (some 1) [] ∧ 2 ≤ ((withRings three).ring (withRings three).myCore 0).count ∧
      2 ≤ ((withRings three).ring (withRings three).myCore 0).room) ∧
    (base.modMe fun x => { x with ringBound := 0 }).me.ringBound ≤ 0 ∧
    ((withRings (leased .fp32)).me.lease = some (3, 8) ∧ (withRings (leased .fp32)).Ready [0] none [0] ∧
      (withRings ((leased .fp32).modMe (·.setX 3 1))).Ready [3] none [1] ∧ (withRings ((leased .fp32).modMe (·.setX 3 1))).ownsRing 7 = true) :=
  ⟨⟨ready_of (by decide +kernel), noPorts_of rfl, by decide +kernel, by decide +kernel, by decide, by decide, by decide, by decide, by decide +kernel,
      by decide +kernel, by decide +kernel, holds (by decide +kernel), by decide +kernel, by decide +kernel, by decide +kernel⟩,
    ⟨by decide +kernel, by decide +kernel, by decide +kernel, by decide +kernel, ready_of (by decide +kernel), by decide +kernel, by decide +kernel⟩,
    by decide +kernel,
    ⟨by decide +kernel, ready_of (by decide +kernel), ready_of (by decide +kernel), by decide +kernel⟩⟩
/-- The leased bank with rings, and K in register 5. -/
def multiplying : State := withRings ((leased .fp32).modMe fun x => { x.setX 5 64 with scaleA := some 6, scaleB := some 6 })
theorem witness_MatrixAndBatchInstructions : multiplying.Ready [5] none [64] ∧ NoPorts [5] ∧ multiplying.MayIssue 3 ∧
    7 < multiplying.me.ringBound ∧ multiplying.ownsRing 0 = true ∧ multiplying.ownsRing 7 = true ∧ (64 : Word).toNat ≤ 65535 ∧
    64 * operandStride .t8 64 ≤ (multiplying.ring multiplying.myCore 0).size ∧ 128 * operandStride .t8 64 ≤ (multiplying.ring multiplying.myCore 7).size ∧
    modeAccepts .t8 false (multiplying.bank (clusterOf multiplying.myCore) 3).mode = true ∧
    modeAccepts .t8 true (multiplying.bank (clusterOf multiplying.myCore) 3).mode = true ∧ multiplying.me.scaleA = some 6 ∧
    multiplying.me.scaleB = some 6 ∧ base.me.tb < 65535 ∧ base.me.reported false (some 0) = none ∧ base.me.tb ≤ 0 ∧
    0 < (base.modMe fun x => { x with tb := 1 }).me.tb ∧ (base.modMe fun x => { x with tb := 1 }).me.reported false (some 0) = none :=
  ⟨ready_of (by decide +kernel), noPorts_of rfl, ⟨⟨8, by decide +kernel⟩, by decide, by decide +kernel⟩, by decide +kernel, by decide +kernel,
    by decide +kernel, by decide, holds (by decide +kernel), by decide +kernel, by decide +kernel, by decide +kernel, by decide +kernel, holds (by decide +kernel),
    by decide +kernel, by decide +kernel, by decide +kernel, by decide +kernel, holds (by decide +kernel)⟩

/-- A check of ranges and the ring test pass. -/
def rangesPass (s : State) (op : Op) (rs : List (Word × Nat)) : Bool :=
  match s.checkRanges (s.accessor s.cur) op rs with
  | .ok (cs, _) => (s.ringTest cs).toOption.isSome
  | .error _ => false
theorem ranges_of {s : State} {op : Op} {rs : List (Word × Nat)} (h : rangesPass s op rs = true) :
    ∃ cs es, s.checkRanges (s.accessor s.cur) op rs = .ok (cs, es) ∧ s.ringTest cs = .ok () := by
  unfold rangesPass at h
  split at h
  · next cs es hc => obtain ⟨⟨⟩, ht⟩ := value_of h; exact ⟨cs, es, hc, ht⟩
  · cases h
/-- A declaration of the bank: FP16 by rows. -/
def decl0 : QDecl := { col := false, fmt := .fp16, blk := false, tag := 65535, stride := 2 }
/-- The leased bank with that declaration; register 5 holds the region of one element, 6 a region word for tload, tstore and qst. -/
def tiled : State := (leased .fp32).modBank 0 3 (fun b => { b with decl := some decl0 }) |>.modMe (·.setX 5 (2 ^ 16 - 1))
theorem witness_TileMemoryInstructions :
    (tiled.Ready [2, 0] none [0xE000000000000000, 0] ∧ NoPorts [2, 0] ∧ tiled.MayIssue 3 ∧ regionFits 0 = true ∧
      (∃ cs es, tiled.checkRanges (tiled.accessor tiled.cur) .load (runs 0xE000000000000000 (tileStride 0) (regionOf 0 false).nl
        ((regionOf 0 false).nr * laneBytes (tiled.bank (clusterOf tiled.myCore) 3).mode)) = .ok (cs, es) ∧ tiled.ringTest cs = .ok ()) ∧
      (∃ cs es, tiled.checkRanges (tiled.accessor tiled.cur) .store (runs 0xE000000000000000 (tileStride 0) (regionOf 0 false).nr
        ((regionOf 0 false).nl * codeBytes .t6)) = .ok (cs, es) ∧ tiled.ringTest cs = .ok ())) ∧
    (tiled.Ready [5, 2] none [2 ^ 16 - 1, 0xE000000000000000] ∧ (2 ^ 16 - 1 : Word).toNat < 2 ^ 16) ∧
    (tiled.Ready [2, 0, 0] none [0xE000000000000000, 0, 0] ∧ (tiled.bank (clusterOf tiled.myCore) 3).decl = some decl0 ∧
      quantFits decl0 (tiled.bank (clusterOf tiled.myCore) 3).mode 0 = true ∧
      residueTest (tiled.bank (clusterOf tiled.myCore) 3).issue decl0 0 = .ok () ∧
      (∃ cs es, tiled.checkRanges (tiled.accessor tiled.cur) .store (quantRanges decl0 0xE000000000000000 0 0) = .ok (cs, es) ∧
        tiled.ringTest cs = .ok ())) ∧
    ((leased .fp32).bank (clusterOf (leased .fp32).myCore) 3).decl = none :=
  ⟨⟨ready_of (by decide +kernel), noPorts_of rfl, ⟨⟨8, by decide +kernel⟩, by decide, by decide +kernel⟩, by decide +kernel,
      ranges_of (by decide +kernel), ranges_of (by decide +kernel)⟩, ⟨ready_of (by decide +kernel), by decide⟩,
    ⟨ready_of (by decide +kernel), by decide +kernel, by decide +kernel, rfl, ranges_of (by decide +kernel)⟩, by decide +kernel⟩
/-- A check of a record's address passes, and no held entry covers it. -/
def recordPasses (s : State) (x : Word) : Bool :=
  match s.check (s.accessor s.cur) x 576 64 .load with
  | .ok (cs, es) => (piecesOf cs).all fun p => !(s.installAll s.myCore es).heldOver s.myCore p
  | .error _ => false
theorem record_of {s : State} {x : Word} (h : recordPasses s x = true) : ∃ cs es, s.check (s.accessor s.cur) x 576 64 .load = .ok (cs, es) ∧
    ∀ p ∈ piecesOf cs, (s.installAll s.myCore es).heldOver s.myCore p = false := by
  unfold recordPasses at h
  split at h
  · next cs es hc => exact ⟨cs, es, hc, fun p hp => by simpa using List.all_eq_true.mp h p hp⟩
  · cases h
/-- rsav waits for its store, which has been accepted. -/
def savedNow : State := tiled.modMe fun x => { x with status := .parked (.accepted 5), pending := some { id := 5, len := 4, finish := .none, parts := [] } }
/-- A residue record of the bank's declaration. -/
def residue0 : Residue := { decl := some (false, .fp16, false), tag := 65535, next := 4 }
/-- rlod waits for the record's bytes, which are there. -/
def recording0 : Pending := { id := 4, len := 4, finish := .record, parts := [{ off := 0, a := 0x40000, pa := 0, n := 576 }] }
def recordReply : Reply := { slot := 0, uid := 7, id := 4, off := 0, bytes := residueBytes residue0 }
def recording : State := { tiled.modMe fun x => { x with status := .parked .own, pending := some recording0 } with replies := [recordReply] }
theorem witness_TileMemoryInstructions_residue :
    (tiled.Ready [2] none [0xE000000000000000] ∧ tiled.me.lease = some (3, 8) ∧ tiled.Unhindered ∧ tiled.me.stopAsked = false ∧ tiled.myCore < 768 ∧
      (0xE000000000000000 : Word).toNat = 0xE0 * 2 ^ 56 + 0 ∧ 0 + 576 ≤ tiled.me.scratchBound ∧ tiled.me.scratchBound ≤ 262144 ∧
      tiled.bankBusy (clusterOf tiled.myCore) 3 = false) ∧
    ((savedNow.slot 0).status = .parked (.accepted 5) ∧ (savedNow.slot 0).pending = some { id := 5, len := 4, finish := .none, parts := [] } ∧
      (∀ o ∈ (savedNow.slot 0).stores, o.id ≠ 5) ∧ (savedNow.slot 0).stopAsked = false) ∧
    (tiled.me.fenced = [] ∧ ∃ cs es, tiled.check (tiled.accessor tiled.cur) 0xE000000000000000 576 64 .load = .ok (cs, es) ∧
      ∀ p ∈ piecesOf cs, (tiled.installAll tiled.myCore es).heldOver tiled.myCore p = false) ∧
    (recording.LastReply 0 recordReply recording0 ∧ recording.Calm (coreOf 0) ∧ (recording.slot 0).lease = some (3, 8) ∧
      residueOf (recording0.bytesWith recordReply) = some residue0 ∧ (recording.bank (clusterOf (coreOf 0)) 3).takes residue0 = true) :=
  ⟨⟨ready_of (by decide +kernel), by decide +kernel,
      ⟨by decide +kernel, by decide +kernel, by decide +kernel, by decide +kernel, holds (by decide +kernel), by decide +kernel, by decide +kernel,
        by decide +kernel, by decide +kernel, holds (by decide +kernel)⟩, by decide +kernel, by decide +kernel, by decide, by decide +kernel, holds (by decide +kernel),
      by decide +kernel⟩, by decide +kernel, ⟨by decide +kernel, record_of (by decide +kernel)⟩,
    ⟨lastReply_of (by decide +kernel), calm_of _ (by decide +kernel) (by decide +kernel), by decide +kernel, by decide +kernel, by decide +kernel⟩⟩

/-- Registers for copies: a destination and a source in the scratchpad, a count, and the shapes of the two-dimensional and multicast forms. -/
def copying : State := withRegs [(2, 0xE000000000000000), (3, 0xE000000000001000), (4, 64), (46, 2 ^ 33 + 16), (47, 2 ^ 32 * (2 ^ 32 - 64) + 64),
  (6, 2 ^ 48 * 255 + 262144), (7, 0xE000000000000000)]
theorem witness_CopyInstructions :
    (copying.Ready [2, 3, 4] none [0xE000000000000000, 0xE000000000001000, 64] ∧ NoPorts [2, 3, 4] ∧ (64 : Word) ≠ 0 ∧ (64 : Word).toNat ≤ 2 ^ 32 ∧
      copying.copyChecks (extent 0xE000000000000000 0 1 (64 : Word).toNat) (extent 0xE000000000001000 0 1 (64 : Word).toNat) = .ok () ∧
      copying.me.cp < 65535 ∧ (copying.core copying.myCore).copies.length < 1024) ∧
    copying.Ready [2, 3, 0] none [0xE000000000000000, 0xE000000000001000, 0] ∧
    (copying.Ready [2, 3, 46, 47] none [0xE000000000000000, 0xE000000000001000, 2 ^ 33 + 16, 2 ^ 32 * (2 ^ 32 - 64) + 64] ∧ NoPorts [2, 3, 46, 47] ∧
      (2 ^ 33 + 16 : Word).toNat / 2 ^ 32 = 2 ∧ (2 ^ 33 + 16 : Word).toNat % 2 ^ 32 = 16 ∧
      signedOf 32 ((2 ^ 32 * (2 ^ 32 - 64) + 64 : Word).toNat / 2 ^ 32) = -64 ∧
      copying.copyChecks (extent 0xE000000000000040 (-64) 2 16) (extent 0xE000000000001000 64 2 16) = .ok ()) ∧
    (copying.Ready [2, 7, 6] none [0xE000000000000000, 0xE000000000000000, 2 ^ 48 * 255 + 262144] ∧
      (2 ^ 48 * 255 + 262144 : Word).toNat / 2 ^ 56 = 0 ∧ (2 ^ 48 * 255 + 262144 : Word).toNat / 2 ^ 48 % 256 = 255 ∧
      (2 ^ 48 * 255 + 262144 : Word).toNat / 2 ^ 32 % 2 ^ 16 = 0 ∧ (2 ^ 48 * 255 + 262144 : Word).toNat % 2 ^ 32 = 262144 ∧
      (0xE000000000000000 : Word).toNat / 2 ^ 56 = 0xE0 ∧
      copying.copyChecks (0xE000000000000000, 262144) (0xE000000000000000, 262144) = .ok ()) ∧
    (46 : Nat) ≤ 46 ∧ three.Ready [] (some 50) [] :=
  ⟨⟨ready_of (by decide +kernel), noPorts_of rfl, by decide, by decide, rfl, by decide +kernel, by decide +kernel⟩, ready_of (by decide +kernel),
    ⟨ready_of (by decide +kernel), noPorts_of rfl, by decide, by decide, by decide +kernel, rfl⟩,
    ⟨ready_of (by decide +kernel), by decide, by decide, by decide, by decide, by decide, rfl⟩, by decide, ready_of (by decide +kernel)⟩

/-- A generator descriptor at the end of the scratchpad: one element of 8 bytes. -/
def described : State :=
  { withRegs [(2, 0xE00000000003FFC0), (3, 2 ^ 11 + 2 ^ 10 + 256)] with
    mem := base.mem.write (scratchPa 0 0x3FFC0) (bytesLe 8 0 ++ bytesLe 4 1 ++ bytesLe 4 1 ++ bytesLe 4 1 ++ bytesLe 4 1 ++ List.replicate 32 0 ++ [3]) }
theorem witness_BindingInstructions : described.me.port 59 = .unbound ∧ described.Ready [2] none [0xE00000000003FFC0] ∧ NoPorts [2] ∧
    (0xE00000000003FFC0 : Word).toNat = 0xE0 * 2 ^ 56 + 0x3FFC0 ∧ 0x3FFC0 + 64 ≤ described.me.scratchBound ∧
    (∃ g, generatorOf described.cur 59 described.nextId described.me.uid (described.accessor described.cur)
      (described.mem.read (scratchPa described.myCore 0x3FFC0) 64) = some g) ∧
    ((∃ n < 16, Tab.get? (described.core described.myCore).gens n = none) ∧ described.net = [] ∧ described.lost = []) ∧
    (queued.me.port 61 = .push 10 1 ∧ (queued.me.port 60).mayLend true = true ∧ (queued.core queued.myCore).ref = none ∧
      queued.Ready [2] none [0] ∧ (queued.me.port 61).mayLend false = true ∧ (queued.cluster (clusterOf queued.myCore)).topk = none) ∧
    (2 ^ 11 + 2 ^ 10 + 256 : Word).toNat < 2 ^ 13 ∧ (2 ^ 11 + 2 ^ 10 + 256 : Word).toNat / 2 ^ 11 ≠ 0 ∧
    (2 ^ 11 + 2 ^ 10 + 256 : Word).toNat % 512 = 256 ∧ described.Ready [3] none [2 ^ 11 + 2 ^ 10 + 256] :=
  ⟨by decide +kernel, ready_of (by decide +kernel), noPorts_of rfl, by decide, by decide +kernel, some_of (by decide +kernel), by decide +kernel,
    ⟨by decide +kernel, by decide +kernel, by decide +kernel, ready_of (by decide +kernel), by decide +kernel, by decide +kernel⟩,
    by decide, by decide, by decide, ready_of (by decide +kernel)⟩
/-- A command of the bank has not retired while its slot asks for a residue record to be stored or read. -/
def tiling : State := tiled.modBank 0 3 fun b => { b with order := [command .zero (some 0)] }
theorem witness_TileMemoryInstructions_waiting : (savedNow.slot 0).late = none ∧ tiling.Ready [2] none [0xE000000000000000] ∧ NoPorts [2] ∧
    tiling.me.lease = some (3, 8) ∧ tiling.bankBusy (clusterOf tiling.myCore) 3 = true ∧
    (∃ cs es, tiling.check (tiling.accessor tiling.cur) 0xE000000000000000 576 64 .store = .ok (cs, es)) ∧
    (∃ cs es, tiling.check (tiling.accessor tiling.cur) 0xE000000000000000 576 64 .load = .ok (cs, es)) :=
  ⟨by decide +kernel, ready_of (by decide +kernel), noPorts_of rfl, by decide +kernel, by decide +kernel, pair_of (by decide +kernel),
    pair_of (by decide +kernel)⟩

/-! ## Witnesses: special registers, traps and the ridge -/

/-- A slot of core 768, of the ridge, with registers. -/
def ridge (rs : List (Nat × Word)) : State :=
  { base with
    cur := 12288
    slots := [(12288, rs.foldl (fun x r => x.setX r.1 r.2) { status := .running, pc := 64, asid := 1, unit := some unit0 })] }
theorem witness_CsrReadsGiveTheRegister : base.Ready [] (some 1) [] ∧ (0x053 : Nat) < 0x100 ∧ (∃ v, base.readCsr 0x053 = some v) ∧
    (ridge []).Ready [] (some 1) [] ∧ 768 ≤ (ridge []).myCore ∧ (∃ v, (ridge []).readCsr 0x110 = some v) :=
  ⟨ready_of (by decide +kernel), by decide, some_of (by decide +kernel), ready_of (by decide +kernel), by decide, some_of (by decide +kernel)⟩
theorem witness_CsrWritesChangeTheRegister : three.Ready [2] none [6] ∧ (∃ v, three.readCsr 0x001 = some v) ∧ csrWritable 0x001 = true ∧
    (ridge [(2, 6)]).Ready [2] none [6] ∧ (∃ v, (ridge [(2, 6)]).readCsr 0x110 = some v) ∧ csrWritable 0x110 = true ∧ csrWritable 0x119 = true :=
  ⟨ready_of (by decide +kernel), some_of (by decide +kernel), by decide +kernel, ready_of (by decide +kernel), some_of (by decide +kernel),
    by decide +kernel, by decide +kernel⟩
/-- The test of `LastOf`. -/
def lastOfB (s : State) (g : Nat) (p : Pending) : Bool :=
  ((s.slot g).pending == some p) && ((s.slot g).status == .parked .own) && !(s.slot g).stopAsked && (p.left == 1) && (p.parts == []) &&
  (p.room == none) && ((s.slot g).late == none)
theorem lastOf_of {s : State} {g : Nat} {p : Pending} (h : lastOfB s g p = true) : s.LastOf g p := by
  simp only [lastOfB, Bool.and_eq_true, beq_iff_eq, Bool.not_eq_true'] at h
  obtain ⟨⟨⟨⟨⟨⟨h1, h2⟩, h3⟩, h4⟩, h5⟩, h6⟩, h7⟩ := h
  exact ⟨h1, h2, h3, h4, h5, h6, h7⟩
/-- A ridge slot waits until every die has applied its write to a CSR. -/
def applying (op c : Nat) (x : Word) : State :=
  (ridge []).modMe fun sl => { sl with status := .parked .own, pending := some { id := 4, len := 4, finish := .csr op c x, parts := [], left := 1 } }
theorem witness_CsrWritesChangeTheRegister_wide : (ridge [(2, 6)]).Ready [2] none [6] ∧ 768 ≤ (ridge [(2, 6)]).myCore ∧
    (∀ c ∈ [0x101, 0x21B], 0x100 ≤ c ∧ c ≤ 0xFFF ∧ c ∉ [0x100, 0x103, 0x110] ∧ (ridge [(2, 6)]).readCsr c ≠ none ∧ csrWritable c = true) ∧
    (∃ p, (applying 1 0x119 6).LastOf 12288 p ∧ p.finish = .csr 1 0x119 6 ∧ ∃ v, ({ applying 1 0x119 6 with cur := 12288 } : State).readCsr 0x119 = some v) ∧
    (base.me.agsel.toNat % 16 ≤ 11 ∧ base.me.qsel.toNat % 256 ≤ 191) ∧ (base.die (dieOf base.cur)).inWaiting = [] :=
  ⟨ready_of (by decide +kernel), by decide, by decide +kernel,
    ⟨{ id := 4, len := 4, finish := .csr 1 0x119 6, parts := [], left := 1 }, lastOf_of (by decide +kernel), rfl, some_of (by decide +kernel)⟩,
    by decide +kernel, by decide +kernel⟩
/-- The rounding modes and the flags all stand at their greatest, in a slot, a waiting task and a migrating thread. -/
def allFlags : Slot := { frm := 3, tfrm := 3, fflags := 63 }
theorem witness_CsrWritesChangeTheRegister_reserved :
    ({ base with slots := [(0, allFlags)], launches := [(1, { job := 1, asid := 1, tasks := [{ slot := allFlags, core := 0 }] })] } : State).ReservedClear ∧
    ∃ t, step base = .next t ∧ base.ReservedClear := by
  refine ⟨⟨?_, ?_, ?_, ?_, ?_⟩, ?_⟩
  any_goals (unfold Slot.ReservedClear; decide +kernel)
  have h : (match step base with | .next _ => true | _ => false) = true := by decide +kernel
  split at h
  · next t ht => exact ⟨t, ht, by constructor <;> (unfold Slot.ReservedClear; decide +kernel)⟩
  · cases h
theorem witness_CsrAndPrivilegeFaults : ¬(51 ≤ 50 ∧ 50 ≤ 55) ∧ base.myCore < 768 ∧ base.readCsr 0x0FF = none ∧ csrWritable 0x012 = false ∧
    (ridge []).readCsr 0xFFF = none ∧ 768 ≤ (ridge []).myCore := by decide +kernel
/-- A handler stands at 128. -/
def handled : State := base.modMe fun x => { x with thand := 128 }
theorem witness_TrapsAndPageFaults : (handled.slot 0).thand ≠ 0 ∧ (handled.slot 0).thand.getLsbD 0 = false ∧ (handled.slot 0).tcause.getLsbD 63 = false ∧
    (base.slot 0).thand = 0 ∧ (base.slot 0).unit = some unit0 ∧ (base.launch unit0.launch).status = 0 ∧
    (handled.modMe fun x => { x with tcause := 2 ^ 63 }).me.tcause.getLsbD 63 = true ∧ (base.slot 0).stopAsked = false := by decide +kernel
theorem witness_SoftwareTrapAndReturn : (encode (.trap 255)).length = 2 ∧ (encode (.trap 65535)).length = 3 ∧ handled.me.thand ≠ 0 ∧ handled.me.thand.getLsbD 0 = false ∧
    handled.me.tcause.getLsbD 63 = false ∧ 768 ≤ (ridge []).myCore ∧ (ridge []).me.tip.getLsbD 0 = false ∧
    ((ridge []).modMe fun x => { x with tip := 1 }).me.tip.getLsbD 0 = true ∧ base.myCore < 768 := by decide +kernel
/-- A ridge slot whose registers name what its instructions act on; register 3 holds the address of a mapped page, whose first 1,024
bytes, all zero, stand in the core's L1. -/
def ridging : State :=
  let s := ({ ridge [(2, 4095), (3, 0x40000), (4, 1023), (5, 12287), (6, 0xFFFFFFFFFFFFFFFF), (7, 12287 + 2 ^ 63 + 2 ^ 62), (8, 0), (9, 2 ^ 49),
    (10, 0xF0 * 2 ^ 56 + 0x300000000000 + 767 * 2 ^ 20 + 0x3FC00)] with
    keys := [(1, List.replicate 64 1)] }.mapPage 1 0x40000 { w := true } 0 0).getD base
  let pas := match s.check (s.accessor s.cur) 0x40000 1024 0 .load with | .ok (cs, _) => cs.flatMap Chunk.pas | .error _ => []
  s.modCore 768 fun c => { c with l1 := pas.foldl (fun t a =>
    Tab.set t (a / 128) { sectors := List.replicate 4 (some (List.replicate 32 0)), ownHome := false }) [] }
/-- Slot 12287 has stopped. -/
def stopped : State := ridging.modSlot 12287 fun x => { x with status := .stopped }
/-- Slot 0 of core 768 waits for the bytes of a record or a key, and they are there. -/
def ridgeWait (f : Finish) (n : Nat) : Pending := { id := 4, len := 4, finish := f, parts := [{ off := 0, a := 0x40000, pa := 0, n := n }] }
def ridgeReply (n : Nat) : Reply := { slot := 12288, uid := 7, id := 4, off := 0, bytes := List.replicate n 0 }
def ridgeAwaiting (f : Finish) (n : Nat) : State :=
  { ridging.modMe fun x => { x with status := .parked .own, pending := some (ridgeWait f n) } with replies := [ridgeReply n] }
/-- A record is read at once and gives a slot. -/
def recordReads (s : State) (a : Word) (g : Nat) : Bool :=
  match s.check (s.accessor s.cur) a 1024 64 .load with
  | .ok (cs, es) => (s.me.fenced == []) &&
    match (s.installAll s.myCore es).readAtOnce s.myCore .cached (piecesOf cs) with
    | .ok (some (bs, t)) => ((t.slot g).status == .empty) && (t.slotOf (coreOf g) bs).isSome
    | _ => false
  | .error _ => false
theorem recordReads_of {s : State} {a : Word} {g : Nat} (h : recordReads s a g = true) :
    ∃ bs t sl, s.ReadsNow s a 1024 64 bs t ∧ (t.slot g).status = .empty ∧ t.slotOf (coreOf g) bs = some sl := by
  unfold recordReads at h
  split at h
  · next cs es hc =>
    simp only [Bool.and_eq_true, beq_iff_eq] at h
    obtain ⟨h1, h3⟩ := h
    split at h3
    · next bs t hp =>
      rw [Bool.and_eq_true, beq_iff_eq] at h3
      obtain ⟨sl, hs⟩ := Option.isSome_iff_exists.mp h3.2
      exact ⟨bs, t, sl, ⟨cs, es, hc, h1, hp⟩, h3.1, hs⟩
    · cases h3
  · cases h
theorem witness_RidgeInstructionsComplete :
    (768 ≤ ridging.myCore ∧ ridging.Ready [2] none [4095] ∧ NoPorts [2] ∧ (4095 : Word).toNat < 4096 ∧ ridging.me.stopAsked = false) ∧
    (ridging.Ready [6, 8] none [0xFFFFFFFFFFFFFFFF, 0] ∧ ridging.Ready [9, 2] none [2 ^ 49, 4095] ∧ (4095 : Word) ≠ 0 ∧
      2 ^ 49 < (2 ^ 49 : Word).toNat + (4095 : Word).toNat ∧ ridging.Ready [3, 2] none [0x40000, 4095] ∧
      (0x40000 : Word).toNat + (4095 : Word).toNat ≤ 2 ^ 49) ∧
    (ridging.Ready [4, 3] none [1023, 0x40000] ∧ (1023 : Word).toNat < 1024 ∧ (∃ bs t, ridging.ReadsNow ridging 0x40000 64 64 bs t) ∧
      (ridgeAwaiting (.key 1023) 64).LastReply 0 (ridgeReply 64) (ridgeWait (.key 1023) 64)) ∧
    (ridging.Ready [5] none [12287] ∧ (12287 : Word).toNat < 12288 ∧ (ridging.slot 12287).status = .empty ∧
      (stopped.slot 12287).status = .stopped ∧ stopped.mayRun 12287 = true) :=
  ⟨⟨by decide +kernel, ready_of (by decide +kernel), noPorts_of rfl, by decide, by decide +kernel⟩,
    ⟨ready_of (by decide +kernel), ready_of (by decide +kernel), by decide, by decide, ready_of (by decide +kernel), by decide⟩,
    ⟨ready_of (by decide +kernel), by decide, readsNow_of (by decide +kernel), lastReply_of (by decide +kernel)⟩,
    ⟨ready_of (by decide +kernel), by decide, by decide +kernel, by decide +kernel, by decide +kernel⟩⟩
/-- A ridge slot and a running slot of core 0. -/
def twoRunning : State := ridging.modSlot 0 fun _ => { status := .running, unit := some unit0 }
theorem witness_RidgeInstructionsComplete_slots :
    (twoRunning.Ready [8] none [0] ∧ (twoRunning.slot (0 : Word).toNat).status = .running) ∧
    (stopped.Ready [10, 5] none [0xF0 * 2 ^ 56 + 0x300000000000 + 767 * 2 ^ 20 + 0x3FC00, 12287] ∧ stopped.Unhindered ∧ (stopped.core 767).rings = [] ∧
      0x3FC00 % 64 = 0 ∧ 0x3FC00 + 1024 ≤ 262144 ∧
      (0xF0 * 2 ^ 56 + 0x300000000000 + 767 * 2 ^ 20 + 0x3FC00 : Word).toNat = 0xF0 * 2 ^ 56 + scratchPa 767 0x3FC00) ∧
    (ridging.Ready [3, 5] none [0x40000, 12287] ∧
      ∃ bs t sl, ridging.ReadsNow ridging 0x40000 1024 64 bs t ∧ (t.slot 12287).status = .empty ∧ t.slotOf (coreOf 12287) bs = some sl) ∧
    ((ridgeAwaiting (.slotLoad 12287) 1024).LastReply 0 (ridgeReply 1024) (ridgeWait (.slotLoad 12287) 1024) ∧ 768 ≤ coreOf 12288 ∧
      ((ridgeAwaiting (.slotLoad 12287) 1024).slot 12287).status = .empty ∧
      ∃ sl, (ridgeAwaiting (.slotLoad 12287) 1024).slotOf (coreOf 12287) ((ridgeWait (.slotLoad 12287) 1024).bytesWith (ridgeReply 1024)) = some sl) :=
  ⟨⟨ready_of (by decide +kernel), by decide +kernel⟩,
    ⟨ready_of (by decide +kernel),
      ⟨by decide +kernel, by decide +kernel, by decide +kernel, by decide +kernel, holds (by decide +kernel), by decide +kernel, by decide +kernel,
        by decide +kernel, by decide +kernel, holds (by decide +kernel)⟩, by decide +kernel, by decide, by decide, by decide⟩,
    ⟨ready_of (by decide +kernel), recordReads_of (by decide +kernel)⟩,
    ⟨lastReply_of (by decide +kernel), by decide, by decide +kernel, some_of (by decide +kernel)⟩⟩
/-- A checked access with no lost byte. -/
def posts (s : State) (x : Word) : Bool :=
  match s.check (s.accessor s.cur) x 48 0 .load with
  | .ok (cs, es) => ((s.installAll s.myCore es).lostPiece s.myCore s.cur (piecesOf cs)).isNone
  | .error _ => false
theorem posts_of {s : State} {x : Word} (h : posts s x = true) : ∃ cs es, s.check (s.accessor s.cur) x 48 0 .load = .ok (cs, es) ∧
    (s.installAll s.myCore es).lostPiece s.myCore s.cur (piecesOf cs) = none := by
  unfold posts at h
  split at h
  · next cs es hc => exact ⟨cs, es, hc, by simpa using h⟩
  · cases h
/-- The body of a post is being read, and it comes now; the die's queue of 64 entries stands at 0x1000. -/
def postRead0 : Sending := { id := 4, slot := 0, uid := 7, parts := [{ off := 0, a := 0x40000, pa := 0, n := 48 }] }
def postEntry : Inbound :=
  { source := 0, kind := 1, flags := 0, asid := 1, body := [], job := 1, op := some { slot := 0, uid := 7, id := 4, poa := 0 }, reads := some 4 }
def postReply : Reply := { slot := 0, uid := 7, id := 4, off := 0, bytes := List.replicate 48 2 }
def postRead : State :=
  { base with sendings := [postRead0], replies := [postReply], dies := [(0, { ({} : Die) with rqbase := 0x1000, inWaiting := [postEntry] })] }
theorem witness_RidgeInstructionsComplete_messages :
    ((5 : Word).toNat ≤ 767 ∧ (0xFFFFFFFFFFFFFFFF : Word) = BitVec.allOnes 64 ∧ ridging.Ready [6] none [0xFFFFFFFFFFFFFFFF] ∧ ridging.Ready [8] none [0]) ∧
    (ridging.Ready [3] none [0x40000] ∧ (∃ cs es, ridging.check (ridging.accessor ridging.cur) 0x40000 48 0 .load = .ok (cs, es) ∧
      (ridging.installAll ridging.myCore es).lostPiece ridging.myCore ridging.cur (piecesOf cs) = none) ∧ ridging.me.st < 65535 ∧
      ∀ r ∈ ridging.me.stores, r.id ≠ ridging.nextId) ∧
    (postRead.ReplyArrives 0 postReply ∧ postRead.sendings.find? (fun x => x.id == postReply.id) = some postRead0 ∧ postRead0.mail = none ∧
      (∀ q ∈ postRead0.parts, (q.off = postReply.off → q.bytes = none ∧ q.failed = none) ∧ (q.off ≠ postReply.off → q.answered = true)) ∧
      (∀ p, (postRead.slot postReply.slot).pending = some p → p.id ≠ postReply.id) ∧
      (postRead.die (dieOf postRead0.slot)).inWaiting = [postEntry] ∧ postEntry.reads = some postRead0.id ∧
      (postRead.die (dieOf postRead0.slot)).inbound.length < (postRead.die (dieOf postRead0.slot)).inboundSize ∧
      postRead.mayAccept (inboundPoint (dieOf postRead0.slot)) postEntry.source = true ∧ postRead.Calm (coreOf postRead0.slot) ∧
      (postRead.core (coreOf postRead0.slot)).wb = [] ∧ bits (postRead.die (dieOf postRead0.slot)).rqbase 45 12 ≠ 0) ∧
    (ridging.Ready [7] none [12287 + 2 ^ 63 + 2 ^ 62] ∧ (12287 + 2 ^ 63 + 2 ^ 62 : Word).toNat / 2 ^ 48 % 2 ^ 12 = 0 ∧
      (12287 + 2 ^ 63 + 2 ^ 62 : Word).toNat / 2 ^ 14 % 4 = 0 ∧ (12287 + 2 ^ 63 + 2 ^ 62 : Word).toNat / 2 ^ 60 % 8 = 4 ∧
      (12287 + 2 ^ 63 + 2 ^ 62 : Word).toNat % 2 ^ 14 = 12287) :=
  ⟨⟨by decide, by decide, ready_of (by decide +kernel), ready_of (by decide +kernel)⟩,
    ⟨ready_of (by decide +kernel), posts_of (by decide +kernel), by decide +kernel, by decide +kernel⟩,
    ⟨replyArrives_of (by decide +kernel), by decide +kernel, rfl, by decide +kernel, (fun p h => by
        have h0 : (postRead.slot postReply.slot).pending = none := by decide +kernel
        rw [h0] at h; cases h),
      by decide +kernel, rfl, by decide +kernel, by decide +kernel, calm_of _ (by decide +kernel) (by decide +kernel), by decide +kernel, by decide +kernel⟩,
    ⟨ready_of (by decide +kernel), by decide +kernel, by decide +kernel, by decide +kernel, by decide +kernel⟩⟩

/-! ## Witnesses: the memory system's own steps -/

/-- A request of core 0 to the point of acceptance 5, and the store that it is counted as. -/
def asked (b : Body) : Msg := { core := 0, poa := 5, tag := some 7, body := b, ops := [op0] }
  where op0 : OpRef := { slot := 0, uid := 7, id := 3, poa := 5 }
/-- One request is on its way. -/
def sent (b : Body) : State := { base with net := [asked b], seals := [(0x40000, { size := 65536, tail := 64, sealed := true })] }
theorem sent_arrives (b : Body) (h : (sent b).gateOpen (asked b) = true := by decide +kernel) (h0 : (sent b).fillOf (asked b) = none := by decide +kernel)
    (h1 : (sent b).mayAccept (asked b).poa (asked b).rank = true := by decide +kernel)
    (h2 : (sent b).crossed (dieOfCore (asked b).core) ((sent b).servingDie (asked b)) (asked b).sent = true := by decide +kernel) : (sent b).Arrives 0 (asked b) :=
  ⟨rfl, h, by simp, h0, h1, h2⟩
theorem inDram_last : inDram (11 * 2 ^ 36 + 63 * 2 ^ 30 + 999999999) ∧ inDram 0x027FFFFFFFFF :=
  ⟨⟨767, .inl (by decide +kernel)⟩, ⟨7, .inr (by decide +kernel)⟩⟩
theorem sent_plain (b : Body) (h : ∀ k < 8, (sent b).keyNow (0x40000 + k) = none := by decide +kernel) : ∀ k < 8, (sent b).Plain (0x40000 + k) :=
  fun k hk => ⟨⟨0, .inl (by
    have : ∀ k < 8, region (0x40000 + k) = .fast 0 := by decide +kernel
    exact this k hk)⟩, .inl (h k hk)⟩
/-- A read of eight bytes of the page, and the test of a piece of a store. -/
def readReq (page : Option Nat) : ReadReq :=
  { slot := 0, uid := 7, id := 4, off := 0, pa := 0x40000, n := 8, sectors := [], page := page, shadow := none }
theorem witness_RequestsActAtTheirPointOfAcceptance :
    ((sent (.write [(0x40000, 1)])).Arrives 0 (asked (.write [(0x40000, 1)])) ∧
      (∀ c ∈ ([(0x40000, 1)] : List Host.Cell), (sent (.write [(0x40000, 1)])).Plain c.1) ∧ (([(0x40000, 1)] : List Host.Cell).map (·.1)).Nodup) ∧
    ((sent (.atomic .add .i64 0x40000 1 none)).Arrives 0 (asked (.atomic .add .i64 0x40000 1 none)) ∧
      (∀ k < atypeBytes .i64, (sent (.atomic .add .i64 0x40000 1 none)).Plain (0x40000 + k))) ∧
    ((sent (.atomic .add .i64 0x40000 1 (some (0, 7, 4)))).Arrives 0 (asked (.atomic .add .i64 0x40000 1 (some (0, 7, 4)))) ∧
      (∀ k < atypeBytes .i64, (sent (.atomic .add .i64 0x40000 1 (some (0, 7, 4)))).Plain (0x40000 + k)) ∧
      0x40000 / 32 ∉ (sent (.atomic .add .i64 0x40000 1 (some (0, 7, 4)))).lost) ∧
    ((sent (.read (readReq (some 0x40000)))).Arrives 0 (asked (.read (readReq (some 0x40000)))) ∧ (readReq (some 0x40000)).n ≠ 0 ∧
      (∀ k < (readReq (some 0x40000)).n, (sent (.read (readReq (some 0x40000)))).Plain ((readReq (some 0x40000)).pa + k) ∧
        ((readReq (some 0x40000)).pa + k) / 32 ∉ (sent (.read (readReq (some 0x40000)))).lost)) ∧
    (sent (.test (readReq none))).Arrives 0 (asked (.test (readReq none))) ∧
    ((sent (.append 0x40000 0x40000 [1, 2, 3, 4, 5, 6, 7, 8] 0 7 4)).Arrives 0 (asked (.append 0x40000 0x40000 [1, 2, 3, 4, 5, 6, 7, 8] 0 7 4)) ∧
      ((sent (.append 0x40000 0x40000 [1, 2, 3, 4, 5, 6, 7, 8] 0 7 4)).sealAt 0x40000).sealed = true) ∧
    ((sent (.sealReq 0x40000 0x4FFF8 0 7 4)).Arrives 0 (asked (.sealReq 0x40000 0x4FFF8 0 7 4)) ∧
      (0x40000 + ((sent (.sealReq 0x40000 0x4FFF8 0 7 4)).sealAt 0x40000).tail) / 32 ∉ (sent (.sealReq 0x40000 0x4FFF8 0 7 4)).lost) ∧
    (sent (.tailReq 0x40000 0x4FFF8 0 7 4)).Arrives 0 (asked (.tailReq 0x40000 0x4FFF8 0 7 4)) :=
  ⟨⟨sent_arrives _, fun c hc => by
      simp only [List.mem_singleton] at hc
      subst hc
      exact sent_plain _ (by decide +kernel) 0 (by decide), by decide⟩,
    ⟨sent_arrives _, sent_plain _⟩, ⟨sent_arrives _, sent_plain _, by decide +kernel⟩,
    ⟨sent_arrives _, by decide, fun k hk => ⟨sent_plain _ (by decide +kernel) k hk, by
      show (0x40000 + k) / 32 ∉ ([] : List Nat)
      simp⟩⟩,
    sent_arrives _, ⟨sent_arrives _, by decide +kernel⟩, ⟨sent_arrives _, by decide +kernel⟩, sent_arrives _⟩
/-- An entry of the write buffer of core 0 was opened at cycle 0. -/
def buffered : State := { base.modCore 0 fun c => { c with wb := [entry0] } with cycle := 64 }
  where entry0 : WbEntry := { key := (1, 0x40000), cells := [{ pa := 0x10000, byte := 1, poa := 5 }], opened := 0, opener := 0
                              ops := [{ slot := 0, uid := 7, id := 3, poa := 5 }], hold := [], span := some { asid := 1, va := 0x40000, n := 64 } }
theorem witness_RequestsActAtTheirPointOfAcceptance_buffer : (buffered.core 0).wb[0]? = some buffered.entry0 ∧ buffered.entry0.hold = [] ∧
    buffered.entry0.opened + 64 ≤ buffered.cycle := by decide +kernel

/-- A store of the slot waits for its acceptance, and a load for its reply, which has come. -/
def late (live : Bool) : Outstanding := { id := 4, d := 50, z := .i32, parts := [{ off := 0, a := 0x40000, pa := 0, n := 4 }], live := live }
def replying (left : Nat) (live : Bool) : State :=
  { base.modMe fun x => { x with st := 1, ld := 1, stores := [{ id := 3, left := left, peer := false }], outstanding := [late live] } with
    acks := [asked.op0], replies := [reply0 7, reply0 8] }
  where reply0 (uid : Nat) : Reply := { slot := 0, uid := uid, id := 4, bytes := [0, 0, 0, 128] }
/-- The test of `AckArrives`. -/
def ackArrivesB (s : State) (i : Nat) (o : OpRef) : Bool :=
  (s.acks[i]? == some o) && (s.acks.take i).all (fun x => !samePath (some x.poa) (some o.poa) x.slot o.slot) &&
  s.replies.all (fun r => !samePath r.poa (some o.poa) r.slot o.slot || !sentBefore r.sent o.sent) &&
  s.crossed ((dieOfPoa o.poa).getD (dieOf o.slot)) (dieOf o.slot) o.sent
theorem ackArrives_of {s : State} {i : Nat} {o : OpRef} (h : ackArrivesB s i o = true) : s.AckArrives i o := by
  simp only [ackArrivesB, Bool.and_eq_true, beq_iff_eq, Bool.not_eq_true', List.all_eq_true, Bool.or_eq_true] at h
  obtain ⟨⟨⟨h1, h2⟩, h3⟩, h4⟩ := h
  exact ⟨h1, h2, fun r hr hs => (h3 r hr).resolve_left (by simp [hs]), h4⟩
/-- The unit that a reply is for has left its slot. -/
def departed : State := { replying 1 true with replies := [replying.reply0 8] }
theorem witness_RepliesAndReleaseRounds :
    ((replying 1 true).AckArrives 0 asked.op0 ∧
      (replying 1 true).stillUnit 0 7 = true ∧ (replying 1 true).Calm (coreOf 0) ∧
      ((replying 1 true).slot 0).stores.find? (·.id == 3) = some { id := 3, left := 1, peer := false } ∧
      ((replying 2 true).slot 0).stores.find? (·.id == 3) = some { id := 3, left := 2, peer := false }) ∧
    ((replying 1 true).ReplyArrives 0 (replying.reply0 7) ∧
      ((replying 1 true).slot 0).uid = 7 ∧ (replying 1 true).sendings = [] ∧ ((replying 1 true).slot 0).pending = none ∧
      ((replying 1 true).slot 0).outstanding.find? (·.id == 4) = some (late true) ∧ (∀ p ∈ (late true).parts, p.off = 0 ∨ p.answered = true) ∧
      ((replying 1 false).slot 0).outstanding.find? (·.id == 4) = some (late false)) ∧
    (departed.ReplyArrives 0 (replying.reply0 8) ∧ (departed.slot 0).uid ≠ 8 ∧ departed.sendings = []) ∧
    ((awaiting (.group 43 8) 56).LastReply 0 (answers 56) (waitsFor (.group 43 8) 56) ∧ (awaiting (.group 43 8) 56).Calm (coreOf 0) ∧
      ∃ vs, (waitsFor (.group 43 8) 56).finish.gives ((waitsFor (.group 43 8) 56).bytesWith (answers 56)) = some (43, vs)) ∧
    ((awaiting (.word 50) 0).LastReply 0 (answers 0) (waitsFor (.word 50) 0) ∧ isPort 50 = false) :=
  ⟨⟨ackArrives_of (by decide +kernel), by decide +kernel, calm_of 0 (by decide +kernel) (by decide +kernel), by decide +kernel, by decide +kernel⟩,
    ⟨replyArrives_of (by decide +kernel), by decide +kernel, rfl, by decide +kernel, by decide +kernel, by decide +kernel, by decide +kernel⟩,
    ⟨replyArrives_of (by decide +kernel), by decide +kernel, rfl⟩, ⟨lastReply_of (by decide +kernel), calm_of 0 (by decide +kernel) (by decide +kernel), ⟨_, rfl⟩⟩,
    ⟨lastReply_of (by decide +kernel), rfl⟩⟩
/-- A prefetch, a draining round whose writes have arrived, a promote request and a promote reply. -/
def draining (q : Option Nat) (p : Pending) : State :=
  { base.modCore 0 (fun c => { c with draining := [(7, 0)], query := q }) |>.modMe fun x => { x with status := .parked .own, pending := some p } with
    cycle := 64
    prefetches := [{ core := 0, asid := 1, va := 0x40000, left := 64, toL2 := false }]
    promReqs := [{ from_ := 17, core := 0, launch := some 1 }, { from_ := 16, core := 0, launch := some 2 }]
    promReps := [{ from_ := 0, core := 5, launch := none }] }
/-- An instruction that misses replies without data. -/
def misses (f : Finish) (n : Nat) : Pending := { id := 4, len := 4, finish := f, left := n }
theorem lastOf_misses (q : Option Nat) (f : Finish) (h : (draining q (misses f 1)).me.stopAsked = false := by decide +kernel)
    (h' : (draining q (misses f 1)).me.pending = some (misses f 1) := by decide +kernel)
    (h'' : (draining q (misses f 1)).me.status = .parked .own := by decide +kernel)
    (h3 : (draining q (misses f 1)).me.late = none := by decide +kernel) : (draining q (misses f 1)).LastOf 0 (misses f 1) :=
  ⟨h', h'', h, rfl, rfl, rfl, h3⟩
theorem witness_RepliesAndReleaseRounds_rounds : (draining none (misses .none 1)).prefetches[0]? = some { core := 0, asid := 1, va := 0x40000, left := 64, toL2 := false } ∧
    ((draining none (misses .none 1)).core 0).draining = [(7, 0)] ∧ ((draining none (misses .none 1)).core 0).query = none ∧
    (draining none (misses .none 1)).arrivedTotal 0 (7 % 8) = 0 ∧ (draining none (misses .none 1)).arrivedTotal 0 (7 % 8) ≠ 1 ∧
    ((draining (some (64 - Config.crossing)) (misses .none 1)).core 0).query = some (64 - Config.crossing) ∧ 64 - Config.crossing + Config.crossing ≤ 64 ∧
    (∀ d < 4, (draining (some (64 - Config.crossing)) (misses .none 1)).wayOpen (dieOfCore 0) d = true) ∧
    (draining (some (64 - Config.crossing)) (misses .none 1)).Calm 0 ∧
    ((draining none (misses .none 1)).promReqs[1]? = some { from_ := 16, core := 0, launch := some 2 } ∧
      (∀ x ∈ (draining none (misses .none 1)).promReqs.take 1, x.from_ ≠ 16 ∨ x.core ≠ 0) ∧
      (draining none (misses .none 1)).mayAccept (5000 + 0) 16 = true ∧ (draining none (misses .none 1)).crossed (dieOf 16) (dieOfCore 0) none = true ∧
      (draining none (misses .none 1)).holdsUnit 0 2 = false) ∧
    ((draining none (misses .none 1)).promReps[0]? = some { from_ := 0, core := 5, launch := none } ∧
      (draining none (misses .none 1)).crossed (dieOfCore 5) (dieOf 0) none = true ∧
      ((draining none (misses .none 2)).slot 0).pending = some (misses .none 2) ∧ (draining none (misses .none 1)).LastOf 0 (misses .none 1) ∧
      (draining none (misses (.prom 0xE00000000003FFF8 .i64 50) 1)).LastOf 0 (misses (.prom 0xE00000000003FFF8 .i64 50) 1) ∧
      ∃ cs es, (draining none (misses (.prom 0xE00000000003FFF8 .i64 50) 1)).check
        ((draining none (misses (.prom 0xE00000000003FFF8 .i64 50) 1)).accessor 0) 0xE00000000003FFF8 (sizeBytes .i64) (sizeBytes .i64) .load = .ok (cs, es)) :=
  ⟨rfl, by decide +kernel, by decide +kernel, by decide +kernel, by decide +kernel, holds (by decide +kernel), by decide, by decide +kernel,
    calm_of 0 (by decide +kernel) (by decide +kernel), ⟨rfl, by decide +kernel, by decide +kernel, by decide +kernel, by decide +kernel⟩,
    ⟨rfl, by decide +kernel, by decide +kernel, lastOf_misses .., lastOf_misses .., pair_of (by decide +kernel)⟩⟩
/-- The tests of a store's pieces are back. -/
theorem witness_RepliesAndReleaseRounds_tested : (awaiting (.store [(0x300000100000, 1001, [1, 2])]) 0).LastReply 0 (answers 0) (waitsFor (.store [(0x300000100000, 1001, [1, 2])]) 0) ∧
    (awaiting (.store [(0x300000100000, 1001, [1, 2])]) 0).Calm (coreOf 0) :=
  ⟨lastReply_of (by decide +kernel), calm_of 0 (by decide +kernel) (by decide +kernel)⟩

/-- A page of the fast tier at 0x40000, homed on core 0. -/
def withPage : State := ({ base with keys := [(1, List.replicate 64 1)] }.mapPage 1 0x40000 { w := true } 3 5).getD base
/-- Its number. -/
def page0 : Nat := (withPage.pages.head?.map (·.1)).getD 0
/-- The page is moving to the capacity tier, at a step. -/
def moving (k : Nat) : State :=
  let t := (withPage.startMove page0 1).getD base
  { t with moves := t.moves.map fun m => { m with step := k } }
/-- A walk, a report, a wake, a generation change and requests for shadow frames. -/
def walking : State :=
  { withPage.modMe fun x => { x with status := .dropped, dropSeq := 9 } with
    walks := [{ core := 0, asid := 1, gen := 0, va := 0x40000, slot := 0, uid := 7, id := 4 }, { core := 0, asid := 1, gen := 1, va := 0x40000, slot := 0, uid := 7, id := 4 }]
    reports := [{ slot := 0, seq := 9, pc := 64, pieces := [0x40000], asid := 1, fetch := false, write := false },
                { slot := 0, seq := 9, pc := 64, pieces := [0x80000], asid := 1, fetch := true, write := false }]
    wakes := [{ slot := 0, seq := 9, reject := none }, { slot := 0, seq := 8, reject := none }]
    shadowFills := [(3, 0x40000, 0)] }
/-- How the service of a piece stands, as a number: 1 where it changes the state. -/
def serviceCode (s : State) : Service → Nat
  | .ready => 0
  | .wait t => if t = s then 65536 else 1
  | .reject k => k + 2
theorem service_ready {s : State} {x : Service × Nat} (h : serviceCode s x.1 = 0) : x.1 = .ready := by
  obtain ⟨y, n⟩ := x
  cases y with
  | ready => rfl
  | wait t => simp only [serviceCode] at h; split at h <;> cases h
  | reject k => simp [serviceCode] at h
theorem service_wait {s : State} {x : Service × Nat} (h : serviceCode s x.1 = 1) : ∃ t p, x = (.wait t, p) ∧ t ≠ s := by
  obtain ⟨y, n⟩ := x
  cases y with
  | ready => simp [serviceCode] at h
  | wait t => exact ⟨t, n, rfl, fun e => by simp [serviceCode, e] at h⟩
  | reject k => simp [serviceCode] at h
theorem service_reject {s : State} {x : Service × Nat} (h : 1 < serviceCode s x.1 ∧ serviceCode s x.1 < 65536) : ∃ why p, x = (.reject why, p) := by
  obtain ⟨y, n⟩ := x
  cases y with
  | ready => simp [serviceCode] at h
  | wait t => simp only [serviceCode] at h; split at h <;> omega
  | reject k => exact ⟨k, n, rfl⟩
/-- A page in host memory at 0x40000, for which the stack has room. -/
def away : State := ({ base with keys := [(1, List.replicate 64 1)] }.mapPage 1 0x40000 { w := true, tier := 2 } 3 5).getD base
/-- Core 0 has buffered a store of ASID 1 that a generation change has to wait for, or one that it has not. -/
def changing (x : TlbOp) : State :=
  { buffered.modMe fun y => { y with status := .parked .own, pending := some { id := 5, len := 2, finish := .none, left := 1 } } with tlbOps := [x] }
theorem witness_TranslationAndPageSteps : (walking.walks[0]?.map (·.gen) = some (walking.asidOf 1).gen) ∧ (walking.walks[1]?.map (·.gen) ≠ some (walking.asidOf 1).gen) ∧
    ((changing { slot := 0, asid := 2, bound := 5 }).tlbClear { slot := 0, asid := 2, bound := 5 } = true ∧
      (changing { slot := 0, asid := 2, bound := 5 }).LastOf 0 { id := 5, len := 2, finish := .none, left := 1 } ∧
      (base.slot 0).pending = none ∧ (changing { slot := 0, asid := 1, bound := 5 }).tlbClear { slot := 0, asid := 1, bound := 5 } = false ∧
      (changing { slot := 0, asid := 1, bound := 5 }).tlbSend { slot := 0, asid := 1, bound := 5 } ≠ changing { slot := 0, asid := 1, bound := 5 }) ∧
    ((walking.servePieces { walking.accessor 0 with asid := 1 } [0x40000]).1 = .ready ∧
      (∃ t p, away.servePieces { away.accessor 0 with asid := 1 } [0x40000] = (.wait t, p) ∧ t ≠ away) ∧
      ∃ why p, walking.servePieces { walking.accessor 0 with asid := 1 } [0x80000] = (.reject why, p)) ∧
    ((walking.slot 0).status = .dropped ∧ (walking.slot 0).dropSeq = 9 ∧ walking.wakes[1]? = some { slot := 0, seq := 8, reject := none } ∧
      walking.mayAccept 6000 0 = true) ∧
    (walking.shadowOf 3 0x40000 0 = none ∧ walking.filling = [] ∧
      (∃ f ∈ { walking with filling := [(3, 0x40000, 0, 0)] }.filling, f.1 = 3 ∧ f.2.1 = 0x40000) ∧ ∃ fr, walking.freeOnDie 3 = some fr) :=
  ⟨by decide +kernel, by decide +kernel, ⟨by decide +kernel, ⟨by decide +kernel, by decide +kernel, by decide +kernel, rfl, rfl, rfl, by decide +kernel⟩,
      by decide +kernel, by decide +kernel, by decide +kernel⟩,
    ⟨service_ready (s := walking) (by decide +kernel), service_wait (by decide +kernel), service_reject (s := walking) (by decide +kernel)⟩,
    by decide +kernel, ⟨by decide +kernel, by decide +kernel, ⟨_, List.mem_singleton_self _, by decide⟩, some_of (by decide +kernel)⟩⟩
/-- The stack of the page is short of frames. -/
def short : State := { withPage with lowmark := [(0, 2 ^ 40)] }
/-- The page at a step of its move, as the event reads it. -/
def atStep (s : State) (k : Nat) (lost : Bool) : Bool :=
  match s.moves[0]? with
  | some m => (m.step == k) && match Tab.get? s.pages m.page with
    | some p => s.drained (s.framesOf p.asid m.old) && s.pageLost (s.framesOf p.asid m.old) == lost
    | none => false
  | none => false
theorem atStep_of {s : State} {k : Nat} {lost : Bool} (h : atStep s k lost = true) : ∃ m p, s.moves[0]? = some m ∧ Tab.get? s.pages m.page = some p ∧
    m.step = k ∧ s.drained (s.framesOf p.asid m.old) = true ∧ s.pageLost (s.framesOf p.asid m.old) = lost := by
  unfold atStep at h
  split at h
  · next m hm =>
    rw [Bool.and_eq_true, beq_iff_eq] at h
    obtain ⟨h1, h2⟩ := h
    split at h2
    · next p hp =>
      rw [Bool.and_eq_true, beq_iff_eq] at h2
      exact ⟨m, p, hm, hp, h1, h2.1, h2.2⟩
    · cases h2
  · cases h
/-- The first sector of the moving page has an uncorrectable error. -/
def ruined : State :=
  let t := moving 3
  { t with lost := (t.moves.flatMap fun m => t.framesOf 1 m.old).map (· / 32) }
theorem witness_TranslationAndPageSteps_moves : (0 < 12 ∧ short.freeIn 0 < short.lowMark 0 ∧ short.victim 0 = some page0 ∧
      ∃ t, short.startMove page0 1 = some t) ∧
    (∃ m p, (moving 1).moves[0]? = some m ∧ Tab.get? (moving 1).pages m.page = some p ∧ m.step = 1 ∧
      (moving 1).drained ((moving 1).framesOf p.asid m.old) = true ∧ (moving 1).pageLost ((moving 1).framesOf p.asid m.old) = false) ∧
    (∃ m p, (moving 2).moves[0]? = some m ∧ Tab.get? (moving 2).pages m.page = some p ∧ m.step = 2 ∧
      (moving 2).drained ((moving 2).framesOf p.asid m.old) = true ∧ (moving 2).pageLost ((moving 2).framesOf p.asid m.old) = false) ∧
    (∃ m p, (moving 3).moves[0]? = some m ∧ Tab.get? (moving 3).pages m.page = some p ∧ m.step = 3 ∧
      (moving 3).drained ((moving 3).framesOf p.asid m.old) = true ∧ (moving 3).pageLost ((moving 3).framesOf p.asid m.old) = false) ∧
    (∃ m p, ruined.moves[0]? = some m ∧ Tab.get? ruined.pages m.page = some p ∧ m.step = 3 ∧
      ruined.drained (ruined.framesOf p.asid m.old) = true ∧ ruined.pageLost (ruined.framesOf p.asid m.old) = true) ∧
    (∃ m p, (moving 4).moves[0]? = some m ∧ Tab.get? (moving 4).pages m.page = some p ∧ m.step = 4 ∧
      (moving 4).drained ((moving 4).framesOf p.asid m.old) = true ∧ (moving 4).pageLost ((moving 4).framesOf p.asid m.old) = false) ∧
    (∃ t, { withPage with steers := [(page0, false)] }.steer = some t) :=
  ⟨⟨by decide, by decide +kernel, by decide +kernel, some_of (by decide +kernel)⟩, atStep_of (by decide +kernel), atStep_of (by decide +kernel),
    atStep_of (by decide +kernel), atStep_of (by decide +kernel), atStep_of (by decide +kernel), some_of (by decide +kernel)⟩
theorem witness_TranslationAndPageSteps_stacks : (11 < 12) ∧ ({ withPage with regulator := [(11, 0)] }.regulatorOf 11).getLsbD 63 = false ∧
    (({ withPage with regulator := [(11, 2 ^ 63 + 2 ^ 32 + 1)] }.recentActivates 11).length < { withPage with regulator := [(11, 2 ^ 63 + 2 ^ 32 + 1)] }.activateLimit 11) ∧
    withPage.saving 11 = false ∧ ({ withPage with preempts := [{ port := 0, seq := 1, level := .launch, key := 1, phase := 6, saveStacks := 2 ^ 11, deadline := 2 ^ 40 }] }.saving 11 = true) ∧
    sectorDie 0x027FFFFFFFE0 = some 3 ∧ sectorDie 0x30000003FFE0 = some 0 := by decide +kernel
/-- A page of the capacity tier at 0x50000 beside it, which is to come into the fast tier. -/
def asked1 : State :=
  let t := (withPage.mapPage 1 0x50000 { w := true, tier := 1 } 3 5).getD base
  { t with steers := [(page0 + 1, true)] }
/-- The pseudo-channel of its home has no frame left. -/
def crammed : State := { asked1 with frames := asked1.frames ++ [(327680, 10 ^ 9 - 327680, 1)] }
/-- The page that is steered, as the event finds it. -/
def steered (s : State) (id : Nat) (idle room : Bool) : Bool :=
  match Tab.get? s.pages id with
  | some p => !p.moving && (decide (leafTier (s.leafOfPage p) = 0 ∨ p.fate ≠ 0) == idle) && ((s.startMove id 0).isSome == room) &&
      (room || match s.makeRoom p (s.leafOfPage p) with | some u => decide (u ≠ s) | none => false)
  | none => false
theorem steered_of {s : State} {id : Nat} {idle room : Bool} (h : steered s id idle room = true) : ∃ p, Tab.get? s.pages id = some p ∧ p.moving = false ∧
    ((leafTier (s.leafOfPage p) = 0 ∨ p.fate ≠ 0) ↔ idle = true) ∧ (s.startMove id 0).isSome = room ∧
    (room = false → ∃ u, s.makeRoom p (s.leafOfPage p) = some u ∧ u ≠ s) := by
  unfold steered at h
  split at h
  · next p hp =>
    simp only [Bool.and_eq_true, Bool.not_eq_true', beq_iff_eq, Bool.or_eq_true] at h
    obtain ⟨⟨⟨h1, h2⟩, h3⟩, h4⟩ := h
    refine ⟨p, hp, h1, ?_, h3, fun hr => ?_⟩
    · rw [← h2, decide_eq_true_iff]
    · rcases h4 with h4 | h4
      · rw [hr] at h4; cases h4
      · split at h4
        · next u hu => exact ⟨u, hu, of_decide_eq_true h4⟩
        · cases h4
  · cases h
/-- The steering without the page in question. -/
def askedNext (s : State) : State := { s with steers := [] }
theorem witness_TranslationAndPageSteps_steers : asked1.steers = [(page0 + 1, true)] ∧
    (∃ p, Tab.get? (askedNext asked1).pages (page0 + 1) = some p ∧ p.moving = false ∧
      ((leafTier ((askedNext asked1).leafOfPage p) = 0 ∨ p.fate ≠ 0) ↔ false = true) ∧ ((askedNext asked1).startMove (page0 + 1) 0).isSome = true ∧
      (true = false → ∃ u, (askedNext asked1).makeRoom p ((askedNext asked1).leafOfPage p) = some u ∧ u ≠ askedNext asked1)) ∧
    (∃ p, Tab.get? crammed.pages (page0 + 1) = some p ∧ p.moving = false ∧ ((leafTier (crammed.leafOfPage p) = 0 ∨ p.fate ≠ 0) ↔ false = true) ∧
      (crammed.startMove (page0 + 1) 0).isSome = false ∧ (false = false → ∃ u, crammed.makeRoom p (crammed.leafOfPage p) = some u ∧ u ≠ crammed)) ∧
    Tab.get? asked1.pages 4095 = none ∧ (∃ p, Tab.get? asked1.pages page0 = some p ∧ leafTier (asked1.leafOfPage p) = 0) :=
  ⟨rfl, steered_of (by decide +kernel), steered_of (by decide +kernel), by decide +kernel, ⟨_, rfl, by decide +kernel⟩⟩
/-- A sealed page of ASID 1, with a request for a shadow frame on die 3 and one under way. -/
def sealedPage : State :=
  let t := sealMapped
  { t with seals := t.seals.map fun e => (e.1, { e.2 with sealed := true, tail := 64 }), cycle := 64 }
def sealedAt : Nat := (sealedPage.seals.head?.map (·.1)).getD 0
theorem witness_TranslationAndPageSteps_shadows : (sealedPage.shadowOf 3 sealedAt 0).isSome = false ∧ sealedPage.filling = [] ∧
    sealedPage.sealGenAt sealedAt = 0 ∧ (∃ q, sealedPage.sealPageAt sealedAt = some q ∧ (sealedPage.sealAt q).sealed = true) ∧
    walking.sealPageAt 0x40000 = none ∧
    ({ sealedPage with filling := [(3, sealedAt, 0, 64 - 2 * Config.crossing)] } : State).filling = [(3, sealedAt, 0, 64 - 2 * Config.crossing)] ∧
    64 - 2 * Config.crossing + 2 * Config.crossing ≤ sealedPage.cycle ∧ sealedPage.wayOpen ((sectorDie sealedAt).getD 3) 3 = true ∧
    (sealedPage.shadowOf 3 sealedAt 0 = none ∧ ∃ fr, sealedPage.freeOnDie 3 = some fr) :=
  ⟨by decide +kernel, by decide +kernel, by decide +kernel, ⟨sealedAt, by decide +kernel, by decide +kernel⟩, by decide +kernel, rfl, by decide +kernel,
    by decide +kernel, by decide +kernel, some_of (by decide +kernel)⟩
/-- The bytes of the moving page, before and after: in its frame of the fast tier and in that of the capacity tier. -/
def leafFrom : Word := 0xC000200E00000004
def leafTo : Word := 0xC400200E01000000
theorem fast_inDram (k : Nat) (h : k < 65536) : inDram (262144 + k) :=
  ⟨_, .inl (by unfold region; rw [if_pos (by omega), if_pos (by show (262144 + k) % 2 ^ 30 < 1000000000; omega)])⟩
theorem cap_inDram (k : Nat) (h : k < 65536) : inDram (1099511627776 + k) :=
  ⟨_, .inr (by unfold region; rw [if_neg (by omega), if_neg (by omega), if_pos (by omega)])⟩
theorem physical_from (s : State) (k : Nat) (h : k < 65536) : s.physical 1 (262144 + k) 65536 leafFrom = 262144 + k := by
  unfold State.physical
  rw [if_neg (by decide +kernel), show leafFrame leafFrom = 4 by decide +kernel]
  omega
theorem physical_to (s : State) (k : Nat) (h : k < 65536) : s.physical 1 (262144 + k) 65536 leafTo = 1099511627776 + k := by
  unfold State.physical
  rw [if_neg (by decide +kernel), show leafFrame leafTo = 16777216 by decide +kernel]
  omega
theorem witness_TranslationAndPageSteps_copied : ∃ m p, (moving 3).moves[0]? = some m ∧ Tab.get? (moving 3).pages m.page = some p ∧ m.step = 3 ∧
    p.onHost = none ∧ m.tier ≠ 2 ∧
    let from_ (k : Nat) : Nat := (moving 3).physical p.asid (p.va + k) p.size m.old
    let to_ (k : Nat) : Nat := (moving 3).physical p.asid (p.va + k) p.size m.new
    ∀ k < p.size, inDram (from_ k) ∧ inDram (to_ k) ∧ ∀ j < p.size, from_ j / 32 ≠ to_ k / 32 ∧ (j ≠ k → to_ j ≠ to_ k) := by
  have h : (match (moving 3).moves[0]? with
    | some m => (match Tab.get? (moving 3).pages m.page with
      | some p => (p.onHost == none) && m.tier != 2 && m.step == 3 && p.asid == 1 && p.va == 262144 && p.size == 65536 && m.old == leafFrom && m.new == leafTo
      | none => false)
    | none => false) = true := by decide +kernel
  split at h
  · next m hm =>
    split at h
    · next p hp =>
      simp only [Bool.and_eq_true, beq_iff_eq, bne_iff_ne] at h
      obtain ⟨⟨⟨⟨⟨⟨⟨h1, h2⟩, h3⟩, h4⟩, h5⟩, h6⟩, h7⟩, h8⟩ := h
      refine ⟨m, p, hm, hp, h3, h1, h2, fun k hk => ?_⟩
      rw [h6] at hk
      rw [h4, h5, h6, h7, h8]
      dsimp only
      rw [physical_from _ k hk, physical_to _ k hk]
      refine ⟨fast_inDram k hk, cap_inDram k hk, fun j hj => ?_⟩
      rw [physical_from _ j hj, physical_to _ j hj]
      exact ⟨by omega, fun hn => by omega⟩
    · cases h
  · cases h

/-! ## Witnesses: engines, leases, the array, the top-k unit and posts -/

/-- What a pull or a put gives. -/
def pulled : Pull → Option (List Byte × State)
  | .bytes bs s => some (bs, s)
  | _ => none
theorem pulled_of {x : Pull} (h : (pulled x).isSome = true) : ∃ bs s, x = .bytes bs s := by
  cases x with
  | bytes bs s => exact ⟨bs, s, rfl⟩
  | wait s => cases h
  | fail c a t => cases h
def putDone : Put → Option State
  | .done s => some s
  | _ => none
theorem put_of {x : Put} (h : (putDone x).isSome = true) : ∃ s, x = .done s := by
  cases x with
  | done s => exact ⟨s, rfl⟩
  | wait s => cases h
  | fail a => cases h

/-- A copy of 64 bytes within the scratchpad, with what it has still to read, and what it has read. -/
def copy0 (todo : List (Nat × Nat)) (read : List (Nat × List Byte)) : Copy :=
  { id := 50, slot := 0, uid := 7, seq := 0, acc := base.accessor 0, src := 0xE000000000001000, dst := 0xE000000000000000, rows := 1, rowBytes := 64
    dstride := 0, sstride := 0, mask := none, waits := [], todo := todo, read := read }
/-- A generator of two elements of 8 bytes, with a token of level 3 after the last. -/
def gen0 (next : Nat) : Generator :=
  { id := 60, slot := 0, uid := 7, port := 56, base := 0xE000000000000000, count := [2, 1, 1, 1], stride := [8, 0, 0, 0], size := 3, signExt := false
    mask := 4, next := next, acc := base.accessor 0 }
/-- The reference accelerator, which pops queue 9 and pushes queue 10. -/
def ref0 (gs : List Gather) : RefAcc :=
  { id := 70, slot := 0, unit := unit0, qd := 61, qa := 60, out := 10, inQueue := some 9, inGen := none, base := 0xE000000000000000, idx64 := true
    el8 := true, acc := base.accessor 0, gathers := gs }
/-- Core 0 with a copy, a generator, the reference accelerator, local queue 0 and a push of 5 to it. -/
def engines (c : Copy) (g : Generator) (r : RefAcc) : State :=
  { queued.modCore 0 (fun x => { x with copies := [c], gens := [(15, g)], ref := some r, local_ := [(0, 10)] }) with
    pushWrites := [{ core := 0, q := 0, data := 5, tag := 0, copy := 1 }, { core := 0, q := 7, data := 5, tag := 0, copy := 1 }] }
theorem witness_CopyGeneratorAndGatherSteps :
    (let s := engines (copy0 [] []) (gen0 1) (ref0 [])
     s.pushWrites[0]? = some { core := 0, q := 0, data := 5, tag := 0, copy := 1 } ∧ Tab.get? (s.core 0).local_ 0 = some 10 ∧
     (Tab.get? s.queues 10).map (·.ring) = some false ∧ (Tab.get? s.queues 10).map (·.room 0) = some true ∧
     s.pushWrites[1]? = some { core := 0, q := 7, data := 5, tag := 0, copy := 1 } ∧ (∀ x ∈ s.pushWrites.take 1, x.core ≠ 0 ∨ x.q ≠ 7) ∧
     Tab.get? (s.core 0).local_ 7 = none ∧ (s.core 0).copies[0]? = some (copy0 [] []) ∧ (copy0 [] []).recorded = false ∧
     (∀ w ∈ s.pushWrites, w.copy ≠ (copy0 [] []).id) ∧ s.stillUnit 0 7 = true ∧
     Tab.get? (s.core 0).gens 15 = some (gen0 1) ∧ s.enginesRest (gen0 1).acc.launch = false ∧ (gen0 1).exhausted = false ∧ (gen0 1).failed = false ∧
     (gen0 0).tokenAfter 0 = 0 ∧ (gen0 1).tokenAfter 1 = 3 ∧ (gen0 1).ahead = [] ∧
     (s.core 0).ref = some (ref0 []) ∧ (ref0 []).failed = false ∧ (ref0 []).closing = false ∧
     s.refHead 0 (ref0 []) = some ({ data := 5, tag := 0 }, none)) := by decide +kernel
/-- A gather that has been popped. -/
def gather0 (v : Option Word) (f : Option Word) : Gather := { elem := { data := 5, tag := 0 }, index := 0, value := v, failed := f }
/-- A generator whose second element lies at an address that does not exist. -/
def genFar : Generator := { gen0 1 with stride := [2 ^ 62, 0, 0, 0] }
def pullFails (x : Pull) : Bool := match x with | .fail c _ _ => c != 0x14 | _ => false
theorem pullFails_of {x : Pull} (h : pullFails x = true) : ∃ c b y, x = .fail c b y ∧ c ≠ 0x14 := by
  cases x with
  | bytes bs s => cases h
  | wait s => cases h
  | fail c a t => exact ⟨c, a, t, rfl, by simpa [pullFails] using h⟩
theorem witness_CopyGeneratorAndGatherSteps_generators :
    (∃ bs t, (engines (copy0 [] []) (gen0 1) (ref0 [])).pull (gen0 1).acc ((gen0 1).address 1) (gen0 1).bytes (engineKey 60 1) = .bytes bs t) ∧
    (∃ c b y, (engines (copy0 [] []) genFar (ref0 [])).pull genFar.acc (genFar.address 1) genFar.bytes (engineKey 60 1) = .fail c b y ∧ c ≠ 0x14) ∧
    (∃ bs t, (engines (copy0 [] []) (gen0 1) (ref0 [gather0 none none])).pull (ref0 []).acc ((ref0 []).address (gather0 none none).elem) 8 (engineKey 70 0) = .bytes bs t) ∧
    (∃ c b y, (engines (copy0 [] []) (gen0 1) (ref0 [gather0 none none])).pull (ref0 []).acc
      (({ ref0 [] with base := 0x0100000000000000 } : RefAcc).address (gather0 none none).elem) 8 (engineKey 70 0) = .fail c b y ∧ c ≠ 0x14) ∧
    (∃ t, (engines (copy0 [] []) (gen0 1) (ref0 [gather0 (some 9) none])).refPush 0 (ref0 [gather0 (some 9) none]) (gather0 (some 9) none) 9 = some t) ∧
    (gather0 none (some 8)).value = none :=
  ⟨pulled_of (by decide +kernel), pullFails_of (by decide +kernel), pulled_of (by decide +kernel), pullFails_of (by decide +kernel),
    some_of (by decide +kernel), rfl⟩
/-- The copy has still to read its last 16 bytes, which it has begun to; or it has read them. -/
def copying1 : State := { engines (copy0 [(48, 16)] []) (gen0 1) (ref0 []) with hostData := [(engineKey 50 48, none)] }
def copying2 : State := engines (copy0 [] [(48, List.replicate 16 3)]) (gen0 1) (ref0 [])
/-- A write of an engine is done, at an address that a statement speaks of. -/
def putsAt (s : State) (c : Copy) (k : Nat) (bs : List Byte) : Bool :=
  match s.put c.acc (c.to_ k) bs (some (engineKey c.id (2 ^ 64 + k))) with
  | .done u => match u.locate c.acc (c.to_ k) with
    | .at_ _ _ => true
    | _ => false
  | _ => false
theorem putsAt_of {s : State} {c : Copy} {k : Nat} {bs : List Byte} (h : putsAt s c k bs = true) : ∃ u l f,
    s.put c.acc (c.to_ k) bs (some (engineKey c.id (2 ^ 64 + k))) = .done u ∧ u.locate c.acc (c.to_ k) = .at_ l f := by
  unfold putsAt at h
  split at h
  · next u hu =>
    split at h
    · next l f hl => exact ⟨u, l, f, hu, hl⟩
    · cases h
  · cases h
theorem witness_CopyGeneratorAndGatherSteps_moves :
    (copying1.nextByte (copy0 [(48, 16)] []) = (48, 16) ∧ copying1.pushTarget (base.accessor 0) ((copy0 [(48, 16)] []).to_ 48) = none ∧
      copying1.deviceAt (base.accessor 0) ((copy0 [(48, 16)] []).from_ 48) = false ∧
      (∃ bs u, copying1.pull (base.accessor 0) ((copy0 [(48, 16)] []).from_ 48) (copying1.pieceOf (copy0 [(48, 16)] []) 48 16) (engineKey 50 48) = .bytes bs u) ∧
      ∃ t, copying1.copyStep (copy0 [(48, 16)] []) = some t) ∧
    ((copying2.core 0).copies[0]? = some (copy0 [] [(48, List.replicate 16 3)]) ∧ copying2.pushTarget (base.accessor 0) ((copy0 [] []).to_ 48) = none ∧
      ∃ u l f, copying2.put (base.accessor 0) ((copy0 [] [(48, List.replicate 16 3)]).to_ 48) (List.replicate 16 3) (some (engineKey 50 (2 ^ 64 + 48))) = .done u ∧
        u.locate (base.accessor 0) ((copy0 [] [(48, List.replicate 16 3)]).to_ 48) = .at_ l f) :=
  ⟨⟨by decide +kernel, by decide +kernel, by decide +kernel, pulled_of (by decide +kernel), some_of (by decide +kernel)⟩,
    ⟨by decide +kernel, by decide +kernel, putsAt_of (c := copy0 [] [(48, List.replicate 16 3)]) (by decide +kernel)⟩⟩

/-- A copy whose source is a page of device registers, and one that is to write a push register of its core through a grant. -/
def deviceCopy : Copy := { copy0 [(0, 64)] [] with src := 0x40000 }
def onDevice : State :=
  { (withPageOf { cls := 2, w := true, frame := 0x38000000 }).modCore 0 (fun c => { c with copies := [deviceCopy] }) with hostData := [(engineKey 50 0, none)] }
def pushCopy : Copy := { copy0 [] [(0, List.replicate 16 3)] with dst := 0xF000300000041000, rowBytes := 16 }
def toPush : State :=
  { engines pushCopy (gen0 1) (ref0 []) with asids := [(1, { base.asidOf 1 with grants := [(7, 0xC000000130000004)] })] }
/-- A copy to an address that does not exist, and one from there. -/
def lostCopy (todo : List (Nat × Nat)) (read : List (Nat × List Byte)) : Copy :=
  { copy0 todo read with src := 0x0100000000000000, dst := 0x0100000000000000 }
def putFails (x : Put) : Bool := match x with | .fail _ => true | _ => false
theorem putFails_of {x : Put} (h : putFails x = true) : ∃ a, x = .fail a := by
  cases x with
  | done s => cases h
  | wait s => cases h
  | fail a => exact ⟨a, rfl⟩
theorem witness_CopyGeneratorAndGatherSteps_faults :
    ((onDevice.core 0).copies[0]? = some deviceCopy ∧ onDevice.nextByte deviceCopy = (0, 64) ∧
      onDevice.pushTarget deviceCopy.acc (deviceCopy.to_ 0) = none ∧ onDevice.deviceAt deviceCopy.acc (deviceCopy.from_ 0) = true) ∧
    ((toPush.core 0).copies[0]? = some pushCopy ∧ toPush.pushTarget pushCopy.acc (pushCopy.to_ 0) = some (0, 0) ∧
      (Tab.get? (toPush.core 0).local_ 0).isSome = true ∧ (∀ w ∈ toPush.pushWrites, w.copy ≠ pushCopy.id)) ∧
    (∃ c b y, copying1.pull (base.accessor 0) ((lostCopy [(0, 16)] []).from_ 0) (copying1.pieceOf (lostCopy [(0, 16)] []) 0 16) (engineKey 50 0) = .fail c b y ∧ c ≠ 0x14) ∧
    (∃ a, copying1.put (base.accessor 0) ((lostCopy [] [(0, [1])]).to_ 0) [1] (some (engineKey 50 (2 ^ 64 + 0))) = .fail a) ∧
    (base.myCore < 768 ∧ (0xE00000000003FFFF : Word).toNat = 0xE0 * 2 ^ 56 + 0x3FFFF ∧ 0x3FFFF % 64 + 1 ≤ 64 ∧ 0x3FFFF + 1 ≤ (base.accessor 0).scratchBound ∧
      (base.accessor 0).scratchBound ≤ 262144 ∧ base.lost = [] ∧ (base.core 0).rings = [] ∧ base.mayAccept (poaCore 0) (base.accessor 0).rank = true) :=
  ⟨by decide +kernel, by decide +kernel, pullFails_of (by decide +kernel), putFails_of (by decide +kernel), by decide +kernel⟩
/-- The accelerator's input is a generator whose next element has failed. -/
def failing : State :=
  engines (copy0 [] []) { gen0 1 with ahead := [({ data := 0, tag := 0 }, some (0x10, 8, 0))] } { ref0 [] with inQueue := none, inGen := some 15 }
/-- A gather that has its value, and one that has failed, stand first. -/
def gathered (g : Gather) : State := engines (copy0 [] []) (gen0 1) (ref0 [g])
theorem witness_CopyGeneratorAndGatherSteps_gathers :
    ((failing.core 0).ref = some { ref0 [] with inQueue := none, inGen := some 15 } ∧
      failing.refHead 0 { ref0 [] with inQueue := none, inGen := some 15 } = some ({ data := 0, tag := 0 }, some (0x10, 8, 0)) ∧
      failing.enginesRest 1 = false) ∧
    (((gathered (gather0 (some 9) none)).core 0).ref = some (ref0 [gather0 (some 9) none]) ∧
      (∃ q, Tab.get? (gathered (gather0 (some 9) none)).queues 10 = some q ∧ q.ring = false ∧ q.room unit0.uid = true)) ∧
    (((gathered (gather0 none (some 8))).core 0).ref = some (ref0 [gather0 none (some 8)]) ∧ (gathered (gather0 none (some 8))).stillUnit 0 7 = true ∧
      ∃ q, Tab.get? (gathered (gather0 none (some 8))).queues 9 = some q) :=
  ⟨by decide +kernel, ⟨by decide +kernel, _, rfl, by decide +kernel, by decide +kernel⟩, by decide +kernel, by decide +kernel, _, rfl⟩

/-- The leased bank with one command at the head of its order, in cycle 200; a lease request of the slot for any bank waits in cluster 0. -/
def commanding (op : TileOp) (started : Option Nat) : State :=
  { (withRings (leased .fp32)).modBank 0 3 (fun b => { b with order := [command op started] }) |>.modCluster 0 fun c =>
    { c with leaseQ := [(0, none, 8)] } with lost := [], cycle := 200 }
/-- A multiplication on the first slots of rings 0 and 7, whose tails have passed them. -/
def mma0 : TileOp := .mma .t8 false none 64 0 0 7 0 none
def multiplyingNow (started : Option Nat) : State := (commanding mma0 started).modCore 0 fun c => { c with
  rings := [(0, { owner := some 1, base := 0, size := 8192, count := 2, tail := 1, next := 1 }),
            (7, { owner := some 1, base := 65536, size := 8192, count := 2, tail := 1, next := 1 })] }
theorem witness_LeaseAndTileSteps :
    ((commanding .zero none).cluster 0).leaseQ = [(0, none, 8)] ∧ (commanding .zero none).bankFor 0 none = some 0 ∧
    ((commanding .zero none).bank 0 0).lastLaunch ≠ some ((commanding .zero none).slot 0).launch ∧
    (((commanding .zero none).modBank 0 0 fun b => { b with lastLaunch := some 1 }).bank 0 0).lastLaunch = some ((commanding .zero none).slot 0).launch ∧
    (((multiplyingNow none).cluster 0).arrayFree ≤ (multiplyingNow none).cycle ∧ (multiplyingNow none).runGoesOn 0 = false ∧
      ((List.range 4).map fun i => (((multiplyingNow none).cluster 0).arbiter + i) % 4).find? ((multiplyingNow none).wantsArray 0) = some 3) ∧
    ((∀ b < 4, (commanding .zero none).wantsArray 0 b = false) ∧
      (((commanding .zero none).modCluster 0 fun c => { c with served := some (3, 0) }).cluster 0).served ≠ none) ∧
    ((commanding .zero none).nextCmd 0 3 = some (command .zero none) ∧ TileOp.zero.usesArray = false) ∧
    ((multiplyingNow none).nextCmd 0 3 = some (command mma0 none) ∧ mma0.usesArray = true ∧ ((multiplyingNow none).cluster 0).arrayBank = none ∧
      (((multiplyingNow none).modCluster 0 fun c => { c with served := some (3, 16) }).cluster 0).served = some (3, 15 + 1)) ∧
    (((commanding .zero (some 112)).bank 0 3).order = [command .zero (some 112)] ∧ (command .zero (some 112)).due 200 = true ∧
      (commanding .zero (some 112)).stillUnit 0 7 = true ∧ (command .zero (some 112)).batch = ((commanding .zero (some 112)).slot 0).batch) ∧
    (((multiplyingNow (some 0)).bank 0 3).order = [command mma0 (some 0)] ∧ (command mma0 (some 0)).due 200 = true) := by decide +kernel
/-- A load, a store and a quantising store of one lane. -/
def load0 : TileOp := .load false 0xE000000000000000 0
def store0 : TileOp := .store .fp32 0xE000000000000000 0
def quant0 : TileOp := .quant 0xE000000000000000 0 0 decl0
theorem witness_LeaseAndTileSteps_memory :
    (∃ t, (commanding load0 (some 0)).retireLoad 0 3 (command load0 (some 0)) false 0xE000000000000000 0 = some t) ∧
    (∃ t, (commanding store0 (some 0)).retireStore 0 3 (command store0 (some 0)) .fp32 0xE000000000000000 0 = some t) ∧
    (∃ t, (commanding quant0 (some 0)).retireQuant 0 3 (command quant0 (some 0)) 0xE000000000000000 0 0 decl0 = some t) ∧
    ((commanding load0 (some 0)).bank 0 3).order = [command load0 (some 0)] ∧ (command load0 (some 0)).due 200 = true ∧
    (command store0 (some 0)).due 200 = true ∧ (command quant0 (some 0)).due 200 = true :=
  ⟨some_of (by decide +kernel), some_of (by decide +kernel), some_of (by decide +kernel), by decide +kernel, by decide +kernel, by decide +kernel,
    by decide +kernel⟩
/-- A scaled multiplication of K = 64, whose scale slots hold their count of blocks or not. -/
def scaled0 : TileOp := .mma .t8 true none 64 0 0 7 0 (some (1, 0, 2, 0))
def scaledNow (count : Byte) : State :=
  let s := (commanding scaled0 (some 0)).modCore 0 fun c => { c with
    rings := [(0, { owner := some 1, base := 0, size := 4096, count := 1 }), (1, { owner := some 1, base := 131072, size := 320, count := 1 }),
              (2, { owner := some 1, base := 262144 - 320, size := 320, count := 1 }), (7, { owner := some 1, base := 65536, size := 8192, count := 1 })] }
  { s with mem := (s.mem.write (scratchPa 0 131072) [count, 0, 0, 0]).write (scratchPa 0 (262144 - 320)) [count, 0, 0, 0] }
/-- Nothing is multiplied. -/
def emptyMma : TileOp := .mma .t8 false none 0 0 0 7 0 none
/-- The first row has all its lanes, and the command the slot's batch. -/
def mmaReady (s : State) (k : TileCmd) (ra qa rb qb : Nat) (n : Nat) : Bool :=
  (s.bank 0 3).order == [k] && k.due s.cycle && s.lost == [] && s.stillUnit k.slot k.uid && k.batch == (s.slot k.slot).batch &&
  decide ((s.ring k.core ra).offset qa + 64 * operandStride .t8 n ≤ 262144 ∧ (s.ring k.core rb).offset qb + 128 * operandStride .t8 n ≤ 262144)
theorem witness_LeaseAndTileSteps_products :
    mmaReady (multiplyingNow (some 0)) (command mma0 (some 0)) 0 0 7 0 64 = true ∧
    (mmaReady (scaledNow 2) (command scaled0 (some 0)) 0 0 7 0 64 = true ∧
      (∀ x ∈ [1, 2], (scaledNow 2).desynced 0 x 0 64 (if x = 1 then 64 else 128) = false) ∧
      ((scaledNow 2).ring 0 2).offset 0 + 64 + 128 * ceilDiv 64 32 ≤ 262144 ∧ ((scaledNow 2).ring 0 1).offset 0 + 64 + 64 * ceilDiv 64 32 ≤ 262144) ∧
    (mmaReady (scaledNow 3) (command scaled0 (some 0)) 0 0 7 0 64 = true ∧ (scaledNow 3).desynced 0 1 0 64 64 = true) ∧
    mmaReady (commanding emptyMma (some 0)) (command emptyMma (some 0)) 0 0 7 0 0 = true := by decide +kernel
/-- The stores of a command have all been made. -/
def tileStored {α : Type} : α ⊕ (State × Option (Nat × Word)) → Bool
  | .inl _ => false
  | .inr _ => true
theorem tileStored_of {α : Type} {x : α ⊕ (State × Option (Nat × Word))} (h : tileStored x = true) : ∃ t e, x = .inr (t, e) := by
  rcases x with y | ⟨t, e⟩
  · cases h
  · exact ⟨t, e, rfl⟩
def allPulled : PullAll → Bool
  | .bytes _ _ => true
  | .wait _ => false
theorem allPulled_of {x : PullAll} (h : allPulled x = true) : ∃ bss e, x = .bytes bss e := by
  cases x with
  | bytes b e => exact ⟨b, e, rfl⟩
  | wait s => cases h
/-- The writes of the quantising store of one lane. -/
def quantWrites (s : State) : List (Word × List Byte) :=
  let c := quantChain .fp16 false 0 (((s.bank 0 3).residue.begin decl0 0).entries.getD 0 0).toNat [bankDecode .fp32 ((s.row 0 3 .fp32 0).getD 0 0)]
  [(0xE000000000000000, c.1.flatMap (bytesLe 2))]
/-- Which batch the command belongs to: one that is closed, with one command left. -/
def closedBatch : State :=
  (commanding .zero (some 0)).modMe fun x => { x with batch := 1, batches := [(0, 0 + 1)], tb := 1 }
theorem witness_LeaseAndTileSteps_regions :
    (let s := commanding load0 (some 0)
     (s.bank 0 3).order = [command load0 (some 0)] ∧ (command load0 (some 0)).due 200 = true ∧ regionFits 0 = true ∧ s.stillUnit 0 7 = true ∧
       (command load0 (some 0)).batch = (s.slot 0).batch ∧
       (∃ bss err, s.pullAll (base.accessor 0) 9 0 (runs 0xE000000000000000 (tileStride 0) (regionOf 0 false).nr ((regionOf 0 false).nl * laneBytes .fp32)) = .bytes bss err) ∧
       s.lost = [] ∧ (base.accessor 0).core < 768 ∧ (base.accessor 0).scratchBound = 262144 ∧ tileStride 0 = ((0 : Nat) : Int) ∧
       (0xE000000000000000 : Word).toNat = 0xE0 * 2 ^ 56 + 0 ∧ 0 + 0 * ((regionOf 0 false).nr - 1) + (regionOf 0 false).nl * laneBytes .fp32 ≤ 262144) ∧
    (let s := commanding store0 (some 0)
     (s.bank 0 3).order = [command store0 (some 0)] ∧ (command store0 (some 0)).due 200 = true ∧
       ∃ t e, s.tileStores (command store0 (some 0)) [(0xE000000000000000, bytesLe 4 (storeCode .fp32 .fp32 0 ((s.row 0 3 .fp32 0).getD 0 0)))] = .inr (t, e)) ∧
    (let s := commanding quant0 (some 0)
     (s.bank 0 3).order = [command quant0 (some 0)] ∧ (command quant0 (some 0)).due 200 = true ∧ s.stillUnit 0 7 = true ∧
       (command quant0 (some 0)).batch = (s.slot 0).batch ∧ ((s.bank 0 3).residue.begin decl0 0).entries.length = 128 ∧
       (regionOf 0 (upperHalf 0)).row0 + (regionOf 0 (upperHalf 0)).nr ≤ 64 ∧ (regionOf 0 (upperHalf 0)).lane0 + (regionOf 0 (upperHalf 0)).nl ≤ laneCount .fp32 ∧
       ∃ t e, s.tileStores (command quant0 (some 0)) (quantWrites s) = .inr (t, e)) :=
  ⟨⟨by decide +kernel, by decide +kernel, by decide +kernel, by decide +kernel, by decide +kernel, allPulled_of (by decide +kernel), by decide +kernel,
      by decide +kernel, by decide +kernel, by decide +kernel, by decide, by decide +kernel⟩,
    ⟨by decide +kernel, by decide +kernel, tileStored_of (by decide +kernel)⟩,
    by decide +kernel, by decide +kernel, by decide +kernel, by decide +kernel, by decide +kernel, by decide +kernel, by decide +kernel,
    tileStored_of (by decide +kernel)⟩
theorem witness_LeaseAndTileSteps_stores :
    (let s := commanding store0 (some 0)
     let k := command store0 (some 0)
     s.stillUnit k.slot k.uid = true ∧ (s.slot k.slot).st < 65535 ∧ k.acc.core = coreOf k.slot ∧ k.acc.core < 768 ∧ k.acc.scratchBound ≤ 262144 ∧
       s.holdsFor k.slot = [] ∧ (∀ y ∈ s.sendings, y.slot ≠ k.slot) ∧ (s.core (coreOf k.slot)).wb = [] ∧ (∀ o ∈ (s.slot k.slot).stores, o.id ≠ s.nextId) ∧
       ∀ w ∈ ([(0xE00000000003FFFF, [1])] : List (Word × List Byte)), w.2 ≠ [] ∧ w.1.toNat = 0xE0 * 2 ^ 56 + 0x3FFFF ∧ 0x3FFFF + w.2.length ≤ k.acc.scratchBound) ∧
    65535 ≤ (((commanding store0 (some 0)).modMe fun x => { x with st := 65535 }).slot 0).st ∧
    ((closedBatch.bank 0 3).order = [command .zero (some 0)] ∧ closedBatch.stillUnit 0 7 = true ∧
      (command .zero (some 0)).batch ≠ (closedBatch.slot 0).batch ∧ (closedBatch.slot 0).batches = [((command .zero (some 0)).batch, 0 + 1)]) := by
  decide +kernel
/-- Numbers, an infinity, a zero and a NaN for the products. -/
def one : Val := .fin false 1 0
def cellMode (m : AccFmt) : CellMode := { f := .t8, dist := none, k := 32, mode := m, rnd := 3, core := 767 }
theorem witness_LeaseAndTileSteps_sums : one.isFin = true ∧ (fp32.decode 0x7FC00000).isNan = true ∧ (fp32.decode 0).isZero = true ∧
    (fp32.decode 0x7F800000).isInf = true ∧ (cellMode .fp32).rnd < 4 ∧ (0x7FC00000 : Nat) < 2 ^ fp32.width ∧
    (∀ t ∈ ([(0, some one)] : List (Nat × Option Val)), t.2.isSome = true) ∧
    (∀ t ∈ ([(0, some one)] : List (Nat × Option Val)), ∃ v, t.2 = some v ∧ v.isNan = false) ∧
    (Val.inf true ∈ [fp32.decode 0x7F800000, .inf true] ∧ Val.inf false ∈ [fp32.decode 0x7F800000, .inf true] ∧
      Val.inf true ∉ [fp32.decode 0x7F800000, one]) ∧
    (fp32.decode 0x3F800000).rat + one.rat * powerOfTwo (-1) ≠ 0 ∧ (fp32.decode 0xBF800000).rat + one.rat * 1 = 0 ∧
    ((1 : Int) : Rat) = ((([(0, some one)] : List (Nat × Option Val)).filterMap (·.2)).map Val.rat).sum ∧ 1 ≤ groupOf .t8 := by
  refine ⟨rfl, by decide +kernel, by decide +kernel, by decide +kernel, by decide, by decide, by decide, fun t ht => ?_,
    ⟨by decide +kernel, by decide +kernel, by decide +kernel⟩, by decide +kernel, by decide +kernel, by decide +kernel, by decide⟩
  rw [List.mem_singleton] at ht
  exact ⟨one, by rw [ht], rfl⟩
theorem witness_LeaseAndTileSteps_chains : (Val.inf true).isFin = false ∧ one.isFin = true ∧ (fp32.decode 0).isFin = true ∧
    (4096 : Rat) < (Val.fin false 4097 0).rat + (fp32.decode 0).rat ∧ (Val.fin true 129 0).rat + (fp32.decode 0).rat < -128 ∧
    one.rat + (fp32.decode 0).rat ≤ 16 ∧ (-16 : Rat) ≤ one.rat + (fp32.decode 0).rat ∧ one.rat + (fp32.decode 0).rat ≠ 0 ∧
    (Val.fin false 0 0).rat + (fp32.decode 0).rat = 0 ∧ (∃ v ∈ [one], v.rat ≠ 0) ∧ (∀ v ∈ [Val.fin false 0 0], v.rat = 0) ∧
    (List.replicate 32 one).length = 32 ∧ -127 ≤ blockExp .t8 [one] ∧ blockExp .t8 [one] < 127 := by decide +kernel
/-- A push of ring 0 waits for a store that has been accepted. -/
def claiming : State := base.modCore 0 fun c => { c with rings := [(0, { owner := some 1, size := 64, tail := 65535, claims := [(0, [5])] })] }
theorem witness_LeaseAndTileSteps_ring : (claiming.ring 0 0).claims = [(0, [5])] ∧ (∀ o ∈ (claiming.slot 0).stores, o.id ∉ [5]) := by decide +kernel
/-- The top-k unit of the cluster pops queue 9 and pushes queue 10 for the slot. -/
def topk0 (out : List Elem) : TopK := { slot := 0, uid := 7, qd := 61, qa := 60, level := 1, largest := true, ikey := true, k := 1, kept := [3], out := out }
def topping (out : List Elem) : State :=
  (queued.modMe fun x => (x.setPort 60 (.lentTopk true 9 0 none)).setPort 61 (.lentTopk false 10 1 none)).modCluster 0 fun c => { c with topk := some (topk0 out) }
theorem witness_TopKAndPostSteps : ((topping []).cluster 0).topk = some (topk0 []) ∧ (topping []).enginesRest ((topping []).slot 0).launch = false ∧
    ((topping []).topkPop (topk0 [])).map (·.1) = some { data := 5, tag := 0 } ∧ (topk0 []).kept.length ≤ (topk0 []).k ∧
    ((topping [{ data := 3, tag := 0 }]).topkPush 0 (topk0 [{ data := 3, tag := 0 }]) { data := 3, tag := 0 }).isSome = true ∧
    (topk0 []).level ≤ ({ data := 0, tag := 3 } : Elem).tag := by decide +kernel
/-- An entry of the inbound queue of die 3, and room in the post ring of the job's port. -/
def posting (kind : Nat) : State :=
  (base.modDie 3 fun d => { d with inbound := [{ time := 0, source := 0, kind := kind, flags := 0, asid := 1, body := [], job := 1 }] }).modPort 0 fun h =>
    { h with rings := [(2, { size := 6 })] }
theorem witness_TopKAndPostSteps_posts : ((posting 1).die 3).inWaiting = [] ∧ ((posting 1).die 3).inbound.map (·.kind) = [1] ∧
    ((posting 2).die 3).inbound.map (·.kind) = [2] ∧ (Tab.getD ((posting 1).port ((posting 1).job 1).port).rings 2 {}).roomy = true := by decide +kernel

/-! ## Witnesses: units, messages, barriers and probes -/

/-- A pushed spawn record waits in device queue 0 of die 0, or a record that names no job waits as a head. -/
def spawned : State :=
  { base with subQs := [(128, { enabled := true, job := 1, asid := 1 })], dies := [(0, { spawnQ := [(0, { tail := 1, entries := [(0, (true, List.replicate 64 0))] })] })] }
def headed : State :=
  { base with subQs := [(0, { enabled := true, job := 1, asid := 1, waiting := [2] })]
              launches := [(1, { job := 1, asid := 1, placed := true, count := 1 }), (2, { job := 1, asid := 1, faults := [3], count := 1 })] }
/-- Slot 0 has stopped at halt; a fork of the same root runs in slot 1. -/
def halted : State :=
  { base with slots := [(0, { status := .stopped, unit := some { unit0 with how := 1 } }), (1, { status := .running, unit := some { unit0 with uid := 8, kind := .forked } })] }
/-- A thread that waits or rests. -/
def thread0 : Thread := { slot := { regs := Vector.replicate 50 3, unit := some { unit0 with uid := 9 } }, core := 0 }
/-- A waiting task, a resting parent, a cancellation and two spawns; the stage declares some scratchpad, of a core that is free. -/
def waiting (tail scratch : Nat) : State :=
  { base.modLaunch 1 (fun l => { l with tasks := [thread0], resting := [(9, thread0)], kernel := { stages := [{ scratch := scratch }] } }) with
    cancels := [{ level := .launch, key := 1, sent := some 0 }], spawns := [{ slot := 0, die := 3, index := 15, record := List.replicate 64 1, id := 5 }]
    dies := [(3, { spawnQ := [(15, { tail := tail })] })], cycle := 64 }
theorem witness_UnitsComeAndGo : (∃ t, spawned.placement = some t) ∧
    (deviceQueues.findSome? headed.takeSpawn).isNone = true ∧ (headed.subQs.keys.findSome? headed.takeRecord).isNone = true ∧ headed.heads = [(0, 2)] ∧
    headed.failReason (headed.launch 2) = some 3 ∧
    (halted.slot 0).unit = some { unit0 with how := 1 } ∧ (halted.slot 0).status = .stopped ∧ (halted.slot 0).st = 0 ∧ (halted.slot 0).tb = 0 ∧
    ((waiting 255 0).launch 1).tasks = [thread0] ∧ (waiting 255 0).frozen 1 = false ∧ (waiting 255 0).mayStart thread0 = true ∧
    (waiting 255 0).restingOf 9 = some (1, thread0) ∧ thread0.slot.unit = some { unit0 with uid := 9 } ∧ ({ unit0 with uid := 9 } : UnitInfo).children = 0 ∧
    (∃ t, (waiting 255 0).placeTask 1 thread0 = some t) ∧ (((waiting 255 0).launch 1).stage 0).scratch = 0 ∧
    (∃ t, (waiting 255 64).placeTask 1 thread0 = some t) ∧ (((waiting 255 64).launch 1).stage 0).scratch ≠ 0 ∧ ((waiting 255 64).core 0).scratchOwner = none ∧
    (waiting 255 0).cancels = [{ level := .launch, key := 1, sent := some 0 }] ∧ (waiting 255 0).crossed 0 1 (some 0) = true ∧
    (Tab.getD ((waiting 255 0).die 3).spawnQ 15 {}).tail - (Tab.getD ((waiting 255 0).die 3).spawnQ 15 {}).head < 256 ∧
    256 ≤ (Tab.getD ((waiting 256 0).die 3).spawnQ 15 {}).tail - (Tab.getD ((waiting 256 0).die 3).spawnQ 15 {}).head ∧ base.cycle % 1024 = 0 ∧ base.cycle % 64 = 0 := by
  refine ⟨some_of (by decide +kernel), by decide +kernel, by decide +kernel, by decide +kernel, by decide +kernel, holds (by decide +kernel), by decide +kernel,
    by decide +kernel, by decide +kernel, by decide +kernel, holds (by decide +kernel), by decide +kernel, by decide +kernel, by decide +kernel, rfl,
    some_of (by decide +kernel), by decide +kernel, some_of (by decide +kernel), ?_⟩
  decide +kernel
/-- Launches 2 and 3 wait at the heads of queues 191 and 0, of priorities 7 and 0: two stages with a queue between them and four barriers,
and one stage; `n` is how many barriers the first asks for, and `k` how often its queue has been passed over. -/
def placing (n k : Nat) : State :=
  { base with
    subQs := [(0, { enabled := true, job := 1, asid := 1, waiting := [3] }), (191, { enabled := true, job := 1, asid := 1, prio := 7, passes := k, waiting := [2] })]
    launches := [(1, { job := 1, asid := 1, placed := true, count := 1, cores := [0] }),
      (2, { job := 1, asid := 1, queue := 191, count := 2, image := 0x40000, args := [5], stackBytes := 0, kernel :=
        { stages := [{ entry := 64, scratch := 64 }, { entry := 128 }], barriers := n
          queues := [{ depth := 4, ring := false, from_ := 0, fromPort := 61, to_ := 1, toPort := 60 }] } }),
      (3, { job := 1, asid := 1, count := 1, stackBytes := 0, kernel := { stages := [{ entry := 64 }] } })] }
/-- Only the first waits. -/
def placingOne : State := { placing 64 0 with subQs := [(191, { enabled := true, job := 1, asid := 1, prio := 7, waiting := [2] })] }
def headsReady (s : State) : Bool :=
  (deviceQueues.findSome? s.takeSpawn).isNone && (s.subQs.keys.findSome? s.takeRecord).isNone &&
  s.heads.all fun e => (s.failReason (s.launch e.2)).isNone && s.predsDone (s.launch e.2) && !s.frozen e.2
theorem witness_UnitsComeAndGo_placed :
    (headsReady placingOne = true ∧ placingOne.heads = [(191, 2)] ∧ (placingOne.subQ 191).prio < 8 ∧ (placingOne.place 2).isSome = true) ∧
    (headsReady (placing 4 0) = true ∧ (placing 4 0).heads = [(0, 3), (191, 2)] ∧ ((placing 4 0).subQ 0).prio < ((placing 4 0).subQ 191).prio ∧
      ((placing 4 0).subQ 0).passes < 64 ∧ ((placing 4 0).place 2).isSome = true) ∧
    (headsReady (placing 2000000 63) = true ∧ ((placing 2000000 63).place 2).isNone = true ∧ ((placing 2000000 63).place 3).isSome = true ∧
      ((placing 2000000 63).subQ 191).passes < 64) ∧
    (headsReady (placing 2000000 64) = true ∧ ((placing 2000000 64).place 2).isNone = true ∧ 64 ≤ ((placing 2000000 64).subQ 191).passes) ∧
    ((placing 4 0).startUnit 2 767 0 .stage true).isSome = true := by decide +kernel
/-- The last unit of its launch has stopped, with an error that nothing has reported or without; and a running unit of a launch. -/
def lastOne (pend : List AsyncError) : State :=
  { base with slots := [(0, { status := .stopped, unit := some { unit0 with how := 1 }, pend := pend })] }
theorem witness_UnitsComeAndGo_ended :
    (((lastOne []).slot 0).unit = some { unit0 with how := 1 } ∧ ((lastOne []).slot 0).status = .stopped ∧ ((lastOne []).slot 0).pend = [] ∧
      ((lastOne []).launch 1).count = 1 ∧ ((lastOne []).launch 1).status = 0 ∧ ((lastOne []).slot 0).cp = 0) ∧
    (((lastOne [{ cause := 0x10, addr := 8, seq := 3, order := 1, batch := none }]).slot 0).pend ≠ []) ∧
    (({ halted with launches := [(1, { job := 1, asid := 1, placed := true, count := 2, cores := [0] })] } : State).launch 1).count = 2 ∧
    (halted.slot 0).pend = [] ∧ unit0.parent = none ∧ coreOf 1 = coreOf 0 ∧ (halted.slot 1).launch = 1 ∧ (halted.slot 1).unit.isSome = true ∧
    (base.launch 1).status = 0 ∧ (base.slot 0).unit = some unit0 ∧ (base.slot 0).status = .running := by decide +kernel
/-- The input of the launch's stage 0 is more than half full, as at the sample before; the stage may have `n` replicas. -/
def pressing (n : Nat) : State :=
  { queued.modLaunch 1 (fun l => { l with queueIds := [9], crowded := [(3, 0)], stackBytes := 0, kernel := { stages := [{ entry := 64, replicas := n }], queues :=
      [{ depth := 3, ring := false, from_ := 0, fromPort := 61, to_ := 0, toPort := 60 }] } }) with
    queues := [(9, { queueOf [{ data := 5, tag := 0 }, { data := 6, tag := 0 }] with depth := 3 })] }
theorem witness_UnitsComeAndGo_replica :
    ((pressing 1).inputsOf 1 0).map (fun x => (x.1, decide (x.2.2.depth < 2 * (x.2.2.elems.length + x.2.2.backlog.length)))) = [(0, true)] ∧
    (3, 0) ∈ ((pressing 1).launch 1).crowded ∧ (pressing 1).stageUnits 1 0 < (((pressing 1).launch 1).stage 0).replicas + 1 ∧
    (pressing 1).canHold 1 ((pressing 1).emptiest (coresOfDie 3)) (((pressing 1).launch 1).stage 0) ((pressing 1).launch 1).kernel.rings 0 = true ∧
    ((pressing 1).startUnit 1 ((pressing 1).emptiest (coresOfDie 3)) 0 .replica false).isSome = true ∧
    (((pressing 0).launch 1).stage 0).replicas + 1 ≤ (pressing 0).stageUnits 1 0 ∧ (0, 0) ∉ ((pressing 1).launch 1).crowded := by decide +kernel
/-- A replica has waited for 8,192 cycles. -/
def idling : State :=
  { base.modMe fun x => { x with status := .parked (.portEmpty 60 0), unit := some { unit0 with kind := .replica, idleSince := some 0 } } with cycle := 8192 }
/-- Twelve slots of core 0 run movable units; one more unit of the launch rests on the core of a migration's origin. -/
def crowd : State := { base with slots := (List.range 12).map fun g => (g, { status := .running, unit := some { unit0 with uid := 20 + g, root := 20 + g } }) }
/-- Slot 0 is reserved for a thread that moves to core 1. -/
def leaving (back : Bool) : State :=
  { crowd.modSlot 0 Slot.reserved with
    migrations := [{ origin := 0, release := 5, target := 1, thread := { crowd.slot 0 with regs := Vector.replicate 50 4 }, back := back }] }
/-- Core 1 has no empty slot. -/
def crowded : State := { leaving false with slots := (leaving false).slots ++ (List.range 16).map fun g => (16 + g, { status := .running, unit := some { unit0 with uid := 50 + g } }) }
theorem witness_UnitsComeAndGo_moves : (idling.slot 0).idledOut idling.cycle = true ∧ idling.waitsEmpty (idling.slot 0) = true ∧
    ((slotsOf 0).find? (fun h => (crowd.slot h).runs && crowd.movable (crowd.slot h)) = some 0 ∧ crowd.cycle % 4096 = 0 ∧ crowd.loadOf 0 = 12 ∧
      crowd.loadOf (crowd.leastLoaded (clusterOf 0)) + 4 ≤ crowd.loadOf 0 ∧ (crowd.emptyOn (crowd.leastLoaded (clusterOf 0))).isSome = true ∧
      crowd.frozen (crowd.slot 0).launch = false ∧ (crowd.core 0).wb = []) ∧
    ((leaving false).migrations.map (·.back) = [false] ∧ ((leaving false).migrations.all fun m => !(leaving false).migrationVoid m) = true ∧
      ((leaving false).slot 0).releases = [] ∧ (leaving false).emptyOn 1 = some 16 ∧ coreOf 1 = coreOf 0 ∧
      ((leaving false).slot 1).launch = ((leaving false).slot 0).launch ∧ ((leaving false).slot 1).unit.isSome = true) ∧
    crowded.emptyOn 1 = none ∧ (crowded.migrations.all fun m => !crowded.migrationVoid m) = true ∧
    ((leaving true).migrations.find? (·.back)).isSome = true ∧ ((leaving true).migrations.all fun m => !(leaving true).migrationVoid m) = true := by
  decide +kernel

/-- Barrier 0 of the launch, object 5 of die 3, has two members, of which the second has arrived; the first arrives, and an answer to the
slot has been under way for long enough. -/
def gate0 : Barrier := { launch := some 1, members := [(7, 0), (8, 1)] }
def arrive0 : BarrierReq := { slot := 0, uid := 7, launch := 1, n := 0, kind := 0, sent := some 0 }
def heard (join full : Bool) : BarrierAns := { uid := 7, n := 0, p := 0, c := 1, join := join, full := full, sent := some 0 }
def gathering (join full : Bool) : State :=
  { (base.modLaunch 1 fun l => { l with barrierDie := 3, barrierIds := [5] }).modMe fun x =>
      if join then { x with status := .parked .own, pending := some (misses .none 1), thand := 128 } else x with
    dies := [(3, { barriers := [(5, gate0)] })], barReqs := [arrive0], barAns := [heard join full], mails := [letter], cycle := 64 }
/-- Ring queue 10 with elements on their way: one that may hop on, one that has come to its home. -/
def flight0 (hop : Nat) : Flight := { elem := { data := 6, tag := 0 }, by_ := 7, die := 0, hop := hop, last := 1, sent := some 0 }
def ring0 (hop : Nat) : Queue := { launch := 1, entry := 1, ring := true, core := 192, slotNo := 1, depth := 8, flights := [flight0 hop] }
def flying (hop : Nat) : State := { ringed with queues := Tab.set ringed.queues 10 (ring0 hop), cycle := 64 }
/-- A probe that has no sample, one that has its first, and a pre-emption that is late, or in a step of its own. -/
def probe0 (x : Option (Nat × List DieSample)) : Probe := { launch := 1, slot := 0, core := 0, box := 15, dev := true, number := 3, sample := x }
def probing (x : Option (Nat × List DieSample)) : State := { base with probes := [probe0 x], cycle := 64 }
def preempting : State := { base with slots := [], preempts := [{ port := 0, seq := 1, level := .launch, key := 1, deadline := 0 }] }
def step0 (k : Nat) (late : Bool) : PreEmption := { port := 0, seq := 1, level := .launch, key := 1, deadline := 2 ^ 40, phase := k, late := late }
def inStep (k : Nat) (late : Bool) : State :=
  { base.modCore 0 fun x => { x with copies := [{ copy0 [(0, 64)] [] with acc := { base.accessor 0 with launch := 1 } }] } with preempts := [step0 k late] }
theorem gathering_lastOf (full : Bool) (h : ((gathering true full).slot 0).pending = some (misses .none 1) := by decide +kernel)
    (h' : ((gathering true full).slot 0).status = .parked .own := by decide +kernel) (h'' : ((gathering true full).slot 0).stopAsked = false := by decide +kernel) :
    (gathering true full).LastOf 0 (misses .none 1) := ⟨h, h', h'', rfl, rfl, rfl, by cases full <;> decide +kernel⟩
theorem witness_MessagesBarriersAndProbes :
    ((gathering false false).barReqs[0]? = some arrive0 ∧ ((gathering false false).launch 1).barrierIds[0]? = some 5 ∧
      (gathering false false).crossed (dieOf 0) 3 arrive0.sent = true ∧ ((gathering false false).launch 1).barrierDie = 3 ∧
      Tab.get? ((gathering false false).die 3).barriers 5 = some gate0 ∧ (gate0.last.1 ≠ 64 ∨ gate0.last.2 ≤ 0)) ∧
    (arrive0.kind = 0 ∧ Tab.get? gate0.members arrive0.uid = some 0 ∧ gate0.c < (gate0.apply arrive0).c) ∧
    ((gathering false false).barAns[0]? = some (heard false false) ∧ (gathering false false).slotOfUnit 7 = some 0 ∧
      (gathering false false).crossed 3 (dieOf 0) (heard false false).sent = true ∧ ((gathering false false).slot 0).launch = 1) ∧
    ((gathering true false).barAns[0]? = some (heard true false) ∧ (gathering true false).LastOf 0 (misses .none 1) ∧
      (gathering true true).barAns[0]? = some (heard true true) ∧ (gathering true true).LastOf 0 (misses .none 1) ∧
      ((gathering true true).slot 0).handles = true) ∧
    ((gathering false false).mails[0]? = some letter ∧ (gathering false false).crossed letter.dieFrom (dieOfCore letter.core) letter.sent = true ∧
      (gathering false false).mailWelcome letter = true ∧ Tab.get? ((gathering false false).core 0).mail 15 = none ∧
      ((gathering false false).core 0).waitMail = [] ∧ letter.op = none) :=
  ⟨by decide +kernel, by decide +kernel, by decide +kernel, ⟨by decide +kernel, gathering_lastOf .., by decide +kernel, gathering_lastOf .., by decide +kernel⟩,
    by decide +kernel⟩
theorem witness_MessagesBarriersAndProbes_queues :
    (Tab.get? (flying 0).queues 10).map (·.flights) = some [flight0 0] ∧ (flight0 0).hop < (flight0 0).last ∧
    (Tab.get? (flying 1).queues 10).map (·.flights) = some [flight0 1] ∧ (flight0 1).hop = (flight0 1).last ∧ (flight0 1).elem.oseg = none ∧
    (flying 1).crossed (flight0 1).die (dieOfCore 192) (flight0 1).sent = true ∧
    (Tab.get? (flying 1).queues 10).map (·.backlog) = some [] ∧ (Tab.get? (flying 1).queues 10).map (·.elems.length) = some 0 ∧
    (probing none).probes.findIdx? (·.sample.isNone) = some 0 ∧ (probing none).probes[0]? = some (probe0 none) ∧
    (probing (some (0, []))).probes.find? (·.due 64) = some (probe0 (some (0, []))) ∧ (preempting.preempts.find? preempting.overdue).isSome = true ∧
    (preempting.preempts.findSome? preempting.preemptStep).isSome = true ∧
    ((inStep 3 false).preempts = [step0 3 false] ∧ ∀ e ∈ (inStep 3 false).objectSlots ((inStep 3 false).launchesOf .launch 1), e.2.ld = 0) ∧
    ((inStep 5 true).preempts = [step0 5 true] ∧ (inStep 5 true).copiesOf ((inStep 5 true).launchesOf .launch 1) ≠ []) ∧
    ((inStep 6 false).preempts = [step0 6 false] ∧ (inStep 6 false).retrain = []) := by decide +kernel
/-- Elements of ring queue 10 stand at ports on the way from die 0 to die 1; the link between them has had `n` flit failures in a row. -/
def hopping (fs : List Flight) (n : Nat) : State :=
  { ringed with queues := Tab.set ringed.queues 10 { ring0 0 with flights := fs }, links := if n = 0 then [] else [(linkAt (eavePort 0 1), n)] }
/-- An element of producer `u` that has passed into `h` of two ports. -/
def element (u h : Nat) : Flight := { flight0 h with by_ := u, last := 2 }
theorem witness_MessagesBarriersAndProbes_hops :
    ((Tab.get? (hopping [element 7 1] 0).queues 10).map (·.flights) = some [element 7 1] ∧ (element 7 1).hop < (element 7 1).last ∧
      (element 7 1).portAt (dieOfCore 192) 1 = some (eavePort 0 1) ∧ (element 7 1).portAt (dieOfCore 192) 2 = some (eavePort 1 0) ∧
      (hopping [element 7 1] 0).linkOpen (eavePort 0 1) = true) ∧
    ((Tab.get? (hopping [element 7 1, element 7 1, element 7 0] 0).queues 10).map (·.flights) = some [element 7 1, element 7 1, element 7 0] ∧
      (element 7 0).portAt (dieOfCore 192) 1 = (element 7 1).portAt (dieOfCore 192) (element 7 1).hop) ∧
    16 ≤ Tab.getD (hopping [element 7 1] 16).links (linkAt (eavePort 0 1)) 0 := by decide +kernel
/-- A pre-emption of launch 1 in step `k`, awaiting `w`; slot 0 runs, or has stopped. -/
def halting (k : Nat) (status : Status) (w : List (Nat × Nat)) : State :=
  { base.modMe (fun x => { x with status := status }) with preempts := [{ step0 k false with waits := w }] }
theorem witness_MessagesBarriersAndProbes_steps :
    ((halting 1 .stopped []).launchesOf .launch 1 = [1] ∧ (halting 1 .stopped []).objectStopped [1] ((halting 1 .stopped []).objectSlots [1]) = true ∧
      ((halting 1 .stopped []).objectSlots [1]).map (·.1) = [0]) ∧
    (((halting 1 .running []).objectSlots [1]).map fun e => (e.1, e.2.status == .stopped)) = [(0, false)] ∧
    ((halting 2 .stopped [(0, 3)]).releasesDone { step0 2 false with waits := [(0, 3)] } ((halting 2 .stopped [(0, 3)]).objectSlots [1]) = true ∧
      (halting 2 .stopped [(0, 3)]).sendsDone [1] = true) ∧
    ((halting 4 .stopped [(0, 3)]).enginesDone [1] ((halting 4 .stopped [(0, 3)]).objectSlots [1]) = true ∧
      (halting 4 .stopped [(0, 3)]).releasesDone { step0 4 false with waits := [(0, 3)] } ((halting 4 .stopped [(0, 3)]).objectSlots [1]) = true) ∧
    (halting 5 .stopped []).copiesOf [1] = [] ∧ ((inStep 5 false).preempts = [step0 5 false] ∧ (inStep 5 false).copiesOf [1] ≠ []) ∧
    ((halting 6 .stopped []).objectStopped [1] ((halting 6 .stopped []).objectSlots [1]) = true ∧ (halting 6 .stopped []).retrain = [] ∧
      ((halting 6 .stopped []).launch 1).status = 0 ∧ ((halting 6 .stopped []).launch 1).cancelled = false ∧
      ((halting 6 .stopped []).launch 1).placed = true ∧ ((halting 6 .stopped []).launch 1).saved = none ∧
      ((halting 6 .stopped []).slot 0).unit = some unit0) := by decide +kernel

/-! ## Witnesses: commands of the hosts -/

/-- Another command of port 0 runs; job 2 is of port 1, job 3 is complete, job 4 is still counted. -/
def hosted (busy : Option Nat) : State :=
  { base.modPort 0 (fun hp => { hp with busy := busy }) with
    jobs := [(1, { asid := 1, port := 0 }), (2, { asid := 2, port := 1 }), (3, { asid := 3, port := 0, status := 1 }), (4, { asid := 4, port := 0, count := 1 })]
    nextJob := 5 }
theorem hosted_commands : (hosted none).Commands 0 := ⟨by decide, rfl, by decide +kernel, by decide +kernel⟩
/-- Job 1 is an open job of port 0 of a state in which port 0 is idle and the job is as at first. -/
theorem openJob_of {s : State} {n : Nat} {j : Job} (hr : s.ready = true) (hp : (s.port 0).d3 = false ∧ (s.port 0).busy = none)
    (hj : Tab.get? s.jobs n = some j) (ho : j.port = 0 ∧ j.status = 0) : s.OpenJob 0 n j :=
  ⟨⟨by decide, hr, hp.1, hp.2⟩, hj, ho.1, ho.2⟩
theorem witness_CommandsRefused : (∃ mk : Nat → Nat → Nat → Instr, mk = .closeJob ∧ mk 0 1 9 = .closeJob 0 1 9) ∧
    (((hosted (some 3)).port 0).d3 = false ∧ ((hosted (some 3)).port 0).busy ≠ none ∧ State.reset.ready = false ∧ (State.reset.port 1).d3 = false) ∧
    ((hosted none).Commands 0 ∧ Tab.get? (hosted none).jobs 9 = none) ∧
    (Tab.get? (hosted none).jobs 2).map (·.port) = some 1 ∧ (Tab.get? (hosted none).jobs 3).map (fun j => (j.port, j.status)) = some (0, 1) :=
  ⟨⟨_, rfl, rfl⟩, by decide +kernel, ⟨hosted_commands, by decide +kernel⟩, by decide +kernel, by decide +kernel⟩
theorem witness_CommandsCarriedOut : ((hosted none).Commands 0 ∧ (hosted none).asidHeld 3 = false ∧ (∀ b, 1 ≤ b → b < 3 → (hosted none).asidHeld b = true)) ∧
    ((hosted none).OpenJob 0 1 { asid := 1, port := 0 } ∧ (hosted none).queueTaken (64 * 0 + 63) 1 = false ∧ (hosted none).queueTaken (128 + 16 * 3 + 15) 1 = false) ∧
    (hosted none).OpenJob 0 4 { asid := 4, port := 0, count := 1 } ∧
    ((hosted none).Commands 0 ∧ 1023 < 1024 ∧ (hosted none).accelId = none ∧ { hosted none with accelId := some 1023 }.accelId = some 1023) ∧
    (lowestFree (hosted none).groups 256 = some 0 ∧ 1 ≤ [1023].length ∧ ∀ i ∈ [1023], i < 1024) :=
  ⟨⟨hosted_commands, by decide +kernel, by intro b h1 h2; have : b = 1 ∨ b = 2 := by omega
                                           rcases this with rfl | rfl <;> decide +kernel⟩,
    ⟨openJob_of rfl (by decide +kernel) (by decide +kernel) ⟨rfl, rfl⟩, by decide +kernel, by decide +kernel⟩,
    openJob_of rfl (by decide +kernel) (by decide +kernel) ⟨rfl, rfl⟩, ⟨hosted_commands, by decide, by decide +kernel, rfl⟩, by decide +kernel⟩
/-- A job with a range of one page of normal class, which may be read and written. -/
def job0 : Job := { asid := 1, port := 0, ranges := [{ va := 0x40000, bytes := 65536, attrs := mapWord }] }
  where mapWord : Word := leafOf { w := true }
/-- The page is mapped for the job; its address space has a key. -/
def mapped : State := { withPage with jobs := [(1, job0)], cores := [] }
/-- Word 4 of MAP_RANGE for a page of device class. -/
def deviceWord : Word := BitVec.ofNat 64 (2 ^ 61 + 3 + doorbellPa 3 3)
theorem mapped_open : mapped.OpenJob 0 1 job0 := openJob_of (by decide +kernel) (by decide +kernel) rfl ⟨rfl, rfl⟩
theorem witness_CommandsCarriedOut_maps :
    (mapped.OpenJob 0 1 job0 ∧ rangeOk 0x50000 65536 = true ∧ job0.ranges.any (·.meets 0x50000 65536) = false ∧
      mapped.leafOk 1 (partsOfWord job0.mapWord) (65536 / 65536) = true ∧
      ∃ t, State.mapPages 1 (partsOfWord job0.mapWord) (0 % 8) ((mapped.stepctr + bits (0 : Word) 39 3) % 2 ^ 64) (65536 / 65536) 0x50000 mapped = some t) ∧
    (rangeOk 0x40000 65536 = true ∧ job0.covers 0x40000 65536 = true ∧ (mapped.sendFrames (mapped.framesIn 1 0x40000 65536)).unmappable 1 0x40000 65536 = true) ∧
    (job0.covers (0x4FFFF / 65536 * 65536) (ceilDiv (0x4FFFF + 1) 65536 * 65536 - 0x4FFFF / 65536 * 65536) = true ∧ lowestFree mapped.exports 16 = some 0) ∧
    (0x40000 % 16384 = 0 ∧ job0.normalAt 0x40000 = true ∧ Tab.get? (mapped.die 3).rings 3 = none ∧
      ∃ t, mapped.mapPage 1 0x50000 { cls := 2, r := true, w := true, frame := doorbellPa 3 3 / 65536 } 0 0 = some t) :=
  ⟨⟨mapped_open, by decide +kernel, by decide +kernel, by decide +kernel, some_of (by decide +kernel)⟩, by decide +kernel, by decide +kernel,
    by decide +kernel, by decide +kernel, by decide +kernel, some_of (by decide +kernel)⟩
/-- A pre-emption of launch 1 is over, and nothing of the launch was saved. -/
def preempted : State :=
  { base with launches := [(1, { job := 1, asid := 1, placed := true, count := 1, cores := [0], graph := 2, tag := 3 })]
              preempts := [{ port := 0, seq := 1, level := .launch, key := 1, deadline := 0, phase := 7, saveStacks := 2 ^ 11 }], retrain := [10] }
theorem witness_CommandsCarriedOut_objects : preempted.OpenJob 0 1 { asid := 1, port := 0 } ∧ preempted.objectNamed 1 4 0 = some (.job, 1) ∧
    preempted.objectNamed 1 1 (2 * 2 ^ 16 + 3) = some (.launch, 1) ∧
    ((preempted.slot 0).unit = some unit0 ∧ unit0.launch ∈ preempted.launchesOf .launch 1 ∧ unit0.how = 0 ∧ (preempted.slot 0).status = .running ∧
      (preempted.slot 0).stopAsked = false) ∧
    (∃ x, preempted.preempts.find? (fun y => y.level == .launch && y.key == 1 && y.done) = some x) ∧ preempted.canResume (preempted.launchesOf .launch 1) = true ∧
    ∀ i ∈ preempted.retrain, 2 ^ 11 / 2 ^ i % 2 = 0 :=
  ⟨openJob_of rfl (by decide +kernel) (by decide +kernel) ⟨rfl, rfl⟩, by decide +kernel, by decide +kernel, by decide +kernel, some_of (by decide +kernel),
    by decide +kernel, by decide +kernel⟩

/-- Queue 63 of port 1 is bound to job 2, its head is at the end of the numbers; a window opens on ASID 1. -/
def rung : State :=
  { withPage with jobs := [(1, { asid := 1, port := 1 }), (2, { asid := 2, port := 1 })]
                  subQs := [(127, { enabled := true, job := 2, asid := 2, head := 2 ^ 32 - 1, tail := 2 ^ 32 - 1 })] } |>.modPort 1
    fun hp => { hp with window := [(0, BitVec.ofNat 64 (2 ^ 63 + 2 ^ 62 + 2 ^ 48))] }
/-- A window of port 0 opens on ASID 1, and who accesses memory through it. -/
def windowed : State :=
  { withPage with jobs := [(1, { asid := 1, port := 0 })] } |>.modPort 0 fun hp => { hp with window := [(0, BitVec.ofNat 64 (2 ^ 63 + 2 ^ 62 + 2 ^ 48))] }
def windowAccessor0 : Accessor :=
  { pageAccessor (768 + 4 * dieOfPort 0) (bits (windowed.windowValue 0 (Tab.getD (windowed.port 0).window (0x40FFF / 2 ^ 30) 0)) 59 48) with source := some (13424 + 0) }
/-- A read of host memory by slot 0, whose instruction waits for a piece of two bytes, and one by an engine. -/
def hostPart0 : Part := { off := 0, a := 0x40000, pa := 0x200000040000, n := 2 }
def hostRead0 : HostRead := { who := some (0, 7), pas := [0x200000040000, 0x200000040001], id := 4 }
def reading : State :=
  { base.modMe fun x => { x with status := .parked .own, pending := some { id := 4, len := 2, finish := .load .i16 50, parts := [hostPart0] } } with
    hostReads := [hostRead0, { hostRead0 with who := none, id := engineKey 0 1 }] }
theorem witness_HostRegistersAndReads :
    (rung.ready = true ∧ (rung.port 1).d3 = false ∧ (rung.subQ (64 * 1 + 63)).enabled = true ∧ (rung.job (rung.subQ (64 * 1 + 63)).job).closed = false ∧
      (255 + 2 ^ 32 - (rung.subQ (64 * 1 + 63)).head) % 2 ^ 32 ≤ 256) ∧
    (256 < (256 + 2 ^ 32 - (rung.subQ (64 * 1 + 63)).head) % 2 ^ 32 ∧ (rung.subQ (64 * 1 + 0)).enabled = false) ∧ rung.queueOpen (64 * 1 + 63) = true ∧
    (rung.writeBar0 1 0x144 4 5).isSome = true ∧ (rung.writeBar0 1 0x80 8 5).isSome = true ∧ (Tab.getD (rung.port 1).rings 2 {}).held = [] ∧
    ((Tab.getD (rung.port 1).window (2 ^ 30 / 2 ^ 30) 0).getLsbD 63 = false ∧ 2 ^ 30 % 4096 + 4096 ≤ 4096) ∧
    (windowed.windowValue 0 (Tab.getD (windowed.port 0).window (0x40FFF / 2 ^ 30) 0)).getLsbD 63 = true ∧ 0x40FFF % 4096 + 1 ≤ 4096 ∧
    windowed.classAt windowAccessor0 0x40FFF ≠ some .device ∧
    (∃ bs t, windowed.pull windowAccessor0 (BitVec.ofNat 64 0x40FFF) 1 (engineKey 0 (4 + 0)) = .bytes bs t) ∧
    (∃ t, windowed.put windowAccessor0 (BitVec.ofNat 64 0x40FFF) [3] (some (engineKey 0 (6 + 0))) = .done t) ∧
    (reading.hostReads[0]? = some hostRead0 ∧ reading.hostReadLeft hostRead0 = true ∧ hostRead0.who = some (0, 7) ∧
      (reading.partsUnder 0 hostRead0.id).filter (fun p => !p.answered && hostRead0.pas.contains p.pa) = [hostPart0] ∧
      hostRead0.pas.head? = some hostPart0.pa ∧ ([1, 2] : List Byte).length = hostRead0.pas.length ∧
      reading.hostReads[1]? = some { hostRead0 with who := none, id := engineKey 0 1 } ∧
      reading.hostReadLeft { hostRead0 with who := none, id := engineKey 0 1 } = true) :=
  ⟨by decide +kernel, by decide +kernel, by decide +kernel, by decide +kernel, holds (by decide +kernel), by decide +kernel, by decide +kernel, by decide +kernel, by decide +kernel, holds (by decide +kernel),
    pulled_of (by decide +kernel), put_of (by decide +kernel), by decide +kernel⟩
/-- A write to the page at 0x40000 is on its way. -/
def unmapping : State := { mapped with net := [{ core := 0, poa := 0, tag := none, body := .write [((mapped.framesIn 1 0x40000 65536).headD 0, 1)] }] }
/-- Launch 1 is preempted with 17 threads of one core: there are 16 slots. -/
def crowdedOut : State := { preempted with slots := [], launches := [(1, { job := 1, asid := 1, placed := true, saved := some (List.replicate 17 thread0) })] }
theorem witness_CommandsCarriedOut_waiting :
    (mapped.OpenJob 0 1 job0 ∧ rangeOk 0x40000 65536 = true ∧ job0.covers 0x40000 65536 = true) ∧
    (unmapping.sendFrames (unmapping.framesIn 1 0x40000 65536)).unmappable 1 0x40000 65536 = false ∧
    (preempted.cancelObjectNow .launch 1).objectOver .launch 1 = false ∧
    ({ preempted with slots := [], launches := [(1, { job := 1, asid := 1, status := 1 })] }.cancelObjectNow .launch 1).objectOver .launch 1 = true ∧
    crowdedOut.canResume (crowdedOut.launchesOf .launch 1) = false ∧
    (∃ x, crowdedOut.preempts.find? (fun y => y.level == .launch && y.key == 1 && y.done) = some x) :=
  ⟨⟨mapped_open, by decide +kernel, by decide +kernel⟩, by decide +kernel, by decide +kernel, by decide +kernel, by decide +kernel, some_of (by decide +kernel)⟩
/-- Port 0 tries the command for a group of two again, whose IDs have come; or it waits for the end of a cancellation. -/
def grouping (id : Nat) : State :=
  { hosted (some 9) with hostData := [(groupKey 0, some ((List.range 4).map fun i => ⟨i, (bytesLe 2 5 ++ bytesLe 2 id).getD i 0⟩))] }.modPort 0 fun hp =>
    { hp with waiting := some (.group 1 2) }
theorem witness_CommandsCarriedOut_groups : ((hosted none).OpenJob 0 1 { asid := 1, port := 0 } ∧ 1 ≤ 1024) ∧
    (∀ id, id = 1023 ∨ id = 1024 → (Tab.get? (grouping id).jobs 1).map (fun j => (j.port, j.status)) = some (0, 0) ∧ ((grouping id).port 0).busy = some 9 ∧
      ((grouping id).port 0).waiting = some (.group 1 2) ∧ lowestFree (grouping id).groups 256 = some 0 ∧
      ∃ cells, Tab.get? (grouping id).hostData (groupKey 0) = some (some cells) ∧
        (List.range 2).map (fun i => fieldLe (cells.map fun c : Host.Cell => c.2) (2 * i) 2) = [5, id]) ∧
    (∃ s : State, (s.port 0).busy = some 9 ∧ (s.port 0).waiting = some (.cancel .launch 1)) :=
  ⟨⟨openJob_of rfl (by decide +kernel) (by decide +kernel) ⟨rfl, rfl⟩, by decide⟩,
    (by rintro id (rfl | rfl) <;> exact ⟨by decide +kernel, by decide +kernel, by decide +kernel, by decide +kernel, _, rfl, by decide +kernel⟩),
    ⟨(grouping 0).modPort 0 fun hp => { hp with waiting := some (.cancel .launch 1) }, by decide +kernel, by decide +kernel⟩⟩
/-- Opcode `n` stands in the command slot of port 0. -/
def slotted (n : Nat) : State := (hosted none).modPort 0 fun hp => { hp with cmdSlot := [(0, BitVec.ofNat 8 n)] }
theorem witness_CommandsCarriedOut_doorbells (n : Nat) (h : n ∈ [1, 4, 6, 7, 9, 14]) :
    (slotted n).Commands 0 ∧ ((((slotted n).port 0).slotWords).getD 0 0).toNat = n := by
  simp only [List.mem_cons, List.not_mem_nil, or_false] at h
  rcases h with rfl | rfl | rfl | rfl | rfl | rfl <;> exact ⟨⟨by decide, rfl, by decide +kernel, by decide +kernel⟩, by decide +kernel⟩
theorem witness_HostRegistersAndReads_ranges :
    (0x40 % 8 = 0 ∧ (0x7C % 4 = 0 ∧ 0x40 ≤ 0x7C ∧ 0x7C < 0x80 ∧ 0x7C ≠ 0x80)) ∧ (0x1FFFF8 % 8 = 0 ∧ 0x100000 ≤ 0x1FFFF8 ∧ 0x1FFFF8 < 0x200000) ∧
    (0x304C % 4 = 0 ∧ 0x3000 ≤ 0x304C ∧ 0x304C < 0x3050 ∧ 79 < 80) ∧ (0x2000 + 8 * 63) % 8 = 0 ∧ (0x100 + 32 * 2) % 8 = 0 ∧
    (0x100C + 16 * 63) % 4 = 0 ∧ 0x1008 + 16 * 63 ≤ 0x100C + 16 * 63 ∧ (rung.subQ (64 * 1 + 62)).enabled = false ∧
    ((rung.writeBar0 1 0x7C 4 5).isSome = true ∧ (rung.writeBar0 1 0x1FFFF8 8 5).isSome = true) ∧
    (([] : List Byte).length ≤ 512 ∧ (Tab.getD (rung.port 1).window 1 0).getLsbD 63 = false) ∧
    (Tab.getD (rung.port 1).rings 0 {}).held = [] ∧ (hostRead0.through 0 = true ∧ hostRead0.through 1 = false) ∧
    (windowed.windowValue 0 (Tab.getD (windowed.port 0).window 0 0)).getLsbD 62 = true ∧ windowed.ready = true ∧ (windowed.port 0).d3 = false := by decide +kernel

/-! ## Witnesses: the fabric and the module -/

/-- The bytes of a descriptor with a length of 8 elements or bytes, local address 0x41000 and its word at 0x42000. -/
def descriptor (op element target len : Nat) : List Byte :=
  bytesLe 1 op ++ bytesLe 1 element ++ bytesLe 2 target ++ bytesLe 4 0 ++ bytesLe 8 0x41000 ++ bytesLe 8 0 ++ bytesLe 8 len ++ bytesLe 8 1 ++ bytesLe 8 2 ++
    bytesLe 8 0x42000 ++ bytesLe 8 0
/-- Such a descriptor stands at the head of ring 3 of die 0; the module is number 5 of a group of 5 and 6. -/
def stated (d : List Byte) : State :=
  let s := (putDone (mapped.put (fabricAccessor 0 1) 0x40000 d none)).getD mapped
  { s.modDie 0 (fun x => { x with rings := [(3, ring3)] }) with
    accelId := some 5, groups := [(255, (1, [5, 6]))], exports := [(15, { job := 1, va := 0x41000, bytes := 4096, r := true, w := false })] }
  where ring3 : FabRing := { job := 1, va := 0x40000, tail := 1, finished := [(2 ^ 32 - 1, 1, 0x42000), (2 ^ 32 - 2, 1, 0)], buffers := [(2 ^ 32 - 1, (0x41000, 8))] }
/-- The ring once its engine has taken the command with this descriptor, and a state with it. -/
def taken (d : List Byte) : FabRing := { stated.ring3 with head := 1, running := [(0, d)] }
def running (d : List Byte) : State := (stated d).modDie 0 fun x => { x with rings := [(3, taken d)] }
/-- A test of what an engine's read or write gives. -/
def pullThen (p : Pull) (f : List Byte → State → Bool) : Bool := match p with | .bytes bs t => f bs t | _ => false
theorem pullThen_of {p : Pull} {f : List Byte → State → Bool} (h : pullThen p f = true) : ∃ bs t, p = .bytes bs t ∧ f bs t = true := by
  cases p with
  | bytes bs t => exact ⟨bs, t, rfl, h⟩
  | _ => cases h
def putThen (p : Put) (f : State → Bool) : Bool := match p with | .done t => f t | _ => false
theorem putThen_of {p : Put} {f : State → Bool} (h : putThen p f = true) : ∃ t, p = .done t ∧ f t = true := by
  cases p with
  | done t => exact ⟨t, rfl, h⟩
  | _ => cases h
/-- What an engine finds at the head of ring 3 of die 0: a status, or the opcode and the descriptor. -/
def headOf (s : State) : Option (Nat × Option (List Byte)) :=
  match s.fabricHead 0 3 stated.ring3 with | .over st _ => some (st, none) | .run b => some ((descriptorOf b).op, some b) | _ => none
theorem over_of {s : State} {n : Nat} (h : headOf s = some (n, none)) : ∃ a, s.fabricHead 0 3 stated.ring3 = .over n a := by
  unfold headOf at h
  split at h
  · next st a hx => exact ⟨a, hx.trans (congrArg (CommandHead.over · a) (congrArg Prod.fst (Option.some.inj h)))⟩
  · exact absurd (congrArg Prod.snd (Option.some.inj h)) (by simp)
  · cases h
theorem run_of {s : State} {n : Nat} {d : List Byte} (h : headOf s = some (n, some d)) : s.fabricHead 0 3 stated.ring3 = .run d ∧ (descriptorOf d).op = n := by
  unfold headOf at h
  split at h
  · exact absurd (congrArg Prod.snd (Option.some.inj h)) (by simp)
  · next b hx =>
    have hb : b = d := Option.some.inj (congrArg Prod.snd (Option.some.inj h))
    exact ⟨hx.trans (congrArg CommandHead.run hb), hb ▸ congrArg Prod.fst (Option.some.inj h)⟩
  · cases h
/-- A descriptor as an engine reads it: its opcode, its element, its target and its length. -/
def example_ (op element target len : Nat) : Descriptor := descriptorOf (descriptor op element target len)
theorem witness_FabricCommands : Tab.get? ((stated (descriptor 1 0 7 8)).die 0).rings 3 = some stated.ring3 ∧
    (stated.ring3.head ≠ stated.ring3.tail ∧ ∃ b t, (stated (descriptor 1 0 7 8)).pull (fabricAccessor 0 ((stated (descriptor 1 0 7 8)).job stated.ring3.job).asid)
      (BitVec.ofNat 64 (stated.ring3.va + 64 * (stated.ring3.head % 256))) 64 (fabricKey 0 3 stated.ring3.head 0) = .bytes b t) ∧
    ((stated []).accelId.isSome = true ∧ (stated []).validDescriptor 1 (example_ 1 0 1024 8) = false ∧ (stated []).validDescriptor 1 (example_ 1 0 1023 8) = true) ∧
    (∃ a, { stated (descriptor 1 0 7 8) with accelId := none }.fabricHead 0 3 stated.ring3 = .over 1 a) ∧
    (∃ a, (stated (descriptor 5 0 7 8)).fabricHead 0 3 stated.ring3 = .over 3 a) ∧
    ((stated (descriptor 1 0 7 8)).fabricHead 0 3 stated.ring3 = .run (descriptor 1 0 7 8) ∧ (descriptorOf (descriptor 1 0 7 8)).op = 1) ∧
    ((stated (descriptor 3 2 7 8)).fabricHead 0 3 stated.ring3 = .run (descriptor 3 2 7 8) ∧ (descriptorOf (descriptor 3 2 7 8)).op = 3) ∧
    ((stated (descriptor 16 0 255 2)).fabricHead 0 3 stated.ring3 = .run (descriptor 16 0 255 2) ∧ (descriptorOf (descriptor 16 0 255 2)).op = 16) ∧
    ((stated (descriptor 2 0 7 300)).fabricHead 0 3 stated.ring3 = .run (descriptor 2 0 7 300) ∧ (descriptorOf (descriptor 2 0 7 300)).op = 2) ∧
    ((stated (descriptor 4 0 7 64)).fabricHead 0 3 stated.ring3 = .run (descriptor 4 0 7 64) ∧ (descriptorOf (descriptor 4 0 7 64)).op = 4) ∧
    (∃ bs t, (stated (descriptor 2 0 7 300)).pull (fabricAccessor 0 1) (BitVec.ofNat 64 0x41000) 300 (fabricKey 0 3 0 1) = .bytes bs t ∧
      (t.die 0 == (stated (descriptor 2 0 7 300)).die 0 && t.sentOut == (stated (descriptor 2 0 7 300)).sentOut) = true) :=
  ⟨by decide +kernel, ⟨by decide +kernel, pulled_of (by decide +kernel)⟩, by decide +kernel, over_of (by decide +kernel), over_of (by decide +kernel),
    run_of (by decide +kernel), run_of (by decide +kernel), run_of (by decide +kernel), run_of (by decide +kernel), run_of (by decide +kernel),
    pullThen_of (by decide +kernel)⟩
/-- The command that runs is the one an answer fits. -/
theorem witness_FabricCommands_picks :
    (taken (descriptor 1 0 7 8)).pick (fun y => y.op == 1 && (!true || ([1, 2, 3, 4, 5, 6, 7, 8] : List Byte).length == y.length)) = some (0, example_ 1 0 7 8) ∧
    (taken (descriptor 1 0 7 8)).pick (fun y => y.op == 1 && (!false || ([] : List Byte).length == y.length)) = some (0, example_ 1 0 7 8) ∧
    (taken (descriptor 2 0 7 8)).pick (fun y => y.op == 2) = some (0, example_ 2 0 7 8) ∧
    (taken (descriptor 3 2 7 8)).pick (fun y => y.op == 3) = some (0, example_ 3 2 7 8) ∧
    (taken (descriptor 4 0 7 64)).pick (fun y => y.op == 4) = some (0, example_ 4 0 7 64) ∧
    (taken (descriptor 16 0 255 2)).pick (fun y => y.op == 16) = some (0, example_ 16 0 255 2) ∧
    (taken (descriptor 17 0 255 2)).pick (fun y => y.op == 17) = some (0, example_ 17 0 255 2) ∧
    (taken (descriptor 18 0 255 2)).pick (fun y => y.op == 18) = some (0, example_ 18 0 255 2) ∧
    (taken (descriptor 19 0 255 2)).pick (fun y => y.op == 19) = some (0, example_ 19 0 255 2) ∧ (example_ 19 0 255 2).root = 0 ∧
    ((0, descriptor 1 0 7 8) ∈ (taken (descriptor 1 0 7 8)).running ∧ Tab.get? (taken (descriptor 1 0 7 8)).running 0 = some (descriptor 1 0 7 8)) := by decide +kernel
/-- The engine reads `n` bytes of the buffer at address `a` and then writes what `f` makes of them at address `b`. -/
def moves (s : State) (n a : Nat) (f : List Byte → List Byte) (b : Nat) : Bool :=
  pullThen (s.pull (fabricAccessor 0 (s.job 1).asid) (BitVec.ofNat 64 a) n (fabricKey 0 3 0 1)) fun own t =>
    (t.job 1).asid == (s.job 1).asid && putThen (t.put (fabricAccessor 0 (t.job 1).asid) (BitVec.ofNat 64 b) (f own) (some (fabricKey 0 3 0 2))) fun u => !u.again
theorem moves_of {s : State} {n a b : Nat} {f : List Byte → List Byte} (h : moves s n a f b = true) : ∃ own t u,
    s.pull (fabricAccessor 0 (s.job 1).asid) (BitVec.ofNat 64 a) n (fabricKey 0 3 0 1) = .bytes own t ∧ (t.job 1).asid = (s.job 1).asid ∧
      t.put (fabricAccessor 0 (t.job 1).asid) (BitVec.ofNat 64 b) (f own) (some (fabricKey 0 3 0 2)) = .done u ∧ u.again = false := by
  obtain ⟨own, t, h1, h2⟩ := pullThen_of h
  rw [Bool.and_eq_true] at h2
  obtain ⟨u, h3, h4⟩ := putThen_of h2.2
  exact ⟨own, t, u, h1, by simpa using h2.1, h3, by simpa using h4⟩
/-- What the two ranks of a group give: 8 bytes each, or 16. -/
def ranks (n : Nat) : List (List Byte) := [List.replicate n 1, List.replicate n 2]
/-- The sum of the first shares of rank 0's bytes and rank 1's. -/
def firstShare (own : List Byte) : List Byte := reduceRanks 0 0 (((ranks 16).set 0 own).map fun b => (b.drop (0 * 8)).take 8)
theorem witness_FabricCommands_results :
    (running (descriptor 16 0 255 2)).ranksOf 1 255 = some ([5, 6], 0) ∧ { running (descriptor 19 0 255 2) with accelId := some 6 }.ranksOf 1 255 = some ([5, 6], 1) ∧
    ((ranks 8).length = 2 ∧ (∀ b ∈ ranks 8, b.length = (example_ 16 0 255 2).length * elementBytes (example_ 16 0 255 2).element)) ∧
    (∀ b ∈ ranks 16, b.length = ([5, 6] : List Nat).length * ((example_ 18 0 255 2).length * elementBytes (example_ 18 0 255 2).element)) ∧
    (∃ own t u, (running (descriptor 16 0 255 2)).pull (fabricAccessor 0 ((running (descriptor 16 0 255 2)).job 1).asid) (BitVec.ofNat 64 0x41000) 8 (fabricKey 0 3 0 1) = .bytes own t ∧
      (t.job 1).asid = ((running (descriptor 16 0 255 2)).job 1).asid ∧ t.put (fabricAccessor 0 (t.job 1).asid) (BitVec.ofNat 64 0x41000)
        (reduceRanks 0 0 ((ranks 8).set 0 own)) (some (fabricKey 0 3 0 2)) = .done u ∧ u.again = false) ∧
    (∃ own t u, (running (descriptor 17 0 255 2)).pull (fabricAccessor 0 ((running (descriptor 17 0 255 2)).job 1).asid) (BitVec.ofNat 64 (0x41000 + 0 * 8)) 8 (fabricKey 0 3 0 1) = .bytes own t ∧
      (t.job 1).asid = ((running (descriptor 17 0 255 2)).job 1).asid ∧ t.put (fabricAccessor 0 (t.job 1).asid) (BitVec.ofNat 64 0x41000)
        (((ranks 8).set 0 own).flatten) (some (fabricKey 0 3 0 2)) = .done u ∧ u.again = false) ∧
    (∃ own t u, (running (descriptor 18 0 255 2)).pull (fabricAccessor 0 ((running (descriptor 18 0 255 2)).job 1).asid) (BitVec.ofNat 64 0x41000) 16 (fabricKey 0 3 0 1) = .bytes own t ∧
      (t.job 1).asid = ((running (descriptor 18 0 255 2)).job 1).asid ∧ t.put (fabricAccessor 0 (t.job 1).asid) (BitVec.ofNat 64 (0x41000 + 0 * 8))
        (firstShare own) (some (fabricKey 0 3 0 2)) = .done u ∧ u.again = false) ∧
    (∃ own t, (running (descriptor 19 0 255 2)).pull (fabricAccessor 0 ((running (descriptor 19 0 255 2)).job 1).asid) (BitVec.ofNat 64 0x41000) 8 (fabricKey 0 3 0 1) = .bytes own t) ∧
    (∃ u, { running (descriptor 19 0 255 2) with accelId := some 6 }.put (fabricAccessor 0 1) (BitVec.ofNat 64 0x41000) (List.replicate 8 3) (some (fabricKey 0 3 0 2)) = .done u ∧
      (!u.again) = true) ∧
    (∃ t, (running (descriptor 1 0 7 8)).put (fabricAccessor 0 1) (BitVec.ofNat 64 0x41000) [1, 2, 3, 4, 5, 6, 7, 8] (some (fabricKey 0 3 0 2)) = .done t) ∧
    (∃ e, { running (descriptor 1 0 7 8) with asids := [] }.put (fabricAccessor 0 0) (BitVec.ofNat 64 (2 ^ 63)) [1, 2, 3, 4, 5, 6, 7, 8] (some (fabricKey 0 3 0 2)) = .fail e) :=
  ⟨by decide +kernel, by decide +kernel, by decide +kernel, by decide +kernel, moves_of (s := running (descriptor 16 0 255 2)) (n := 8) (a := 0x41000) (b := 0x41000) (f := fun own => reduceRanks 0 0 ((ranks 8).set 0 own)) (by decide +kernel),
    moves_of (s := running (descriptor 17 0 255 2)) (n := 8) (a := 0x41000 + 0 * 8) (b := 0x41000) (f := fun own => ((ranks 8).set 0 own).flatten) (by decide +kernel),
    moves_of (s := running (descriptor 18 0 255 2)) (n := 16) (a := 0x41000) (b := 0x41000 + 0 * 8) (f := firstShare) (by decide +kernel),
    pulled_of (by decide +kernel), putThen_of (by decide +kernel), put_of (by decide +kernel), putFails_of (by decide +kernel)⟩
/-- A buffer is in order: the earlier writes to it are accepted. -/
def ordered (s : State) (seq : Nat) (f : FabRing) : Bool := (s.orderBuffer 0 seq f).2
theorem ordered_of {s : State} {seq : Nat} {f : FabRing} (h : ordered s seq f = true) : ∃ u, s.orderBuffer 0 seq f = (u, true) :=
  ⟨(s.orderBuffer 0 seq f).1, Prod.ext rfl h⟩
theorem witness_FabricCommands_buffers :
    let s := stated (descriptor 16 0 255 2)
    (stated.ring3.finished.find? (·.1 == 2 ^ 32 - 1) = some (2 ^ 32 - 1, 1, 0x42000)) ∧ (stated.ring3.finished.find? (·.1 == 2 ^ 32 - 2) = some (2 ^ 32 - 2, 1, 0)) ∧
    (Tab.get? stated.ring3.buffers (2 ^ 32 - 1) = some (0x41000, 8) ∧ ∃ u, s.orderBuffer 0 (2 ^ 32 - 1) stated.ring3 = (u, true)) ∧
    (∃ u, s.orderBuffer 0 (2 ^ 32 - 2) stated.ring3 = (u, true)) ∧
    (∃ t, (s.orderBuffer 0 (2 ^ 32 - 1) stated.ring3).1.put (fabricAccessor 0 ((s.orderBuffer 0 (2 ^ 32 - 1) stated.ring3).1.job 1).asid) (BitVec.ofNat 64 0x42000)
      (bytesLe 8 (BitVec.ofNat 64 (2 ^ 63 + 1 * 2 ^ 56 + (2 ^ 32 - 1) % 2 ^ 32)).toNat) (some (fabricKey 0 3 (2 ^ 32 - 1) 3)) = .done t) :=
  ⟨by decide +kernel, by decide +kernel, ⟨by decide +kernel, ordered_of (by decide +kernel)⟩, ordered_of (by decide +kernel), put_of (by decide +kernel)⟩
theorem witness_FabricCommands_incoming :
    let s := { stated (descriptor 16 0 255 2) with exports := [(13, { job := 1, va := 0x41000, bytes := 4096, r := true, w := true }), (14, { job := 1, va := 0x41000, bytes := 4096, r := false, w := true }), (15, { job := 1, va := 0x41000, bytes := 4096, r := true, w := false })] }
    (1023 < 1024 ∧ Tab.get? s.exports 12 = none ∧ s.accelId.isSome = true ∧ accessSize (.read 256) ≤ 256) ∧
    (∃ y, Tab.get? s.exports 15 = some y ∧ y.allows 4089 (.read 8) = false ∧ y.allows 4088 (.read 8) = true ∧ y.allows 0 (.write [1]) = false ∧
      y.allows 8 (.atomic .add 8 1 1) = false) ∧
    (∃ y, Tab.get? s.exports 14 = some y ∧ y.allows 4095 (.write [1]) = true) ∧
    (∃ y, Tab.get? s.exports 13 = some y ∧ y.allows 4087 (.atomic .add 8 1 1) = true ∧ (BitVec.ofNat 64 (y.va + 4087)).toNat % 8 ≠ 0) ∧
    (∃ bs t, s.pull (pageAccessor 768 (s.job 1).asid) (BitVec.ofNat 64 (0x41000 + 4088)) 8 (engineKey 0 1) = .bytes bs t) ∧
    (∃ t, s.put (pageAccessor 768 (s.job 1).asid) (BitVec.ofNat 64 (0x41000 + 4095)) [1] (some (engineKey 0 2)) = .done t) ∧
    ((List.replicate 64 (0 : Byte)).length = 64 ∧ 767 < 768 ∧ 15 < 16) :=
  ⟨by decide +kernel, ⟨_, rfl, by decide +kernel⟩, ⟨_, rfl, by decide +kernel⟩, ⟨_, rfl, by decide +kernel⟩, pulled_of (by decide +kernel), put_of (by decide +kernel), by decide⟩
/-- A module that powers up and has done so many steps. -/
def risingAt (k : Nat) : State := { State.reset with powerStep := k }
/-- A module in service whose image runs, and that has come so far in its negotiation. -/
def served (spdm : Nat) : State := { base with firmware := { base.firmware with running := some 1, spdm := spdm } }
theorem witness_ModuleSteps : ((risingAt 0).ready = false ∧ (risingAt 0).fatal = false ∧ (risingAt 0).firmware.best = some (0, 1) ∧ (risingAt 0).cycle ≤ (risingAt 0).powerLimit) ∧
    { risingAt 0 with firmware := { slots := [{ version := 0, valid := true }, { version := 3, valid := false }] } }.firmware.best = none ∧
    (∀ k ∈ [1, 2, 3, 4, 5], (risingAt k).ready = false ∧ (risingAt k).fatal = false ∧ 1 ≤ (risingAt k).powerStep ∧ (risingAt k).powerStep ≤ 5 ∧
      (risingAt k).cycle ≤ (risingAt k).powerLimit) ∧
    ((risingAt 5).powerLimit < { risingAt 5 with cycle := 2500 * 1700000 + 1 }.cycle ∧ (risingAt 5).powerStep < 6) ∧
    ((served 3).firmware.running = some 1 ∧ 1 < 2 ∧ (served 3).firmware.slots.length = 2 ∧ (served 3).firmware.slots[0]? = some { version := 1, valid := true }) ∧
    ((served 0).ready = true ∧ 1 ≤ (served 1).firmware.spdm ∧ 2 ≤ (served 2).firmware.spdm ∧ 3 ≤ (served 3).firmware.spdm ∧ (served 2).firmware.spdm < 3) ∧
    ((115 : Nat) ≤ 115 ∧ 115 < 116) ∧ Tab.getD base.links 3 0 < 16 ∧ Tab.getD base.linkWorking 3 0 ≤ 12 ∧
    (16 ≤ Tab.getD { base with links := [(3, 16)] }.links 3 0 ∧ 8 ≤ 12 ∧ 7 < 8) ∧ 7 < Tab.getD { base with linkWorking := [(3, 12)] }.linkWorking 3 0 ∧
    (∀ e ∈ [0, 1, 2, 3], ∀ f ∈ [0, 1, 2, 3], (base.die e).skew ≤ (base.die f).skew + 2) :=
  by decide +kernel
/-- Power as a sample finds it: the total above the limit or at 95 percent of it, the steps of throttling, the duty. -/
theorem witness_ModuleSteps_power :
    (({} : Power).limit * 1 < [2401].sum ∧ [2280].sum * 100 ≤ ({} : Power).limit * 1 * 95 ∧ ¬ ({} : Power).limit * 1 < [2281].sum ∧ ¬ [2281].sum * 100 ≤ ({} : Power).limit * 1 * 95) ∧
    (({ tight := 2 } : Power).tight < 3 ∧ 3 ≤ ({ tight := 3, duty := 126 } : Power).tight ∧ 125 < ({ tight := 3, duty := 126 } : Power).duty) ∧
    (({ duty := 999 } : Power).duty < 1000 ∧ 1000 ≤ ({} : Power).duty) := by decide
/-- What a fetch fails with, as a number. -/
def failCode : Got → Nat
  | .fail f => match f with | .trap _ => 1 | .miss _ => 2 | .away _ _ => 3
  | _ => 0
theorem fetch_trap {f : Got} (h : failCode f = 1) : ∃ x, f = .fail (.trap x) := by
  cases f with
  | fail g => cases g with
    | trap x => exact ⟨x, rfl⟩
    | _ => cases h
  | _ => cases h
theorem fetch_miss {f : Got} (h : failCode f = 2) : ∃ a, f = .fail (.miss a) := by
  cases f with
  | fail g => cases g with
    | miss a => exact ⟨a, rfl⟩
    | _ => cases h
  | _ => cases h
theorem fetch_away {f : Got} (h : failCode f = 3) : ∃ a l, f = .fail (.away a l) := by
  cases f with
  | fail g => cases g with
    | away a l => exact ⟨a, l, rfl⟩
    | _ => cases h
  | _ => cases h
/-- A page of code homed on core 767, or in host memory. -/
def farCode : State :=
  (({ base with keys := [(1, List.replicate 64 1)] }.mapPage 1 0x40000 { x := true, home := 767 } 3 5).getD base).modMe fun x => { x with pc := 0x40000 }
theorem witness_ModuleSteps_fetches :
    (∃ x, (withPage.modMe fun x => { x with pc := 0xE000000000000000 }).fetch 0 (withPage.modMe fun x => { x with pc := 0xE000000000000000 }).me.pc = .fail (.trap x)) ∧
    (∃ a, (withPage.modMe fun x => { x with pc := 0x80000 }).fetch 0 (withPage.modMe fun x => { x with pc := 0x80000 }).me.pc = .fail (.miss a)) ∧
    ∃ a l, farCode.fetch 0 farCode.me.pc = .fail (.away a l) := ⟨fetch_trap (by decide +kernel), fetch_miss (by decide +kernel), fetch_away (by decide +kernel)⟩

/-! ## Witnesses: the machine as a whole -/

/-- `li x1, 5` stands where the next step fetches. -/
def placed : State := State.reset.withFetchWord 16 0x7105
theorem ok_of {α β : Type} {x : Except α β} {v : β} (h : x.toOption = some v) : x = .ok v := by
  cases x with
  | ok w => exact congrArg _ (Option.some.inj h)
  | error e => cases h
theorem witness_StepRunsTheDecodedInstruction : placed.fatal = false ∧ placed.agenda = [] ∧ placed.turn = .issue ∧
    placed.nextIssuer (784 - placed.turnCore) placed.turnCore = some 0 ∧ (placed.slot 0).reject = none ∧ (placed.slot 0).bodyItem = none ∧
    (∃ b, (placed.slot 0).blocks.find? (fun x => x.va == (placed.slot 0).pc.toNat / 64 * 64) = some b ∧ b.bad = [] ∧
      decode ((List.range 1).map fun k => numLe ((b.bytes.drop ((placed.slot 0).pc.toNat % 64 + 2 * k)).take 2)) = .ok (.li 1 5, 1)) ∧
    (placed.slot 0).pc.toNat < 2 ^ 49 ∧ (placed.slot 0).pc.toNat % 64 + 2 * 1 ≤ 64 := by
  refine ⟨by decide +kernel, by decide +kernel, by decide +kernel, by decide +kernel, holds (by decide +kernel), by decide +kernel,
    ⟨{ va := 0, bytes := [5, 113] ++ List.replicate 62 0 }, by decide +kernel, rfl, ok_of (by decide +kernel)⟩, by decide +kernel, by decide +kernel⟩
/-- The slot runs a repeat body from its buffer. -/
def buffering : State := placed.modSlot 0 fun x => { x with rep := some body0 }
  where body0 : Repeat :=
    { start := 0, stop := 2, len := 1, remaining := 3, unbounded := false, mode := 0, body := [{ at_ := 0, instr := .nop, len := 2 }] }
/-- What a fetch gives, as a number. -/
def fetchCode : Got → Nat
  | .instr .. => 1
  | .bad .. => 2
  | .fail _ => 3
theorem witness_StepRunsTheDecodedInstruction_others : fetchCode ((placed.atTurn 0).fetch 0 (placed.slot 0).pc) = 1 ∧
    (fetchCode (((State.reset.withFetchWord 16 0xFFFF).atTurn 0).fetch 0 0) = 2) ∧
    fetchCode ((placed.atTurn 0).fetch 0 (2 ^ 50)) = 3 ∧
    ((buffering.slot 0).bodyItem = some { at_ := 0, instr := .nop, len := 2 } ∧ buffering.nextIssuer (784 - buffering.turnCore) buffering.turnCore = some 0) ∧
    (State.reset.nextIssuer (784 - State.reset.turnCore) State.reset.turnCore = none ∧ { State.reset with turn := .issue, agenda := [] }.fatal = false) := by decide +kernel
/-- Slot 0 is to take the fault of a rejected access, or of a store that a port has refused; or the first event of a cycle is due. -/
theorem witness_StepRunsTheDecodedInstruction_faults :
    let rejected := placed.modSlot 0 fun x => { x with reject := some (4, 0x40000, true) }
    let refused := placed.modSlot 0 fun x => { x with late := some (0x40000, 3) }
    (rejected.agenda = [] ∧ rejected.turn = .issue ∧ rejected.nextIssuer (784 - rejected.turnCore) rejected.turnCore = some 0 ∧
      (rejected.slot 0).reject = some (4, 0x40000, true)) ∧
    (refused.agenda = [] ∧ refused.turn = .issue ∧ refused.nextIssuer (784 - refused.turnCore) refused.turnCore = some 0 ∧
      (refused.slot 0).reject = none ∧ (refused.slot 0).late = some (0x40000, 3)) ∧ (placed.slot 0).late = none ∧
    { base with agenda := [.getVersion] }.agenda = [.getVersion] := by
  intro rejected refused
  exact ⟨by decide +kernel, by decide +kernel, holds (by decide +kernel), rfl⟩
theorem witness_OutOfServiceUntilModuleReset : State.reset.setFatal.fatal = true ∧ State.reset.setFatal.inputs = [] ∧
    { base.setFatal with inputs := [.getVersion] }.inputs = .getVersion :: [] ∧ .getVersion ≠ Instr.moduleReset ∧
    (∀ g, (base.setFatal.slot g).status = .stopped ∨ (base.setFatal.slot g).status = .empty) :=
  ⟨rfl, rfl, rfl, by decide, fun g => getD_all (p := fun x : Slot => x.status = .stopped ∨ x.status = .empty) (t := base.setFatal.slots)
    (by decide +kernel) (.inr rfl) g⟩
theorem witness_EveryStepKeepsMemoryCanonical : placed.mem.wf = true ∧ (match step placed with | .next t => t.mem.wf | _ => false) = true := by decide +kernel

/-! ## Single steps: expected results from the spec's examples and by hand from its rules -/

/-- Register 1 after an instruction on registers 2 and 3 that hold `x` and `y`, where register 1 held `d`. -/
def result (i : Instr) (x y : Word) (d : Word := 0) : Option Word :=
  match exec i (withRegs [(1, d), (2, x), (3, y)]) with | .next t => if t.me.pc = 66 then some (t.me.x 1) else none | _ => none
theorem test_add_wraps : result (.add 1 2 3) (-1) 2 = some 1 := by decide +kernel
theorem test_sub_borrows : result (.sub 1 2 3) 1 2 = some (-1) := by decide +kernel
theorem test_slt_signed : result (.slt 1 2 3) (-1) 1 = some 1 := by decide +kernel
theorem test_sltn_unsigned : result (.sltn 1 2 (.reg 3)) (-1) 1 = some 0 := by decide +kernel
theorem test_div_of_R116 : result (.div 1 2 (.reg 3)) (-7) 2 = some (-3) ∧ result (.rem 1 2 (.reg 3)) (-7) 2 = some (-1) := by decide +kernel
theorem test_divn_of_R116 : result (.divn 1 2 (.reg 3)) 0xFFFFFFFFFFFFFFF9 2 = some 0x7FFFFFFFFFFFFFFC ∧ result (.remn 1 2 (.reg 3)) 0xFFFFFFFFFFFFFFF9 2 = some 1 := by
  decide +kernel
theorem test_div_corners : result (.div 1 2 (.imm 0)) 6 0 = some (-1) ∧ result (.div 1 2 (.reg 3)) 0x8000000000000000 (-1) = some 0x8000000000000000 := by decide +kernel
theorem test_mulh_signed : result (.mulh 1 2 (.reg 3)) (-1) 2 = some (-1) ∧ result (.mulhn 1 2 (.reg 3)) (-1) 2 = some 1 := by decide +kernel
theorem test_shl_takes_six_bits : result (.shl 1 2 3) 3 65 = some 6 := by decide +kernel
theorem test_sar_copies_the_sign : result (.sar 1 2 (.reg 3)) 0x8000000000000000 63 = some (-1) ∧ result (.shr 1 2 (.reg 3)) 0x8000000000000000 63 = some 1 := by decide +kernel
theorem test_rol : result (.rol 1 2 (.reg 3)) 0x8000000000000001 4 = some 0x18 := by decide +kernel
theorem test_counts : result (.clz 1 2) 0 0 = some 64 ∧ result (.ctz 1 2) 0x100 0 = some 8 ∧ result (.popc 1 2) 0xF0F 0 = some 8 := by decide +kernel
theorem test_bswap : result (.bswap 1 2) 0x0102030405060708 0 = some 0x0807060504030201 := by decide +kernel
theorem test_bext_past_the_top : result (.bext 1 2 (.reg 3)) 0xABCD000000000000 (56 + 64 * 15) = some 0xAB := by decide +kernel
theorem test_bins_past_the_top : result (.bins 1 2 (.reg 3)) 0x1234 (56 + 64 * 15) 7 = some 0x3400000000000007 := by decide +kernel
theorem test_sel_reads_its_destination : result (.sel 1 2 3) 5 6 1 = some 5 ∧ result (.sel 1 2 3) 5 6 0 = some 6 := by decide +kernel
theorem test_abs_corner : result (.abs 1 2) 0x8000000000000000 0 = some 0x8000000000000000 := by decide +kernel
theorem test_mac : result (.mac 1 2 3) 5 6 7 = some 37 := by decide +kernel
theorem test_lea : result (.lea 1 2 3 4) 5 6 = some 101 := by decide +kernel
theorem test_sx32 : result (.sx32 1 2) 0x180000000 0 = some 0xFFFFFFFF80000000 ∧ result (.zx32 1 2) 0x180000000 0 = some 0x80000000 := by decide +kernel
theorem test_hdr_of_R124 :
    (match exec (.hdrSet 3 2 3) (withRegs [(2, 0x00000C10010C0300), (8, 0x5A5), (9, 0x17), (10, 0x12345678)]) with
      | .next t => gives (.hdrPack 20 8 3) t fun u => u.me.x 20 == 0x00001234567875A5
      | _ => false) = true := by decide +kernel
theorem test_fadd : result (.fadd .rne 1 2 3) 0x3F800000 0x40000000 = some 0x40400000 := by decide +kernel
theorem test_fsqrt_rounds : gives (.fsqrt .rne 1 2) (withRegs [(2, 0x40000000)]) (fun t => t.me.x 1 == 0x3FB504F3 && t.me.fflags == 1) = true := by decide +kernel
theorem test_bcc_reads_signed : gives (.bcc .lt 2 (-3)) (withRegs [(2, -1)]) (fun t => t.me.pc == 58) = true := by decide +kernel
theorem test_call_links : gives (.call 8) base (fun t => t.me.pc == 80 && t.me.x 48 == 66) = true := by decide +kernel
theorem test_jr_odd_is_an_alignment_fault : gives (.jr 2) (withRegs [(2, 81)]) (fun t => t.me.tcause == 5 && t.me.tip == 64 && t.me.taddr == 81 && t.me.tinfo == 0) = true := by decide +kernel
theorem test_st_low_byte_first : gives (.st 1 2 1) (withRegs [(1, 0x1122334455667788), (2, 0xE000000000000100)] atEnd)
    (fun t => t.mem.read (scratchPa 0 0x108) 8 == [0x88, 0x77, 0x66, 0x55, 0x44, 0x33, 0x22, 0x11]) = true := by decide +kernel
theorem test_ldS_extends : gives (.ldS .i8 1 2 0) { withRegs [(2, 0xE000000000000100)] atEnd with mem := ({} : Memory).write (scratchPa 0 0x100) [0x80] }
    (fun t => t.me.x 1 == 0xFFFFFFFFFFFFFF80) = true := by decide +kernel
theorem test_atomic_misaligned : gives (.amoAdd .i64 false 1 2 3) (withRegs [(2, 0xE000000000000104)] atEnd)
    (fun t => t.me.tcause == 5 && t.me.taddr == 0xE000000000000104) = true := by decide +kernel
theorem test_qpop_in_order : gives (.sub 1 60 60) queued (fun t => t.me.x 1 == -1) = true := by decide +kernel
theorem test_trap_enters_the_handler : gives (.trap 300) (base.modMe fun x => { x with thand := 0x1000 })
    (fun t => t.me.tcause == 0x8000000000000012 && t.me.tip == 64 && t.me.tinfo == 44 && t.me.pc == 0x1000 && t.me.status == .running) = true := by decide +kernel
theorem test_halt_stops : gives .halt base (fun t => t.me.status == .stopped) = true := by decide +kernel

/-! ### Steps of the machine, of the hosts and of the fabric -/

theorem test_step_fetches : (match step placed with | .next t => (t.slot 0).x 1 == 5 && (t.slot 0).pc == 2 | _ => false) = true := by decide +kernel
theorem test_step_repeats : (match step buffering with | .next t => (t.slot 0).pc == 0 && (t.slot 0).rep.map (·.remaining) == some 2 | _ => false) = true := by
  decide +kernel
theorem test_openJob_lowest_asid : gives (.openJob 0 9) (hosted none) (fun t => Tab.get? t.jobs 5 == some { asid := 3, port := 0 } &&
    (t.port 0).response.take 4 == [9, 0, 5, 3]) = true := by decide +kernel
theorem test_mapRange_maps : gives (.mapRange 0 9 1 0x50000 65536 job0.mapWord 0) mapped (fun t => t.classAt (pageAccessor 768 1) 0x50000 == some .normal) = true := by
  decide +kernel
theorem test_unmapRange_unmaps : gives (.unmapRange 0 9 1 0x40000 65536) mapped (fun t => (t.job 1).ranges == [] && t.classAt (pageAccessor 768 1) 0x40000 == none) = true := by
  decide +kernel
theorem test_preEmpt_stops : gives (.preEmpt 0 9 1 4 0 77) preempted (fun t => (t.port 0).busy == some 9 && (t.slot 0).status == .stopped) = true := by decide +kernel
theorem test_tail_wraps : gives (.submissionQueueTailWrite 1 63 255) rung (fun t => (t.subQ 127).tail == 255 && (t.subQ 127).records.length == 256) = true := by
  decide +kernel
theorem test_tail_257_is_ignored : gives (.submissionQueueTailWrite 1 63 256) rung (fun t => (t.port 1).dberr && t.subQs == rung.subQs) = true := by decide +kernel
theorem test_window_reads : gives (.hostWindowAccess 0 0x40FFF 1 none) windowed (fun t => (t.port 0).lastRead == some [0]) = true := by decide +kernel
theorem test_host_timeout_fails : gives (.hostCompletionTimeout 0) reading (fun t => t.replies.map (fun r => (r.id, r.failed)) == [(4, some (0x14, 0, 4))]) = true := by decide +kernel
theorem test_fabric_atomic_sends : ((stated (descriptor 3 2 7 8)).takeCommand 0 3).sentOut.map (fun q => (q.op, q.target, q.bytes)) = [(3, 7, [0, 1, 0, 0, 0, 2, 0, 0, 0])] := by
  decide +kernel
theorem test_incoming_past_the_export : gives (.incomingFabricAccess 9 15 4089 (.read 8)) (stated (descriptor 19 0 255 8)) (fun t => t.sentOut.map (fun q => (q.op, q.target, q.bytes)) == [(0, 9, [1])]) = true := by
  decide +kernel
theorem test_powerup_too_late : gives .powerupStepTimeout { risingAt 5 with cycle := 2500 * 1700000 + 1 } (fun t => t.fatal) = true := by decide +kernel
theorem test_116_degrees : gives (.powerSample 1 2 3 [116, 0, 0, 0] 115) base (fun t => t.fatal) = true := by decide +kernel
theorem test_errors_cleared_by_1 : gives (.errorCountClear true 5) { base with power := { errunc := 7 } } (fun t => t.power.errunc == 2) = true := by decide +kernel

end Sys2Proof.Tests
end

namespace Sys2Proof.Machine

/-! ## Bit counts and byte orders of Machine/Bits.lean (R32, R118) -/

/-- One bits are counted bit by bit. -/
theorem popCount_eq_countP (n v : Nat) : popCount n v = (List.range n).countP v.testBit := by
  induction n generalizing v with
  | zero => rfl
  | succ n ih =>
    have hlow : v % 2 = if v.testBit 0 then 1 else 0 := by
      rw [Nat.testBit_zero]
      rcases Nat.mod_two_eq_zero_or_one v with h | h <;> simp [h]
    have hhigh : v.testBit ∘ Nat.succ = (v / 2).testBit := funext fun i => Nat.testBit_succ v i
    rw [popCount, ih, List.range_succ_eq_map, List.countP_cons, List.countP_map, hhigh, hlow, Nat.add_comm]

theorem trailingZeros_zero (n : Nat) : trailingZeros n 0 = n := by
  induction n with
  | zero => rfl
  | succ n ih => simp [trailingZeros, ih, Nat.add_comm]

/-- Where some bit is one, the count of trailing zeros is the number of the lowest one bit. -/
theorem trailingZeros_spec {n v : Nat} (hv : v ≠ 0) (hn : v < 2 ^ n) :
    trailingZeros n v < n ∧ v.testBit (trailingZeros n v) = true ∧ ∀ i < trailingZeros n v, v.testBit i = false := by
  induction n generalizing v with
  | zero => omega
  | succ n ih =>
    by_cases hodd : v % 2 = 1
    · simp [trailingZeros, hodd, Nat.testBit_zero]
    · obtain ⟨hlt, hone, hbelow⟩ := ih (v := v / 2) (by omega) (by omega)
      have hcount : trailingZeros (n + 1) v = trailingZeros n (v / 2) + 1 := by simp [trailingZeros, hodd, Nat.add_comm]
      refine ⟨by omega, by rw [hcount, Nat.testBit_succ, hone], fun i hi => ?_⟩
      cases i with
      | zero => simp [Nat.testBit_zero, hodd]
      | succ i => rw [Nat.testBit_succ]; exact hbelow i (by omega)

/-- A number that is not zero has its highest one bit below its length. -/
theorem bitLen_spec {v : Nat} (hv : v ≠ 0) :
    1 ≤ bitLen v ∧ v.testBit (bitLen v - 1) = true ∧ ∀ i, bitLen v ≤ i → v.testBit i = false := by
  have hlen : bitLen v = v.log2 + 1 := if_neg hv
  refine ⟨by omega, by rw [hlen]; exact Nat.testBit_log2 hv, fun i hi => Nat.testBit_lt_two_pow ?_⟩
  exact (Nat.log2_lt hv).1 (by omega)

theorem bitLen_le_of_lt {v n : Nat} (h : v < 2 ^ n) : bitLen v ≤ n := by
  unfold bitLen
  split
  · omega
  · rename_i hv
    exact (Nat.log2_lt hv).2 h

theorem bytesLe_length (n v : Nat) : (bytesLe n v).length = n := by
  induction n generalizing v with
  | zero => rfl
  | succ n ih => simp [bytesLe, ih]

theorem bytesLe_getElem? {n i : Nat} (v : Nat) (h : i < n) : (bytesLe n v)[i]? = some (byteOf (v / 256 ^ i)) := by
  induction n generalizing v i with
  | zero => omega
  | succ n ih =>
    cases i with
    | zero => simp [bytesLe]
    | succ i => rw [bytesLe, List.getElem?_cons_succ, ih _ (by omega), Nat.div_div_eq_div_mul, ← Nat.pow_succ']

theorem numLe_lt (l : List Byte) : numLe l < 256 ^ l.length := by
  induction l with
  | nil => simp [numLe]
  | cons b r ih =>
    have hb := b.isLt
    rw [numLe, List.length_cons, Nat.pow_succ]
    omega

/-- Byte `i` of a number is element `i` of its bytes, the lowest first. -/
theorem numLe_byte {l : List Byte} {i : Nat} {b : Byte} (h : l[i]? = some b) : numLe l / 256 ^ i % 256 = b.toNat := by
  induction l generalizing i with
  | nil => simp at h
  | cons c r ih =>
    have hc := c.isLt
    cases i with
    | zero =>
      obtain rfl : c = b := by simpa using h
      rw [numLe]
      omega
    | succ i =>
      have htail : numLe (c :: r) / 256 = numLe r := by rw [numLe]; omega
      rw [Nat.pow_succ', ← Nat.div_div_eq_div_mul, htail]
      exact ih (by simpa using h)

/-- Reversing the bytes of a number of eight puts byte 7 − i at place i. -/
theorem numLe_reverse_bytesLe {v i : Nat} (hi : i < 8) :
    numLe (bytesLe 8 v).reverse / 256 ^ i % 256 = v / 256 ^ (7 - i) % 256 := by
  have hbyte : (bytesLe 8 v).reverse[i]? = some (byteOf (v / 256 ^ (7 - i))) := by
    rw [List.getElem?_reverse (by rw [bytesLe_length]; exact hi), bytesLe_length]
    exact bytesLe_getElem? v (by omega)
  rw [numLe_byte hbyte, byteOf, BitVec.toNat_ofNat]

/-! ## Values of instructions bit by bit (R115 to R119) -/

theorem bits_5_0 (y : Word) : bits y 5 0 = y.toNat % 64 := by simp [bits]

theorem getLsbD_shiftLeft_word (x : Word) {i : Nat} (hi : i < 64) (c : Nat) :
    (x <<< c).getLsbD i = (decide (c ≤ i) && x.getLsbD (i - c)) := by
  have hle : (!decide (i < c)) = decide (c ≤ i) := by rw [← decide_not, decide_eq_decide]; exact Nat.not_lt
  rw [BitVec.getLsbD_shiftLeft, decide_eq_true hi, Bool.true_and, hle]

theorem getLsbD_shiftRight_word (x : Word) (i c : Nat) : (x >>> c).getLsbD i = x.getLsbD (i + c) := by
  rw [BitVec.getLsbD_ushiftRight, Nat.add_comm]

theorem getLsbD_sshiftRight_word (x : Word) {i : Nat} (hi : i < 64) (c : Nat) :
    (x.sshiftRight c).getLsbD i = if i + c < 64 then x.getLsbD (i + c) else x.getLsbD 63 := by
  rw [BitVec.getLsbD_sshiftRight, BitVec.msb_eq_getLsbD_last, decide_eq_false (Nat.not_le.2 hi), Nat.add_comm c i]
  rfl

theorem getLsbD_rotate_word (x : Word) {i c : Nat} (hi : i < 64) (hc : c < 64) :
    (x <<< c ||| x >>> (64 - c)).getLsbD i = x.getLsbD ((i + 64 - c) % 64) := by
  rw [BitVec.getLsbD_or, getLsbD_shiftLeft_word x hi, getLsbD_shiftRight_word]
  by_cases hci : c ≤ i
  · have habove : x.getLsbD (i + (64 - c)) = false := BitVec.getLsbD_of_ge x _ (by omega)
    have hplace : (i + 64 - c) % 64 = i - c := by omega
    simp [hci, habove, hplace]
  · have hplace : (i + 64 - c) % 64 = i + (64 - c) := by omega
    simp [hci, hplace]

theorem mul_eq_ofInt (x y : Word) : x * y = BitVec.ofInt 64 (x.toInt * y.toInt) := by
  rw [BitVec.ofInt_mul, BitVec.ofInt_toInt, BitVec.ofInt_toInt]

theorem divSigned_eq_sdiv (x y : Word) : divSigned x y = if y = 0 then BitVec.allOnes 64 else x.sdiv y := by
  unfold divSigned wordOfInt
  split
  · decide
  · exact BitVec.eq_of_toInt_eq (by rw [BitVec.toInt_ofInt, BitVec.toInt_sdiv])

theorem divUnsigned_eq_udiv (x y : Word) : divUnsigned x y = if y = 0 then BitVec.allOnes 64 else x / y := by
  unfold divUnsigned wordOfInt
  split
  · decide
  · exact BitVec.ofNat_toNat 64 (x / y)

theorem remSigned_eq_srem (x y : Word) : remSigned x y = x.srem y := by
  unfold remSigned wordOfInt
  split
  · rename_i hy
    exact hy ▸ BitVec.srem_zero.symm
  · rw [← BitVec.toInt_srem, BitVec.ofInt_toInt]

theorem remUnsigned_eq_umod (x y : Word) : remUnsigned x y = x % y := by
  unfold remUnsigned
  split
  · rename_i hy
    exact hy ▸ BitVec.umod_zero.symm
  · exact BitVec.ofNat_toNat 64 (x % y)

theorem getLsbD_extractField (x : Word) (pos : Nat) {i len : Nat} (hi : i < 64) :
    (extractField x pos len).getLsbD i = (decide (i < len) && x.getLsbD (pos + i)) := by
  rw [extractField, BitVec.getLsbD_ofNat, Nat.testBit_mod_two_pow, Nat.testBit_div_two_pow, Nat.add_comm i pos]
  simp [hi, BitVec.getLsbD]

theorem getLsbD_fieldMask (pos len : Nat) {i : Nat} (hi : i < 64) :
    (word ((2 ^ len - 1) * 2 ^ pos)).getLsbD i = decide (pos ≤ i ∧ i < pos + len) := by
  rw [BitVec.getLsbD_ofNat, Nat.testBit_mul_two_pow, Nat.testBit_two_pow_sub_one]
  by_cases hpos : pos ≤ i
  · have hlen : i - pos < len ↔ i < pos + len := by omega
    simp [hi, hpos, hlen]
  · simp [hpos]

theorem getLsbD_insertField (o x : Word) (pos len : Nat) {i : Nat} (hi : i < 64) :
    (insertField o x pos len).getLsbD i = if pos ≤ i ∧ i < pos + len then x.getLsbD (i - pos) else o.getLsbD i := by
  rw [insertField, BitVec.getLsbD_or, BitVec.getLsbD_and, BitVec.getLsbD_and, BitVec.getLsbD_not,
    getLsbD_fieldMask pos len hi, getLsbD_shiftLeft_word x hi]
  by_cases hin : pos ≤ i ∧ i < pos + len
  · simp [hin]
  · simp [hin, hi]

/-! ## Counts of a word (R118) -/

theorem clz_zero : word (64 - bitLen (0 : Word).toNat) = 64 := rfl

theorem clz_spec {x : Word} (hx : x ≠ 0) : (word (64 - bitLen x.toNat)).toNat < 64 ∧
    x.getLsbD (63 - (word (64 - bitLen x.toNat)).toNat) = true ∧
    ∀ i, 63 - (word (64 - bitLen x.toNat)).toNat < i → x.getLsbD i = false := by
  have hx0 : x.toNat ≠ 0 := fun h => hx (BitVec.eq_of_toNat_eq h)
  obtain ⟨hpos, htop, habove⟩ := bitLen_spec hx0
  have hle := bitLen_le_of_lt x.isLt
  have hcount : (word (64 - bitLen x.toNat)).toNat = 64 - bitLen x.toNat := Nat.mod_eq_of_lt (by omega)
  have hplace : 63 - (64 - bitLen x.toNat) = bitLen x.toNat - 1 := by omega
  rw [hcount, hplace]
  exact ⟨by omega, htop, fun i hi => habove i (by omega)⟩

theorem ctz_zero : word (trailingZeros 64 (0 : Word).toNat) = 64 := by
  rw [show (0 : Word).toNat = 0 from rfl, trailingZeros_zero]
  rfl

theorem ctz_spec {x : Word} (hx : x ≠ 0) : (word (trailingZeros 64 x.toNat)).toNat < 64 ∧
    x.getLsbD (word (trailingZeros 64 x.toNat)).toNat = true ∧
    ∀ i < (word (trailingZeros 64 x.toNat)).toNat, x.getLsbD i = false := by
  have hx0 : x.toNat ≠ 0 := fun h => hx (BitVec.eq_of_toNat_eq h)
  obtain ⟨hlt, hone, hbelow⟩ := trailingZeros_spec hx0 x.isLt
  have hcount : (word (trailingZeros 64 x.toNat)).toNat = trailingZeros 64 x.toNat := Nat.mod_eq_of_lt (by omega)
  rw [hcount]
  exact ⟨hlt, hone, hbelow⟩

theorem popc_spec (x : Word) : (word (popCount 64 x.toNat)).toNat = (List.range 64).countP (x.getLsbD ·) := by
  have hcount : popCount 64 x.toNat = (List.range 64).countP (x.getLsbD ·) := popCount_eq_countP 64 x.toNat
  have hle : (List.range 64).countP (x.getLsbD ·) ≤ 64 := by
    simpa using List.countP_le_length (p := (x.getLsbD ·)) (l := List.range 64)
  rw [hcount, BitVec.toNat_ofNat]
  exact Nat.mod_eq_of_lt (by omega)

theorem bswap_spec (x : Word) {i : Nat} (hi : i < 8) :
    (word (numLe (bytesLe 8 x.toNat).reverse)).toNat / 256 ^ i % 256 = x.toNat / 256 ^ (7 - i) % 256 := by
  have hfits : numLe (bytesLe 8 x.toNat).reverse < 2 ^ 64 := by
    simpa [bytesLe_length] using numLe_lt (bytesLe 8 x.toNat).reverse
  have hword : (word (numLe (bytesLe 8 x.toNat).reverse)).toNat = numLe (bytesLe 8 x.toNat).reverse :=
    Nat.mod_eq_of_lt hfits
  rw [hword]
  exact numLe_reverse_bytesLe hi

end Sys2Proof.Machine

namespace Sys2Proof.Machine

/-! ## From the shape of an instruction to its result (R110 to R112) -/

theorem nullaryResult_of_exec {mk : Nat → Instr} {v : State → Word} (h : ∀ d s, exec (mk d) s = nullary s d (v s)) :
    NullaryResult mk v := fun s d hr => by
  rw [h, nullary_ready hr]

theorem unaryResult_of_exec {mk : Nat → Nat → Instr} {f : State → Word → Word}
    (h : ∀ d a s, exec (mk d a) s = unary s d a (f s)) : UnaryResult mk f := fun s d a x hr => by
  rw [h, unary_ready hr]

theorem binaryResult_of_exec {mk : Nat → Nat → Nat → Instr} {f : Word → Word → Word}
    (h : ∀ d a b s, exec (mk d a b) s = binary s d a b f) : BinaryResult mk f := fun s d a b x y hr => by
  rw [h, binary_ready hr]

theorem srcResult_of_exec {mk : Nat → Nat → Src → Instr} {f : Word → Word → Word}
    (h : ∀ d a b s, exec (mk d a b) s = binarySrc s d a b f) : SrcResult mk f :=
  ⟨fun s d a b x y hr => by rw [h, binarySrc, binary_ready hr],
    fun s d a i x hr => by rw [h, binarySrc, unary_ready hr, wordOfInt]⟩

theorem ternaryResult_of_exec {mk : Nat → Nat → Nat → Instr} {f : Word → Word → Word → Word}
    (h : ∀ d a b s, exec (mk d a b) s = ternary s d a b f) : TernaryResult mk f := fun s d a b c x y hr hp => by
  rw [h, ternary_ready hr hp]

/-- The same values, said otherwise. -/
theorem SrcResult.congr {mk : Nat → Nat → Src → Instr} {f g : Word → Word → Word} (h : SrcResult mk f)
    (hval : ∀ x y, f x y = g x y) : SrcResult mk g := (funext fun x => funext (hval x) : f = g) ▸ h

/-! ## Products, quotients, shifts and bit counts (R115 to R118) -/

theorem mulh_result : SrcResult .mulh mulHigh := srcResult_of_exec fun _ _ _ _ => rfl
theorem mulhn_result : SrcResult .mulhn mulHighU := srcResult_of_exec fun _ _ _ _ => rfl
theorem div_result : SrcResult .div divSigned := srcResult_of_exec fun _ _ _ _ => rfl
theorem divn_result : SrcResult .divn divUnsigned := srcResult_of_exec fun _ _ _ _ => rfl
theorem rem_result : SrcResult .rem remSigned := srcResult_of_exec fun _ _ _ _ => rfl
theorem remn_result : SrcResult .remn remUnsigned := srcResult_of_exec fun _ _ _ _ => rfl
theorem mul_result : SrcResult .mul (fun x y => x * y) := srcResult_of_exec fun _ _ _ _ => rfl
theorem shl_result : BinaryResult .shl (fun x y => x <<< bits y 5 0) := binaryResult_of_exec fun _ _ _ _ => rfl
theorem shr_result : SrcResult .shr (fun x y => x >>> bits y 5 0) := srcResult_of_exec fun _ _ _ _ => rfl
theorem sar_result : SrcResult .sar (fun x y => x.sshiftRight (bits y 5 0)) := srcResult_of_exec fun _ _ _ _ => rfl
theorem rol_result : SrcResult .rol (fun x y => x <<< bits y 5 0 ||| x >>> (64 - bits y 5 0)) :=
  srcResult_of_exec fun _ _ _ _ => rfl
theorem clz_result : UnaryResult .clz (fun _ x => word (64 - bitLen x.toNat)) := unaryResult_of_exec fun _ _ _ => rfl
theorem ctz_result : UnaryResult .ctz (fun _ x => word (trailingZeros 64 x.toNat)) := unaryResult_of_exec fun _ _ _ => rfl
theorem popc_result : UnaryResult .popc (fun _ x => word (popCount 64 x.toNat)) := unaryResult_of_exec fun _ _ _ => rfl
theorem bswap_result : UnaryResult .bswap (fun _ x => word (numLe (bytesLe 8 x.toNat).reverse)) :=
  unaryResult_of_exec fun _ _ _ => rfl

theorem shifts_bit_by_bit (x y : Word) {i c : Nat} (hi : i < 64) (hc : c = y.toNat % 64) :
    (x <<< bits y 5 0).getLsbD i = (decide (c ≤ i) && x.getLsbD (i - c)) ∧
    (x >>> bits y 5 0).getLsbD i = x.getLsbD (i + c) ∧
    (x.sshiftRight (bits y 5 0)).getLsbD i = (if i + c < 64 then x.getLsbD (i + c) else x.getLsbD 63) ∧
    (x <<< bits y 5 0 ||| x >>> (64 - bits y 5 0)).getLsbD i = x.getLsbD ((i + 64 - c) % 64) := by
  have hc64 : c < 64 := by omega
  rw [bits_5_0, ← hc]
  exact ⟨getLsbD_shiftLeft_word x hi c, getLsbD_shiftRight_word x i c, getLsbD_sshiftRight_word x hi c,
    getLsbD_rotate_word x hi hc64⟩

/-- Settles O5: each result is the model's own expression, which the lemmas above read as a product, a quotient, or bit by bit. -/
theorem productsQuotientsAndShifts : Obligations.ProductsQuotientsAndShifts := by
  unfold Obligations.ProductsQuotientsAndShifts
  refine ⟨⟨mul_result.congr mul_eq_ofInt, mulh_result, mulhn_result, div_result.congr divSigned_eq_sdiv,
    divn_result.congr divUnsigned_eq_udiv, rem_result.congr remSigned_eq_srem, remn_result.congr remUnsigned_eq_umod⟩, ?_, ?_⟩
  · exact ⟨_, _, _, _, shl_result, shr_result, sar_result, rol_result, fun x y i hi c hc => shifts_bit_by_bit x y hi hc⟩
  · exact ⟨_, _, _, _, clz_result, ctz_result, popc_result, bswap_result, clz_zero, ctz_zero,
      fun x => ⟨clz_spec, ctz_spec, popc_spec x, fun i hi => bswap_spec x hi⟩⟩

end Sys2Proof.Machine

namespace Sys2Proof.Machine

/-! ## Registers of a slot (R9) -/

theorem Slot.x_eq_of_regs {x y : Slot} (h : y.regs = x.regs) (n : Nat) : y.x n = x.x n := by
  rw [Slot.x, Slot.x, h]

theorem Slot.regs_setX {n : Nat} (h : 1 ≤ n ∧ n ≤ 50) (sl : Slot) (v : Word) :
    (sl.setX n v).regs.toList = sl.regs.toList.set (n - 1) v := by
  rw [Slot.setX, dif_pos h, Vector.toList_set]

theorem Slot.x_setX_self {n : Nat} (h : 1 ≤ n ∧ n ≤ 50) (sl : Slot) (v : Word) : (sl.setX n v).x n = v := by
  have hlt : n - 1 < sl.regs.toList.length := by rw [Vector.length_toList]; omega
  rw [Slot.x, if_neg (by omega), Slot.regs_setX h, List.getD_eq_getElem?_getD, List.getElem?_set_self hlt]
  rfl

theorem Slot.x_setX_ne {m n : Nat} (hne : m ≠ n) (sl : Slot) (v : Word) : (sl.setX n v).x m = sl.x m := by
  by_cases h : 1 ≤ n ∧ n ≤ 50
  · by_cases hm : m = 0
    · simp [Slot.x, hm]
    · rw [Slot.x, if_neg hm, Slot.regs_setX h, Slot.x, if_neg hm, List.getD_eq_getElem?_getD, List.getElem?_set_ne (by omega),
        List.getD_eq_getElem?_getD]
  · rw [Slot.setX, dif_neg h]

/-! ## What an instruction leaves as it was: reflexive and transitive -/

theorem Slot.SameSpecial.refl (x : Slot) : x.SameSpecial x := by constructor <;> rfl

theorem Slot.SameSpecial.trans {x y z : Slot} (h : x.SameSpecial y) (k : y.SameSpecial z) : x.SameSpecial z where
  frm := k.frm.trans h.frm
  tfrm := k.tfrm.trans h.tfrm
  asid := k.asid.trans h.asid
  tcause := k.tcause.trans h.tcause
  tip := k.tip.trans h.tip
  taddr := k.taddr.trans h.taddr
  thand := k.thand.trans h.thand
  tinfo := k.tinfo.trans h.tinfo
  rasid := k.rasid.trans h.rasid
  agsel := k.agsel.trans h.agsel
  qsel := k.qsel.trans h.qsel
  tvec := k.tvec.trans h.tvec
  ports := k.ports.trans h.ports
  lease := k.lease.trans h.lease
  scales := k.scales.trans h.scales
  batches := k.batches.trans h.batches
  bounds := k.bounds.trans h.bounds
  stack := k.stack.trans h.stack

theorem State.KeptRegs.trans {ds : List Nat} {s t u : State} (h : s.KeptRegs ds t) (k : t.KeptRegs ds u) : s.KeptRegs ds u where
  cur := k.cur.trans h.cur
  others g hg := (k.others g (h.cur ▸ hg)).trans (h.others g hg)
  regs n hn := (k.regs n hn).trans (h.regs n hn)
  special := h.special.trans k.special
  clusters := k.clusters.trans h.clusters
  dies := k.dies.trans h.dies
  asids := k.asids.trans h.asids
  hosts := k.hosts.trans h.hosts

theorem State.KeptBut.trans {ds : List Nat} {s t u : State} (h : s.KeptBut ds t) (k : t.KeptBut ds u) : s.KeptBut ds u where
  toKeptRegs := h.toKeptRegs.trans k.toKeptRegs
  bytes a := (k.bytes a).trans (h.bytes a)
  counters := k.counters.trans h.counters

/-- An update of the issuing slot keeps what it keeps of that slot. -/
theorem State.keptBut_modMe {ds : List Nat} (s : State) {f : Slot → Slot} (hregs : ∀ n, n ∉ ds → (f s.me).x n = s.me.x n)
    (hspecial : s.me.SameSpecial (f s.me))
    (hcounters : ((f s.me).ld, (f s.me).st, (f s.me).cp, (f s.me).tb) = (s.me.ld, s.me.st, s.me.cp, s.me.tb)) :
    s.KeptBut ds (s.modMe f) where
  cur := rfl
  others g hg := State.slot_modMe_ne s f hg
  regs n hn := by rw [State.me_modMe]; exact hregs n hn
  special := by rw [State.me_modMe]; exact hspecial
  clusters := rfl
  dies := rfl
  asids := rfl
  hosts := rfl
  bytes _ := rfl
  counters := by rw [State.me_modMe]; exact hcounters

theorem State.keptBut_modCore (s : State) (c : Nat) (f : Core → Core) : s.KeptBut [] (s.modCore c f) where
  cur := rfl
  others _ _ := rfl
  regs _ _ := rfl
  special := Slot.SameSpecial.refl _
  clusters := rfl
  dies := rfl
  asids := rfl
  hosts := rfl
  bytes _ := rfl
  counters := rfl

/-! ## Completing an instruction and leaving it (R29, R125) -/

theorem Slot.sameSpecial_complete (x : Slot) : x.SameSpecial x.complete := by constructor <;> rfl

theorem Slot.sameSpecial_advance (x : Slot) (n : Nat) : x.SameSpecial (x.advance n) := by constructor <;> simp

theorem State.keptBut_retire (s : State) : s.KeptBut [] s.retire :=
  s.keptBut_modMe (fun n _ => Slot.x_eq_of_regs (by simp) n)
    (s.me.sameSpecial_complete.trans (Slot.sameSpecial_advance _ _)) (by simp)

theorem State.keptBut_jump (s : State) (target : Word) : s.KeptBut [] (s.jump target) :=
  s.keptBut_modMe (fun n _ => Slot.x_eq_of_regs rfl n) (by constructor <;> rfl) rfl

theorem State.jump_pc (s : State) (target : Word) : (s.jump target).me.pc = target := by
  rw [State.jump, State.me_modMe]

theorem State.jump_x (s : State) (target : Word) (n : Nat) : (s.jump target).me.x n = s.me.x n :=
  (s.keptBut_jump target).regs n List.not_mem_nil

theorem Slot.sameSpecial_setX (x : Slot) (n : Nat) (v : Word) : x.SameSpecial (x.setX n v) := by constructor <;> simp

theorem State.keptBut_setX (s : State) (n : Nat) (v : Word) : s.KeptBut [n] (s.modMe (·.setX n v)) :=
  s.keptBut_modMe (fun _ hm => Slot.x_setX_ne (by simpa using hm) _ _) (Slot.sameSpecial_setX _ _ _) (by simp)

theorem State.KeptBut.mono {ds es : List Nat} {s t : State} (h : s.KeptBut ds t) (hsub : ∀ n ∈ ds, n ∈ es) : s.KeptBut es t :=
  { h with regs := fun n hn => h.regs n fun hd => hn (hsub n hd) }

/-! ## What reading ports changes (R171, R174) -/

/-- From `s` to `t` elements have been popped from ports of the issuing slot: only queues, launches, the unit of that slot and the
generators of cores may differ. -/
structure State.PopsTo (s t : State) : Prop where
  parts : t = { s with queues := t.queues, launches := t.launches, slots := t.slots, cores := t.cores }
  others : ∀ g, g ≠ s.cur → t.slot g = s.slot g
  me : ∃ u, t.me = { s.me with unit := u }
  cores : ∀ c, ∃ gens, t.core c = { s.core c with gens := gens }

theorem State.PopsTo.refl (s : State) : s.PopsTo s := ⟨rfl, fun _ _ => rfl, ⟨_, rfl⟩, fun _ => ⟨_, rfl⟩⟩

theorem State.PopsTo.cur {s t : State} (h : s.PopsTo t) : t.cur = s.cur := by rw [h.parts]

theorem State.PopsTo.trans {s t u : State} (h : s.PopsTo t) (k : t.PopsTo u) : s.PopsTo u where
  parts := by
    have hu := k.parts
    rw [h.parts] at hu
    exact hu
  others g hg := (k.others g (h.cur ▸ hg)).trans (h.others g hg)
  me := by
    obtain ⟨_, ht⟩ := h.me
    obtain ⟨v, hu⟩ := k.me
    exact ⟨v, by rw [hu, ht]⟩
  cores c := by
    obtain ⟨_, ht⟩ := h.cores c
    obtain ⟨gens, hu⟩ := k.cores c
    exact ⟨gens, by rw [hu, ht]⟩

/-- Changes of queues alone. -/
theorem State.popsTo_queues (s : State) (qs : Tab Queue) : s.PopsTo { s with queues := qs } :=
  ⟨rfl, fun _ _ => rfl, ⟨_, rfl⟩, fun _ => ⟨_, rfl⟩⟩

theorem State.popsTo_modLaunch (s : State) (l : Nat) (f : Launch → Launch) : s.PopsTo (s.modLaunch l f) :=
  ⟨rfl, fun _ _ => rfl, ⟨_, rfl⟩, fun _ => ⟨_, rfl⟩⟩

theorem State.popsTo_unit (s : State) {g : Nat} (hg : g = s.cur) (u : Option UnitInfo) :
    s.PopsTo (s.modSlot g fun sl => { sl with unit := u }) := by
  subst hg
  exact ⟨rfl, fun _ hg => State.slot_modSlot_ne s _ hg, ⟨u, State.slot_modSlot_self s s.cur _⟩, fun _ => ⟨_, rfl⟩⟩

theorem State.popsTo_gens (s : State) (c : Nat) (f : Core → Tab Generator) :
    s.PopsTo (s.modCore c fun x => { x with gens := f x }) where
  parts := rfl
  others _ _ := rfl
  me := ⟨_, rfl⟩
  cores k := by
    by_cases hk : k = c
    · subst hk
      exact ⟨_, State.core_modCore_self s k _⟩
    · exact ⟨(s.core k).gens, State.core_modCore_ne s _ hk⟩

theorem State.deliver_popsTo (n : Nat) (s : State) (q : Nat) : s.PopsTo (State.deliver n s q) := by
  induction n generalizing s with
  | zero => exact .refl s
  | succ n ih =>
    unfold State.deliver
    split
    · exact .refl s
    · split
      · exact .refl s
      · exact (s.popsTo_queues _).trans (ih _)

theorem State.deliverAll_popsTo (s : State) (l : Nat) : s.PopsTo (s.deliverAll l) := by
  unfold State.deliverAll
  generalize (s.launch l).queueIds = qs
  induction qs generalizing s with
  | nil => exact .refl s
  | cons q qs ih =>
    refine State.PopsTo.trans ?_ (ih _)
    dsimp only
    split
    · exact State.deliver_popsTo _ s q
    · exact .refl s

theorem State.popQueue_popsTo (s : State) (q n : Nat) : s.PopsTo (s.popQueue s.cur q n) := by
  unfold State.popQueue
  split
  · split
    · extract_lets k fin popped fresh s1 u' s2 s3
      have hs1 : s.PopsTo s1 := by
        unfold s1
        split
        · exact s.popsTo_modLaunch _ _
        · exact .refl s
      have hs2 : s.PopsTo s2 := hs1.trans (s1.popsTo_unit hs1.cur.symm _)
      have hs3 : s.PopsTo s3 := hs2.trans (s2.popsTo_queues _)
      split
      · exact hs3.trans (State.deliverAll_popsTo _ _)
      · exact hs3
    · exact s.popsTo_queues _
  · exact .refl s

theorem State.popPort_popsTo (s : State) (p n : Nat) : s.PopsTo (s.popPort s.cur p n) := by
  unfold State.popPort
  split
  · exact s.popQueue_popsTo _ n
  · exact s.popsTo_gens _ _
  · exact .refl s

theorem State.popAll_popsTo (s : State) (reads : List Nat) : s.PopsTo (s.popAll reads) := by
  induction reads generalizing s with
  | nil => exact .refl s
  | cons r rs ih =>
    unfold State.popAll
    split
    · exact (s.popPort_popsTo r 1).trans (ih _)
    · exact ih s

theorem State.PopsTo.keptBut {s t : State} (h : s.PopsTo t) : s.KeptBut [] t := by
  obtain ⟨u, hme⟩ := h.me
  exact
    { cur := h.cur
      others := h.others
      regs := fun n _ => by rw [hme]; rfl
      special := by rw [hme]; constructor <;> rfl
      clusters := by rw [h.parts]
      dies := by rw [h.parts]
      asids := by rw [h.parts]
      hosts := by rw [h.parts]
      bytes := fun a => by rw [h.parts]
      counters := by rw [hme] }

end Sys2Proof.Machine

namespace Sys2Proof.Machine

/-! ## Branches, calls and returns (R125 to R127) -/

theorem bit_zero_eq (x : Word) : bit x 0 = x.getLsbD 0 := by
  simp [bit, BitVec.getLsbD, Nat.testBit_zero]

theorem exec_bcc_of_holds {s : State} {c : Cond} {a : Nat} {i : Int} {x : Word} (hc : c ≠ .al) (h : s.Ready [a] none [x])
    (ht : condHolds c x = true) :
    exec (.bcc c a i) s = .next ((s.popAll [a]).jump (s.me.pc + BitVec.ofInt 64 (2 * i))) := by
  have hv : condHolds c ([x].getD 0 0) = true := ht
  change execBcc c a i s = _
  simp only [execBcc, if_neg hc, State.operands_ready h, bind, Except.bind, hv, if_true, conclude, State.target, wordOfInt]

theorem exec_bcc_of_not_holds {s : State} {c : Cond} {a : Nat} {i : Int} {x : Word} (hc : c ≠ .al) (h : s.Ready [a] none [x])
    (ht : condHolds c x = false) : exec (.bcc c a i) s = .next (s.popAll [a]).retire := by
  have hv : condHolds c ([x].getD 0 0) = false := ht
  change execBcc c a i s = _
  simp only [execBcc, if_neg hc, State.operands_ready h, bind, Except.bind, hv, Bool.false_eq_true, if_false, conclude]

/-- No register is read and none is written: nothing is missing. -/
theorem State.ready_nil (s : State) : s.Ready [] none [] where
  exist n hn := by simp at hn
  declared n hn := by simp at hn
  readable n hn := by simp at hn
  writable d hd := by simp at hd
  values := rfl

theorem exec_bcc_always (s : State) (a : Nat) (i : Int) :
    exec (.bcc .al a i) s = .next (s.jump (s.me.pc + BitVec.ofInt 64 (2 * i))) := by
  change execBcc .al a i s = _
  simp only [execBcc, if_true, State.operands_ready s.ready_nil, bind, Except.bind, condHolds, conclude, State.target,
    wordOfInt, State.popAll]

theorem exec_call (s : State) (i : Int) : exec (.call i) s =
    .next ((s.modMe (·.setX 48 (s.me.pc + word s.ilen))).jump (s.me.pc + BitVec.ofInt 64 (2 * i))) := rfl

theorem jumpChecked_even {t : Word} (h : t.getLsbD 0 = false) (s : State) : s.jumpChecked t = .error (.done (s.jump t)) := by
  simp only [State.jumpChecked, bit_zero_eq, h, Bool.false_eq_true, if_false]

theorem jumpChecked_odd {t : Word} (h : t.getLsbD 0 = true) (s : State) : s.jumpChecked t = .error (trapAt 0x05 t 0) := by
  simp only [State.jumpChecked, bit_zero_eq, h, if_true]

/-- jr ends as the transfer to the value read does, in the state after the pops. -/
theorem exec_jr_ready {s : State} {a : Nat} {x : Word} (h : s.Ready [a] none [x]) :
    exec (.jr a) s = conclude s ((s.popAll [a]).jumpChecked x) := by
  change execJr a s = _
  simp only [execJr, State.operands_ready h, bind, Except.bind]
  rfl

theorem exec_ret (s : State) : exec .ret s = conclude s (s.jumpChecked (s.me.x 48)) := rfl

theorem exec_nop (s : State) : exec .nop s = .next s.retire := rfl

theorem exec_halt (s : State) : exec .halt s = .next (s.modMe Slot.halted) := rfl

theorem State.keptBut_halted (s : State) : s.KeptBut [] (s.modMe Slot.halted) :=
  s.keptBut_modMe (fun n _ => Slot.x_eq_of_regs rfl n) (by constructor <;> rfl) rfl

theorem State.keptBut_popAll (s : State) (reads : List Nat) : s.KeptBut [] (s.popAll reads) := (s.popAll_popsTo reads).keptBut

/-- The model's test of a branch is the comparison of R125 with zero. -/
theorem condHolds_iff (x : Word) :
    (condHolds .eq x = true ↔ x = 0) ∧ (condHolds .ne x = true ↔ x ≠ 0) ∧ (condHolds .lt x = true ↔ x.toInt < 0) ∧
    (condHolds .ge x = true ↔ 0 ≤ x.toInt) ∧ (condHolds .gt x = true ↔ 0 < x.toInt) ∧ (condHolds .le x = true ↔ x.toInt ≤ 0) := by
  have hzero : x.toInt = 0 ↔ x = 0 := ⟨fun h => BitVec.eq_of_toInt_eq h, fun h => by rw [h]; rfl⟩
  simp [condHolds, hzero]

/-- Settles O14: each instruction ends in one jump, one stop, or the ordinary advance, and pops no more than it reads. -/
theorem controlTransfer : Obligations.ControlTransfer := by
  unfold Obligations.ControlTransfer
  refine ⟨fun s c a i x hc hr => ?_, fun s a i => ?_, fun s i => ?_, fun s a x hr hx => ?_, fun s a x hr hx => ?_, fun s hx => ?_,
    fun s hx => ?_, fun s => ⟨exec_nop s, s.keptBut_retire⟩, fun s u hu => ?_⟩
  · intro holds
    have htest : condHolds c x = true ↔ holds := by
      obtain ⟨heq, hne, hlt, hge, hgt, hle⟩ := condHolds_iff x
      cases c with
      | eq => exact heq
      | ne => exact hne
      | lt => exact hlt
      | ge => exact hge
      | gt => exact hgt
      | le => exact hle
      | al => exact absurd rfl hc
    exact ⟨fun hh => exec_bcc_of_holds hc hr (htest.2 hh),
      fun hh => exec_bcc_of_not_holds hc hr (Bool.eq_false_iff.2 fun ht => hh (htest.1 ht))⟩
  · exact ⟨_, exec_bcc_always s a i, s.jump_pc _, s.keptBut_jump _⟩
  · refine ⟨_, exec_call s i, State.jump_pc _ _, ?_, (s.keptBut_setX 48 _).trans ((State.keptBut_jump _ _).mono (by simp))⟩
    rw [State.jump_x, State.me_modMe, Slot.x_setX_self (by omega)]
  · refine ⟨(s.popAll [a]).jump x, ?_, State.jump_pc _ _, (s.keptBut_popAll [a]).trans (State.keptBut_jump _ _)⟩
    rw [exec_jr_ready hr, jumpChecked_even hx, conclude]
  · rw [exec_jr_ready hr, jumpChecked_odd hx, trapAt, conclude]
  · refine ⟨s.jump (s.me.x 48), ?_, s.jump_pc _, s.keptBut_jump _⟩
    rw [exec_ret, jumpChecked_even hx, conclude]
  · rw [exec_ret, jumpChecked_odd hx, trapAt, conclude]
  · have hme : (s.modMe Slot.halted).me = s.me.halted := s.me_modMe _
    have hunit : s.me.halted.unit = some { u with how := 1 } := by rw [Slot.halted, hu]; rfl
    exact ⟨_, exec_halt s, by rw [hme]; rfl, by rw [hme]; rfl, by rw [hme]; rfl, by rw [hme, hunit], s.keptBut_halted⟩

/-! ## Bit fields, header layouts, slot numbers and time (R119 to R124, R133, R134) -/

theorem posOf_eq (y : Word) : posOf y = y.toNat % 64 := bits_5_0 y

theorem lenOf_eq (y : Word) : lenOf y = y.toNat / 64 % 64 + 1 := by simp [lenOf, bits]

theorem bext_reg_result : BinaryResult (fun d a b => .bext d a (.reg b)) (fun x y => extractField x (posOf y) (lenOf y)) :=
  binaryResult_of_exec fun _ _ _ _ => rfl

theorem bext_imm_result (pos len : Nat) : UnaryResult (fun d a => .bext d a (.imm pos len)) (fun _ x => extractField x pos len) :=
  unaryResult_of_exec fun _ _ _ => rfl

theorem bins_reg_result :
    TernaryResult (fun d a b => .bins d a (.reg b)) (fun o x y => insertField o x (posOf y) (lenOf y)) :=
  ternaryResult_of_exec fun _ _ _ _ => rfl

theorem exec_bins_imm {s : State} {d a pos len : Nat} {o x : Word} (h : s.Ready [d, a] (some d) [o, x]) (hp : isPort d = false) :
    exec (.bins d a (.imm pos len)) s = .next (s.after [d, a] d (insertField o x pos len)) := by
  change execBins d a (.imm pos len) s = _
  simp only [execBins, State.operandsD_ready h hp, bind, Except.bind, conclude, State.after]
  rfl

theorem State.layout_modMe (s : State) (f : Slot → Slot) (l : Nat) : (s.modMe f).layout l = s.layout l := rfl

theorem State.layout_retire (s : State) (l : Nat) : s.retire.layout l = s.layout l := s.layout_modMe _ l

theorem State.PopsTo.layout {s t : State} (h : s.PopsTo t) (l : Nat) : t.layout l = s.layout l := by
  obtain ⟨gens, hcore⟩ := h.cores s.myCore
  rw [State.layout, State.layout, State.myCore, h.cur, ← State.myCore, hcore]

/-- The layout table of the issuing core with one layout written (R124). -/
def State.setLayout (s : State) (l : Nat) (lay : Word × Word) : State :=
  s.modCore s.myCore fun c => { c with layouts := Tab.set c.layouts l lay }

theorem State.layout_setLayout_self (s : State) (l : Nat) (lay : Word × Word) : (s.setLayout l lay).layout l = lay := by
  show Tab.getD ((s.setLayout l lay).core s.myCore).layouts l (0, 0) = lay
  rw [State.setLayout, State.core_modCore_self, Tab.getD_set_self]

theorem State.layout_setLayout_ne (s : State) {k l : Nat} (lay : Word × Word) (h : k ≠ l) :
    (s.setLayout l lay).layout k = s.layout k := by
  show Tab.getD ((s.setLayout l lay).core s.myCore).layouts k (0, 0) = s.layout k
  rw [State.setLayout, State.core_modCore_self, Tab.getD_set_ne _ _ _ h, State.layout]

theorem all_layoutFieldOk_iff (lay : Word × Word) :
    (List.range 8).all (layoutFieldOk lay) = true ↔ ∀ f < 8, layoutFieldOk lay f = true := by
  simp [List.all_eq_true]

theorem exec_hdrSet_ok {s : State} {l a b : Nat} {x y : Word} (h : s.Ready [a, b] none [x, y])
    (hok : ∀ f < 8, layoutFieldOk (x, y) f = true) :
    exec (.hdrSet l a b) s = .next ((s.popAll [a, b]).setLayout l (x, y)).retire := by
  have hall : (List.range 8).all (layoutFieldOk ([x, y].getD 0 0, [x, y].getD 1 0)) = true := (all_layoutFieldOk_iff _).2 hok
  have hcore : s.myCore = (s.popAll [a, b]).myCore := by rw [State.myCore, State.myCore, (s.popAll_popsTo [a, b]).cur]
  change execHdrSet l a b s = _
  simp only [execHdrSet, State.operands_ready h, bind, Except.bind, hall, if_true, conclude, hcore]
  rfl

theorem exec_hdrSet_refused {s : State} {l a b : Nat} {x y : Word} (h : s.Ready [a, b] none [x, y])
    (hbad : ∃ f < 8, layoutFieldOk (x, y) f = false) : exec (.hdrSet l a b) s =
      .next (s.takeTrap s.cur { cause := 0x01, taddr := s.me.pc + word (s.ilen - 2), tinfo := 3 }) := by
  obtain ⟨f, hf, hno⟩ := hbad
  have hnot : (List.range 8).all (layoutFieldOk (x, y)) = false := Bool.eq_false_iff.2 fun hok =>
    Bool.eq_false_iff.1 hno ((all_layoutFieldOk_iff _).1 hok f hf)
  have hall : (List.range 8).all (layoutFieldOk ([x, y].getD 0 0, [x, y].getD 1 0)) = false := hnot
  change execHdrSet l a b s = _
  simp only [execHdrSet, State.operands_ready h, bind, Except.bind, hall, Bool.false_eq_true, if_false, conclude,
    State.illegal]

theorem hdrSet_writes_layout {s : State} {l a b : Nat} {x y : Word} (h : s.Ready [a, b] none [x, y])
    (hok : ∀ f < 8, layoutFieldOk (x, y) f = true) : ∃ t, exec (.hdrSet l a b) s = .next t ∧ t.layout l = (x, y) ∧
      (∀ k, k ≠ l → t.layout k = s.layout k) ∧ s.KeptBut [] t := by
  have hpop := s.popAll_popsTo [a, b]
  refine ⟨_, exec_hdrSet_ok h hok, ?_, fun k hk => ?_, ?_⟩
  · rw [State.layout_retire, State.layout_setLayout_self]
  · rw [State.layout_retire, State.layout_setLayout_ne _ _ hk, hpop.layout]
  · exact (hpop.keptBut.trans (State.keptBut_modCore _ _ _)).trans (State.keptBut_retire _)

theorem hdrGet_result (l f : Nat) : UnaryResult (.hdrGet · · l f) (fun s x =>
    word (x.toNat / 2 ^ (layoutField (s.layout l) f).1 % 2 ^ (layoutField (s.layout l) f).2)) :=
  unaryResult_of_exec fun _ _ _ => rfl

theorem exec_hdrPack {s : State} {d a l : Nat} {vs : List Word}
    (h : s.Ready [a, a + 1, a + 2, a + 3, a + 4, a + 5, a + 6, a + 7] (some d) vs) : exec (.hdrPack d a l) s =
      .next (s.after [a, a + 1, a + 2, a + 3, a + 4, a + 5, a + 6, a + 7] d (packHeader (s.layout l) vs 0 0)) := by
  have hfields : (List.range 8).map (a + ·) = [a, a + 1, a + 2, a + 3, a + 4, a + 5, a + 6, a + 7] := rfl
  change execHdrPack d a l s = _
  simp only [execHdrPack, hfields, State.operands_ready h, bind, Except.bind, conclude, State.after]

theorem cid_result (sel : CidSel) : NullaryResult (.cid · sel) (fun s => s.identity sel) := nullaryResult_of_exec fun _ _ => rfl

theorem tsRd_result : NullaryResult .tsRd (fun s => word (s.timeOf (dieOf s.cur))) := nullaryResult_of_exec fun _ _ => rfl

/-- A slot of a compute core knows its cluster, its die and its place in the cluster by division (R147). -/
theorem State.identity_of_compute {s : State} (h : s.cur < 12288) :
    s.identity .cluster = word (s.cur / 128) ∧ s.identity .die = word (s.cur / 3072) ∧
    s.identity .coreInCluster = word (s.cur / 16 % 8) := by
  have hcore : s.cur / 16 < 768 := by omega
  have hridge : isRidgeCore s.myCore = false := decide_eq_false (Nat.not_le.2 hcore)
  have hcluster : clusterOf s.myCore = s.cur / 128 := Nat.div_div_eq_div_mul s.cur 16 8
  have hdie : dieOfCore s.myCore = s.cur / 3072 := by
    rw [dieOfCore, State.myCore, coreOf, if_pos hcore, Nat.div_div_eq_div_mul]
  simp only [State.identity, hridge, Bool.false_eq_true, if_false, hcluster, hdie, true_and]
  rfl

/-- Settles O6: extractField and insertField are the two field operations, read bit by bit; the layouts stand in the core's table. -/
theorem bitFieldsLayoutsAndIdentity : Obligations.BitFieldsLayoutsAndIdentity := by
  unfold Obligations.BitFieldsLayoutsAndIdentity
  refine ⟨⟨extractField, insertField, ?_, bext_imm_result, ?_, fun pos len s d a o x hr hp => exec_bins_imm hr hp,
      fun o x pos _ len _ _ i hi => ⟨getLsbD_extractField x pos hi, getLsbD_insertField o x pos len hi⟩⟩,
    ⟨fun s l a b x y hr hok => hdrSet_writes_layout hr hok, fun s l a b x y hr hbad => exec_hdrSet_refused hr hbad,
      hdrGet_result, fun s d a l vs hr => exec_hdrPack hr⟩,
    cid_result .gslot, cid_result .core, fun s d hcur hr => ?_, fun s d sel hr => ⟨_, cid_result sel s d hr⟩, tsRd_result⟩
  · simpa only [posOf_eq, lenOf_eq] using bext_reg_result
  · simpa only [posOf_eq, lenOf_eq] using bins_reg_result
  · obtain ⟨hcluster, hdie, hplace⟩ := State.identity_of_compute hcur
    rw [← hcluster, ← hdie, ← hplace]
    exact ⟨cid_result .cluster s d hr, cid_result .die s d hr, cid_result .coreInCluster s d hr⟩

end Sys2Proof.Machine

namespace Sys2Proof

/-! ## The length of an encoded unsigned immediate (R48, R73) -/

theorem payloads_length (n v : Nat) : (payloads n v).length = n := by
  induction n generalizing v with
  | zero => rfl
  | succ n ih => simp [payloads, ih]

theorem fitsUnsigned_iff (w n v : Nat) : fitsUnsigned w n v = true ↔ v < 2 ^ (9 * n + w) := by
  simp only [fitsUnsigned, Bool.and_eq_true, decide_eq_true_eq, Int.natCast_nonneg, true_and]
  exact_mod_cast Iff.rfl

/-- One prefix of page p and one base word stand around the IMM prefixes of an immediate in the base field a:b. -/
theorem emit_length_pagedAB {p k m v : Nat} (hp : p ≠ 0) :
    (emit ((paged p k m 0 0 0 0).withAB (splitUnsigned 8 v))).length = fewest (fun n => fitsUnsigned 8 n v) + 2 := by
  have hfits : v % 256 / 16 < 16 ∧ v % 256 % 16 < 16 := by omega
  simp [emit, paged, Fields.withAB, splitUnsigned, payloads_length, hp, hfits]
  omega

/-- An immediate of a base field of 8 bits needs no IMM prefix below 256, and one below 131072. -/
theorem fewest_fitsUnsigned_8 {v : Nat} (hv : v < 131072) :
    fewest (fun n => fitsUnsigned 8 n v) = if v < 256 then 0 else 1 := by
  have hnone : fitsUnsigned 8 0 v = true ↔ v < 256 := fitsUnsigned_iff 8 0 v
  have hone : fitsUnsigned 8 1 v = true := (fitsUnsigned_iff 8 1 v).2 hv
  simp only [fewest, hnone, hone, if_true]

theorem encode_trap_length {code : Nat} (h : code < 65536) : (encode (.trap code)).length = if code < 256 then 2 else 3 := by
  have hencode : encode (.trap code) = emit ((paged 7 4 0 0 0 0 0).withAB (splitUnsigned 8 code)) := rfl
  rw [hencode, emit_length_pagedAB (by omega), fewest_fitsUnsigned_8 (by omega)]
  split <;> rfl

end Sys2Proof

namespace Sys2Proof.Machine

/-! ## Entry into a trap handler (R395) -/

theorem bit_eq_getLsbD (x : Word) (n : Nat) : bit x n = x.getLsbD n := by
  rw [bit, BitVec.getLsbD, Nat.testBit_eq_decide_div_mod_eq]

theorem Slot.handles_of {sl : Slot} (hset : sl.thand ≠ 0) (heven : sl.thand.getLsbD 0 = false)
    (hidle : sl.tcause.getLsbD 63 = false) : sl.handles = true := by
  simp only [Slot.handles, bit_eq_getLsbD, beq_eq_false_iff_ne.2 hset, heven, hidle, Bool.or_self, Bool.not_false]

/-- Entry into a handler changes the slot alone; only cause 0x11 counts an error beside it (R472). -/
theorem State.takeTrap_of_handles {s : State} {g : Nat} {t : Trap} (hcause : t.cause ≠ 0x11) (h : (s.slot g).handles = true) :
    s.takeTrap g t = s.setSlot g ((s.slot g).enterHandler t) := by
  simp only [State.takeTrap, hcause, h, decide_false, Bool.false_and, Bool.false_eq_true, if_false, if_true]

/-! ## Software traps and trap return (R414, R415) -/

theorem exec_trap (s : State) (code : Nat) :
    exec (.trap code) s = .next (s.takeTrap s.cur { cause := 0x12, taddr := 0, tinfo := code % 256 }) := rfl

/-- A software trap of a slot with a handler enters it. -/
theorem me_takeTrap_software {s : State} (code : Nat) (h : s.me.handles = true) :
    (s.takeTrap s.cur { cause := 0x12, taddr := 0, tinfo := code % 256 }).me =
      s.me.enterHandler { cause := 0x12, taddr := 0, tinfo := code % 256 } := by
  rw [State.takeTrap_of_handles (by simp) h]
  exact s.slot_setSlot_self s.cur _

/-- The state after a trap return: the issuing slot continues at tip, and its handler has ended (tcause bit 63). -/
def State.trapReturned (s : State) : State := (s.jump s.me.tip).modMe fun sl => { sl with tcause := keep sl.tcause (2 ^ 63 - 1) }

theorem State.me_trapReturned (s : State) : s.trapReturned.me =
    { s.me.complete with pc := s.me.tip, blocks := [], tcause := keep s.me.tcause (2 ^ 63 - 1) } := by
  rw [State.trapReturned, State.me_modMe, State.jump, State.me_modMe]
  rfl

theorem State.mem_trapReturned (s : State) : s.trapReturned.mem = s.mem := rfl

/-- A mask of n low bits keeps the bits below n. -/
theorem getLsbD_keep_low (x : Word) {n k : Nat} (hk : k < 64) :
    (keep x (2 ^ n - 1)).getLsbD k = (x.getLsbD k && decide (k < n)) := by
  rw [keep, BitVec.getLsbD_and, BitVec.getLsbD_ofNat, Nat.testBit_two_pow_sub_one, decide_eq_true hk, Bool.true_and]

theorem exec_tret_of_even {s : State} (hridge : 768 ≤ s.myCore) (h : s.me.tip.getLsbD 0 = false) :
    exec .tret s = .next s.trapReturned := by
  change execTret s = _
  simp only [execTret, isRidgeCore, hridge, bit_eq_getLsbD, h, decide_true, Bool.not_true, Bool.false_eq_true, if_false, conclude,
    State.trapReturned]

theorem exec_tret_of_odd {s : State} (hridge : 768 ≤ s.myCore) (h : s.me.tip.getLsbD 0 = true) :
    exec .tret s = .next (s.takeTrap s.cur { cause := 0x05, taddr := s.me.tip, tinfo := 0 }) := by
  change execTret s = _
  simp only [execTret, isRidgeCore, hridge, bit_eq_getLsbD, h, decide_true, Bool.not_true, Bool.false_eq_true, if_false, if_true,
    conclude, trapAt]

theorem exec_tret_of_compute {s : State} (h : s.myCore < 768) :
    exec .tret s = .next (s.takeTrap s.cur { cause := 0x03, taddr := 0, tinfo := 0 }) := by
  have hridge : isRidgeCore s.myCore = false := decide_eq_false (Nat.not_le.2 h)
  change execTret s = _
  simp only [execTret, hridge, Bool.not_false, if_true, conclude, trapAt]

/-- Settles O42: trap is the entry with cause 0x12, whose encoding has an IMM prefix from code 256 on, and tret ends in one of
three ways, by its core and by bit 0 of tip. -/
theorem softwareTrapAndReturn : Obligations.SoftwareTrapAndReturn := by
  unfold Obligations.SoftwareTrapAndReturn
  refine ⟨exec_trap, fun code h => encode_trap_length h, fun s code hhandler => ?_, fun s hridge htip => ?_,
    fun s hridge htip => exec_tret_of_odd hridge htip, fun s hcompute => exec_tret_of_compute hcompute⟩
  · obtain ⟨hset, heven, hidle⟩ := hhandler
    refine ⟨_, exec_trap s code, ?_⟩
    have hcause : word (ofBool true * 2 ^ 63 + ofBool false * 2 ^ 62 + 0x12) = BitVec.ofNat 64 (2 ^ 63 + 0x12) := by decide
    rw [me_takeTrap_software code (Slot.handles_of hset heven hidle)]
    exact ⟨rfl, rfl, rfl, rfl, hcause⟩
  · refine ⟨_, exec_tret_of_even hridge htip, ?_⟩
    rw [s.me_trapReturned]
    refine ⟨rfl, ?_, fun k hk => ?_, rfl, rfl, fun n => Slot.x_eq_of_regs rfl n, s.mem_trapReturned⟩
    · rw [getLsbD_keep_low _ (by omega), decide_eq_false (Nat.lt_irrefl 63), Bool.and_false]
    · rw [getLsbD_keep_low _ (by omega), decide_eq_true hk, Bool.and_true]

end Sys2Proof.Machine
